-- ==== Sys2Proof/Word.lean ====
section
/-! DEFINITION. Word types of the Edeanos E32 (spec/00_scope.md, "Numbers and units"). -/

namespace Sys2Proof

/-- A byte is 8 bits. -/
abbrev Byte := BitVec 8
/-- A doubleword is 64 bits: the width of the general, floating-point and system registers. -/
abbrev Word := BitVec 64
/-- A logical core ID (R19); VKE24-M has cores 0 to 23 only (R9). -/
abbrev CoreId := Fin 32
/-- The number of a general, floating-point, vector or mask register field (R47). -/
abbrev Reg := Fin 32

end Sys2Proof
end

