-- ==== Sys2Proof/Machine/Bits.lean ====
section
/-! DEFINITION. Bit fields and byte order (R14). -/

namespace Sys2Proof
namespace Machine

/-- Bits [lo + n - 1 : lo] of a word. -/
abbrev fld {w : Nat} (x : BitVec w) (lo n : Nat) : BitVec n := x.extractLsb' lo n

/-- Bit i of a word. -/
abbrev bit {w : Nat} (x : BitVec w) (i : Nat) : Bool := x.getLsbD i

/-- A field at its place in a 64-bit word. -/
def put {n : Nat} (x : BitVec n) (lo : Nat) : Word := (x.setWidth 64) <<< lo

/-- A flag at its place in a 64-bit word. -/
def flag (b : Bool) (i : Nat) : Word := if b then (1 : Word) <<< i else 0

/-- The word with bits [lo + n - 1 : lo] replaced. -/
def setFld {w n : Nat} (x : BitVec w) (lo : Nat) (v : BitVec n) : BitVec w :=
  (x &&& ~~~(((BitVec.allOnes n).setWidth w) <<< lo)) ||| ((v.setWidth w) <<< lo)

/-- The value of bytes, the first least significant (R14). -/
def fromLe : List Byte → Nat
  | [] => 0
  | b :: bs => b.toNat + 256 * fromLe bs

/-- The n bytes of a value, least significant first (R14). -/
def toLe : Nat → Nat → List Byte
  | 0, _ => []
  | n + 1, v => BitVec.ofNat 8 v :: toLe n (v / 256)

/-- The 32-bit word of a sign-extended result. -/
def sext32 (x : BitVec 32) : Word := x.signExtend 64

/-- Saturating increment of a counter. -/
def satInc {w : Nat} (x : BitVec w) : BitVec w := if x = BitVec.allOnes w then x else x + 1

/-- Saturating addition to a counter. -/
def satAdd {w : Nat} (x : BitVec w) (n : Nat) : BitVec w :=
  if x.toNat + n < 2 ^ w then BitVec.ofNat w (x.toNat + n) else BitVec.allOnes w

/-- Floor of log2, 0 for 0. -/
def log2 (n : Nat) : Nat := Nat.log2 n

end Machine
end Sys2Proof
end

