-- ==== Sys2Proof/Syntax.lean ====
section
/-! DEFINITION. The commands of the die: one constructor of `Instr` per row of spec/opcode_table.json, with the row's operands. -/

namespace Sys2Proof

/-- Who makes a control-space or doorbell access (R340, R578). -/
inductive Writer where
  /-- A core, at its current level and polder. -/
  | core (c : CoreId)
  /-- The host, through doorway D0 or D1. -/
  | host
  /-- The pumphouse, through the hatch (R470). -/
  | hatch
  deriving DecidableEq, Repr

/-- A store that has reached a doorbell page or a step page: its size in bytes, its data, the polder tag of the leaf that
translated it, and whether it comes from PL2, PL3, the pumphouse or the host, which are not compared (R340). -/
structure DevStore where
  size : Nat
  value : Word
  tag : BitVec 12
  trusted : Bool
  deriving DecidableEq, Repr

/-- What a fault of the matrix engine does in one attempt of an operation (R163, R173). -/
inductive LaneDev where
  /-- The bits of one uncommitted result element in which the faulty lanes' result differs from the correct one. -/
  | result (row col : Fin 32) (flip : Word)
  /-- The checksum lane's own value of the row is wrong by more than the comparison allows. -/
  | check (row : Fin 32)
  deriving DecidableEq, Repr

/-- A pumphouse instruction word whose move into the row's port is on one of the two buses (R458). -/
inductive PhMove where
  /-- Bits [31:24] are `src`, [23:16] the row's port, [15:0] `rest`: the move of bus 1, or a long immediate. -/
  | bus0 (src : BitVec 8) (rest : BitVec 16)
  /-- Bits [31:16] are `rest`, the move of bus 0; [15:8] are `src` and [7:0] the row's port. -/
  | bus1 (src : BitVec 8) (rest : BitVec 16)
  deriving DecidableEq, Repr

/-- A porch command packet but for its OPCODE, which is the row's (R483, "Command packet"). -/
structure Packet where
  /-- FLAGS, DW0 [15:8]: bit 0 FENCE, bit 1 QUIET. -/
  flags : BitVec 8
  tag : BitVec 16
  polder : BitVec 12
  /-- DW0 [47:44], reserved. -/
  rsv : BitVec 4
  length : BitVec 16
  paddr : Word
  p2 : Word
  p3 : Word
  p4 : Word
  p5 : Word
  p6 : Word
  p7 : Word
  deriving DecidableEq, Repr

/-- A sluice packet as it arrives, but for its TYPE, which is the row's (R388). -/
structure Frame where
  ver : BitVec 4
  rsv0 : BitVec 4
  first : Bool
  last : Bool
  ackreq : Bool
  notify : Bool
  relax : Bool
  cswap : Bool
  rsv1 : BitVec 10
  deid : BitVec 16
  seid : BitVec 16
  dqpn : BitVec 20
  rsv2 : BitVec 12
  psn : BitVec 24
  rsv3 : BitVec 8
  /-- REMX and ATMX. -/
  rkey : BitVec 32
  len : BitVec 32
  raddr : Word
  opnd1 : Word
  opnd2 : Word
  /-- IMMX. -/
  imm : BitVec 32
  /-- ACKX. -/
  code : BitVec 8
  msn : BitVec 24
  backoff : BitVec 16
  cecnt : BitVec 16
  /-- SELX. -/
  selx : BitVec 256
  payload : List Byte
  icrc : BitVec 32
  /-- The ECN field of the IP header holds CE (R400). -/
  ce : Bool
  /-- The UDP destination port. -/
  dport : BitVec 16
  /-- A reserved TYPE that the packet carries in place of the row's (R389). -/
  rtype : Option (BitVec 8)
  deriving DecidableEq, Repr

/-- A Threshold message but for its class and opcode, which are the row's (R540, R541). -/
structure ThMsg where
  tag : BitVec 12
  src : BitVec 3
  dst : BitVec 3
  polder : BitVec 12
  port : BitVec 8
  inc : BitVec 8
  size : BitVec 3
  tr : Bool
  addr : BitVec 52
  subop : BitVec 4
  /-- Units 4 to 7 of a request (operands of Atomic, DevWr data), and units 2 to 3 of DevData and AtmData. -/
  op0 : Word
  op1 : Word
  status : BitVec 4
  state : BitVec 3
  /-- The byte mask of DataPart. -/
  mask : BitVec 64
  /-- The 64 bytes of the line of a DAT message, byte 0 least significant. -/
  line : BitVec 512
  deriving DecidableEq, Repr

/-- One telemetry sample's measured values (R500): rails in mV and mW, die power in mW, engine busy cycles. -/
structure TelemSample where
  railMv : List (BitVec 16)
  railMw : List (BitVec 32)
  power : BitVec 32
  matrixBusy : Word
  vectorBusy : Word
  deriving DecidableEq, Repr

/-- How a doorway trains at start-up step 7 (R528): whether it does, its rate code, at x32, with lanes repaired. -/
structure DoorTrain where
  ok : Bool
  rate : BitVec 2
  x32 : Bool
  repaired : Bool
  deriving DecidableEq, Repr

/-- The INIT of a peer (R534, R535). -/
structure PeerInit where
  version : BitVec 8
  node : BitVec 8
  assign : BitVec 8
  cap : BitVec 8
  /-- REQ, RSP, SNP and DAT credits. -/
  credits : BitVec 64
  deriving DecidableEq, Repr

/-- What start-up finds (R525): the results of its own tests and of the outside world. -/
structure StartUp where
  /-- Step 3: the root PLL locks. -/
  pllOk : Bool
  /-- Step 4: the fuses are read. -/
  fusesOk : Bool
  /-- Step 5: the physical cores whose self-test fails beyond repair, and whether a home agent or pumphouse array fails. -/
  badCores : List Nat
  badHome : Bool
  /-- Step 5: failed lanes of each physical core's engine, as (physical core, lane). -/
  badLanes : List (Nat × Nat)
  /-- Step 6: the stacks that train. -/
  stacksOk : BitVec 4
  /-- Step 7: how each doorway trains, and the INIT that comes on it, if one does. -/
  doors : List DoorTrain
  peers : List (Option PeerInit)
  /-- Step 5: failing ways of the wing caches, as (wing, way), and whether the sluice and the levee are still at fault. -/
  badWays : List (Nat × Nat)
  badSluice : Bool
  badLevee : Bool
  /-- Step 8: the bytes that the IO die serves from 0x1_0000_0000_0000 on, if it serves an image (R478). -/
  image : Option (List (BitVec 8))
  /-- Step 11: the logical cores whose long-vector unit fails its self-test. -/
  badLvu : List Nat
  deriving DecidableEq, Repr

/-- The commands: one per row of the table. -/
inductive Instr where
  -- Scalar integer (ch02 R47 to R49)
  | add (c : CoreId) (d a b : Reg)
  | sub (c : CoreId) (d a b : Reg)
  | and (c : CoreId) (d a b : Reg)
  | or (c : CoreId) (d a b : Reg)
  | xor (c : CoreId) (d a b : Reg)
  | sll (c : CoreId) (d a b : Reg)
  | srl (c : CoreId) (d a b : Reg)
  | sra (c : CoreId) (d a b : Reg)
  | slt (c : CoreId) (d a b : Reg)
  | sltu (c : CoreId) (d a b : Reg)
  | min (c : CoreId) (d a b : Reg)
  | max (c : CoreId) (d a b : Reg)
  | minu (c : CoreId) (d a b : Reg)
  | maxu (c : CoreId) (d a b : Reg)
  | andn (c : CoreId) (d a b : Reg)
  | clz (c : CoreId) (d a : Reg)
  | ctz (c : CoreId) (d a : Reg)
  | popc (c : CoreId) (d a : Reg)
  | rev8 (c : CoreId) (d a : Reg)
  | addW (c : CoreId) (d a b : Reg)
  | subW (c : CoreId) (d a b : Reg)
  | sllW (c : CoreId) (d a b : Reg)
  | srlW (c : CoreId) (d a b : Reg)
  | sraW (c : CoreId) (d a b : Reg)
  | addi (c : CoreId) (d a : Reg) (imm : BitVec 12)
  | andi (c : CoreId) (d a : Reg) (imm : BitVec 12)
  | ori (c : CoreId) (d a : Reg) (imm : BitVec 12)
  | xori (c : CoreId) (d a : Reg) (imm : BitVec 12)
  | slti (c : CoreId) (d a : Reg) (imm : BitVec 12)
  | sltiu (c : CoreId) (d a : Reg) (imm : BitVec 12)
  | slli (c : CoreId) (d a : Reg) (sh : BitVec 6)
  | srli (c : CoreId) (d a : Reg) (sh : BitVec 6)
  | srai (c : CoreId) (d a : Reg) (sh : BitVec 6)
  | addiW (c : CoreId) (d a : Reg) (imm : BitVec 12)
  | lui (c : CoreId) (d : Reg) (imm : BitVec 22)
  | mul (c : CoreId) (d a b : Reg)
  | mulh (c : CoreId) (d a b : Reg)
  | mulhu (c : CoreId) (d a b : Reg)
  | mulhsu (c : CoreId) (d a b : Reg)
  | div (c : CoreId) (d a b : Reg)
  | divu (c : CoreId) (d a b : Reg)
  | rem (c : CoreId) (d a b : Reg)
  | remu (c : CoreId) (d a b : Reg)
  -- Loads and stores (R58, R59)
  | lb (c : CoreId) (d a : Reg) (off : BitVec 12)
  | lbu (c : CoreId) (d a : Reg) (off : BitVec 12)
  | lh (c : CoreId) (d a : Reg) (off : BitVec 12)
  | lhu (c : CoreId) (d a : Reg) (off : BitVec 12)
  | lw (c : CoreId) (d a : Reg) (off : BitVec 12)
  | lwu (c : CoreId) (d a : Reg) (off : BitVec 12)
  | ld (c : CoreId) (d a : Reg) (off : BitVec 12)
  | fldS (c : CoreId) (d a : Reg) (off : BitVec 12)
  | fldD (c : CoreId) (d a : Reg) (off : BitVec 12)
  | sb (c : CoreId) (s a : Reg) (off : BitVec 12)
  | sh (c : CoreId) (s a : Reg) (off : BitVec 12)
  | sw (c : CoreId) (s a : Reg) (off : BitVec 12)
  | sd (c : CoreId) (s a : Reg) (off : BitVec 12)
  | fsdS (c : CoreId) (s a : Reg) (off : BitVec 12)
  | fsdD (c : CoreId) (s a : Reg) (off : BitVec 12)
  -- Atomics (R60): `dbl` is bit [9], `aq` and `rl` are bits [11] and [10]
  | amoswap (c : CoreId) (d a b : Reg) (dbl aq rl : Bool)
  | amoadd (c : CoreId) (d a b : Reg) (dbl aq rl : Bool)
  | amoand (c : CoreId) (d a b : Reg) (dbl aq rl : Bool)
  | amoor (c : CoreId) (d a b : Reg) (dbl aq rl : Bool)
  | amoxor (c : CoreId) (d a b : Reg) (dbl aq rl : Bool)
  | amomin (c : CoreId) (d a b : Reg) (dbl aq rl : Bool)
  | amomax (c : CoreId) (d a b : Reg) (dbl aq rl : Bool)
  | amominu (c : CoreId) (d a b : Reg) (dbl aq rl : Bool)
  | amomaxu (c : CoreId) (d a b : Reg) (dbl aq rl : Bool)
  | cas (c : CoreId) (d a b : Reg) (dbl aq rl : Bool)
  -- Branches and hardware loops (R64 to R69)
  | beq (c : CoreId) (a b : Reg) (off : BitVec 12)
  | bne (c : CoreId) (a b : Reg) (off : BitVec 12)
  | blt (c : CoreId) (a b : Reg) (off : BitVec 12)
  | bge (c : CoreId) (a b : Reg) (off : BitVec 12)
  | bltu (c : CoreId) (a b : Reg) (off : BitVec 12)
  | bgeu (c : CoreId) (a b : Reg) (off : BitVec 12)
  | beqz (c : CoreId) (a : Reg) (off : BitVec 17)
  | bnez (c : CoreId) (a : Reg) (off : BitVec 17)
  | bltz (c : CoreId) (a : Reg) (off : BitVec 17)
  | bgez (c : CoreId) (a : Reg) (off : BitVec 17)
  | blez (c : CoreId) (a : Reg) (off : BitVec 17)
  | bgtz (c : CoreId) (a : Reg) (off : BitVec 17)
  | jal (c : CoreId) (d : Reg) (off : BitVec 22)
  | jalr (c : CoreId) (d a : Reg) (imm : BitVec 12)
  | loop (c : CoreId) (a : Reg) (n : BitVec 12)
  -- System (R38 to R45, R69 to R76)
  | sysrd (c : CoreId) (d : Reg) (n : BitVec 12)
  | syswr (c : CoreId) (n : BitVec 12) (a : Reg)
  | syswrStatus (c : CoreId) (a : Reg)
  | syswrFctl (c : CoreId) (a : Reg)
  | syswrTcfg (c : CoreId) (a : Reg)
  | syswrOcfg (c : CoreId) (a : Reg)
  | syswrTstat (c : CoreId) (n : Fin 8) (a : Reg)
  | syswrVcount (c : CoreId) (a : Reg)
  | syswrVshape (c : CoreId) (a : Reg)
  | syswrLcount (c : CoreId) (a : Reg)
  | dseNext (c : CoreId) (a : Reg)
  | dseOvfClear (c : CoreId) (a : Reg)
  | strongroomEntry (c : CoreId) (a : Reg)
  | strongroomExit (c : CoreId) (a : Reg)
  | fenceR (c : CoreId)
  | fenceW (c : CoreId)
  | fenceRw (c : CoreId)
  | isync (c : CoreId)
  | ecall (c : CoreId)
  | ebreak (c : CoreId)
  | eret (c : CoreId)
  | sleep (c : CoreId)
  | coreWake (c : CoreId)
  -- Scalar floating point (R50 to R57, R97 to R112)
  | fadd (c : CoreId) (fmt rm : BitVec 3) (d a b : Reg)
  | fsub (c : CoreId) (fmt rm : BitVec 3) (d a b : Reg)
  | fmul (c : CoreId) (fmt rm : BitVec 3) (d a b : Reg)
  | fdiv (c : CoreId) (fmt rm : BitVec 3) (d a b : Reg)
  | fsqrt (c : CoreId) (fmt rm : BitVec 3) (d a : Reg)
  | fmin (c : CoreId) (fmt rm : BitVec 3) (d a b : Reg)
  | fmax (c : CoreId) (fmt rm : BitVec 3) (d a b : Reg)
  | fsgnj (c : CoreId) (fmt rm : BitVec 3) (d a b : Reg)
  | fsgnjn (c : CoreId) (fmt rm : BitVec 3) (d a b : Reg)
  | fsgnjx (c : CoreId) (fmt rm : BitVec 3) (d a b : Reg)
  | feq (c : CoreId) (fmt rm : BitVec 3) (d a b : Reg)
  | flt (c : CoreId) (fmt rm : BitVec 3) (d a b : Reg)
  | fle (c : CoreId) (fmt rm : BitVec 3) (d a b : Reg)
  | fclass (c : CoreId) (fmt rm : BitVec 3) (d a : Reg)
  | frem (c : CoreId) (fmt rm : BitVec 3) (d a b : Reg)
  | fmini (c : CoreId) (fmt rm : BitVec 3) (d a b : Reg)
  | fmaxi (c : CoreId) (fmt rm : BitVec 3) (d a b : Reg)
  | frint (c : CoreId) (fmt rm : BitVec 3) (d a : Reg)
  | fmadd (c : CoreId) (fmt : BitVec 2) (rm : BitVec 3) (d a b e : Reg)
  | fmsub (c : CoreId) (fmt : BitVec 2) (rm : BitVec 3) (d a b e : Reg)
  | fnmadd (c : CoreId) (fmt : BitVec 2) (rm : BitVec 3) (d a b e : Reg)
  | fnmsub (c : CoreId) (fmt : BitVec 2) (rm : BitVec 3) (d a b e : Reg)
  | fcvtDS (c : CoreId) (rm : BitVec 3) (d a : Reg)
  | fcvtSD (c : CoreId) (rm : BitVec 3) (d a : Reg)
  | fcvtGF (c : CoreId) (fmt rm : BitVec 3) (d a : Reg)
  | fcvtGuF (c : CoreId) (fmt rm : BitVec 3) (d a : Reg)
  | fcvtFG (c : CoreId) (fmt rm : BitVec 3) (d a : Reg)
  | fcvtFGu (c : CoreId) (fmt rm : BitVec 3) (d a : Reg)
  | fmvGF (c : CoreId) (fmt rm : BitVec 3) (d a : Reg)
  | fmvFG (c : CoreId) (fmt rm : BitVec 3) (d a : Reg)
  | fcvtXF (c : CoreId) (code : BitVec 4) (fmt rm : BitVec 3) (d a : Reg)
  | fcvtXnF (c : CoreId) (code : BitVec 4) (fmt rm : BitVec 3) (d a : Reg)
  | fcvtFX (c : CoreId) (code : BitVec 4) (fmt rm : BitVec 3) (d a : Reg)
  | fcvtFE8 (c : CoreId) (fmt rm : BitVec 3) (d a : Reg)
  | fcvtE8F (c : CoreId) (fmt rm : BitVec 3) (d a : Reg)
  -- Tiles and the matrix engine (ch04 to ch07): `t`, `d`, `a`, `b` of 5 bits are tile codes (R128)
  | tld (c : CoreId) (t : BitVec 5) (a b : Reg) (z : Bool) (nr : BitVec 5)
  | tst (c : CoreId) (t : BitVec 5) (a b : Reg) (z : Bool) (nr : BitVec 5)
  | tzero (c : CoreId) (t : BitVec 5)
  | tcfg (c : CoreId) (a : Reg)
  | tsave (c : CoreId) (a : Reg)
  | trest (c : CoreId) (a : Reg)
  | tsync (c : CoreId)
  | tmac (c : CoreId) (d a b : BitVec 5) (seg : BitVec 4) (neg z : Bool)
  | tmacCommit (c : CoreId) (tries : List (List LaneDev))
  | laneTest (c : CoreId) (failed : BitVec 34)
  | tfold (c : CoreId) (d a b : BitVec 5) (opt : BitVec 6)
  | tfoldCommit (c : CoreId) (tries : List (List LaneDev))
  | tout (c : CoreId) (d a b : BitVec 5) (m clr bit3 : Bool) (col : BitVec 3)
  -- Vectors (ch08): `mk` is the mask field, `kind` the kind of B
  | vadd (c : CoreId) (kind : BitVec 2) (d a b : Reg) (mk : Fin 16)
  | vsub (c : CoreId) (kind : BitVec 2) (d a b : Reg) (mk : Fin 16)
  | vand (c : CoreId) (kind : BitVec 2) (d a b : Reg) (mk : Fin 16)
  | vor (c : CoreId) (kind : BitVec 2) (d a b : Reg) (mk : Fin 16)
  | vxor (c : CoreId) (kind : BitVec 2) (d a b : Reg) (mk : Fin 16)
  | vsll (c : CoreId) (kind : BitVec 2) (d a b : Reg) (mk : Fin 16)
  | vsrl (c : CoreId) (kind : BitVec 2) (d a b : Reg) (mk : Fin 16)
  | vsra (c : CoreId) (kind : BitVec 2) (d a b : Reg) (mk : Fin 16)
  | vmin (c : CoreId) (kind : BitVec 2) (d a b : Reg) (mk : Fin 16)
  | vmax (c : CoreId) (kind : BitVec 2) (d a b : Reg) (mk : Fin 16)
  | vminu (c : CoreId) (kind : BitVec 2) (d a b : Reg) (mk : Fin 16)
  | vmaxu (c : CoreId) (kind : BitVec 2) (d a b : Reg) (mk : Fin 16)
  | vmul (c : CoreId) (kind : BitVec 2) (d a b : Reg) (mk : Fin 16)
  | vmulh (c : CoreId) (kind : BitVec 2) (d a b : Reg) (mk : Fin 16)
  | vmulhu (c : CoreId) (kind : BitVec 2) (d a b : Reg) (mk : Fin 16)
  | vcmpeq (c : CoreId) (kind : BitVec 2) (d a b : Reg) (mk : Fin 16)
  | vcmpne (c : CoreId) (kind : BitVec 2) (d a b : Reg) (mk : Fin 16)
  | vcmplt (c : CoreId) (kind : BitVec 2) (d a b : Reg) (mk : Fin 16)
  | vcmple (c : CoreId) (kind : BitVec 2) (d a b : Reg) (mk : Fin 16)
  | vcmpltu (c : CoreId) (kind : BitVec 2) (d a b : Reg) (mk : Fin 16)
  | vcmpleu (c : CoreId) (kind : BitVec 2) (d a b : Reg) (mk : Fin 16)
  | vfadd (c : CoreId) (kind : BitVec 2) (d a b : Reg) (mk : Fin 16)
  | vfsub (c : CoreId) (kind : BitVec 2) (d a b : Reg) (mk : Fin 16)
  | vfmul (c : CoreId) (kind : BitVec 2) (d a b : Reg) (mk : Fin 16)
  | vfdiv (c : CoreId) (kind : BitVec 2) (d a b : Reg) (mk : Fin 16)
  | vfsqrt (c : CoreId) (kind : BitVec 2) (d a b : Reg) (mk : Fin 16)
  | vfmin (c : CoreId) (kind : BitVec 2) (d a b : Reg) (mk : Fin 16)
  | vfmax (c : CoreId) (kind : BitVec 2) (d a b : Reg) (mk : Fin 16)
  | vfmadd (c : CoreId) (kind : BitVec 2) (d a b : Reg) (mk : Fin 16)
  | vfnmsub (c : CoreId) (kind : BitVec 2) (d a b : Reg) (mk : Fin 16)
  | vfsgnj (c : CoreId) (kind : BitVec 2) (d a b : Reg) (mk : Fin 16)
  | vfeq (c : CoreId) (kind : BitVec 2) (d a b : Reg) (mk : Fin 16)
  | vflt (c : CoreId) (kind : BitVec 2) (d a b : Reg) (mk : Fin 16)
  | vfle (c : CoreId) (kind : BitVec 2) (d a b : Reg) (mk : Fin 16)
  | vsetl (c : CoreId) (d a : Reg) (shape : BitVec 4)
  | vcvtN (c : CoreId) (d a : Reg) (ovsat : Bool) (code : BitVec 4) (rm : BitVec 3) (mk : Fin 16)
  | vcvtW (c : CoreId) (d a : Reg) (code : BitVec 4) (rm : BitVec 3) (mk : Fin 16)
  | vcvtIF (c : CoreId) (d a : Reg) (rm : BitVec 3) (mk : Fin 16)
  | vcvtFI (c : CoreId) (d a : Reg) (rm : BitVec 3) (mk : Fin 16)
  | vredsum (c : CoreId) (d a b : Reg) (mk : Fin 16)
  | vfredsum (c : CoreId) (d a b : Reg) (rm : BitVec 3) (mk : Fin 16)
  | vredmin (c : CoreId) (d a b : Reg) (mk : Fin 16)
  | vredmax (c : CoreId) (d a b : Reg) (mk : Fin 16)
  | vfredmin (c : CoreId) (d a b : Reg) (mk : Fin 16)
  | vfredmax (c : CoreId) (d a b : Reg) (mk : Fin 16)
  | vmvVG (c : CoreId) (d a : Reg) (mk : Fin 16)
  | vmvGV (c : CoreId) (d a b : Reg)
  | vmvVF (c : CoreId) (d a : Reg) (mk : Fin 16)
  | vmvFV (c : CoreId) (d a b : Reg)
  | vslidedn (c : CoreId) (d a b : Reg) (mk : Fin 16)
  | vslideup (c : CoreId) (d a b : Reg) (mk : Fin 16)
  | vperm (c : CoreId) (d a b : Reg) (mk : Fin 16)
  | vcompress (c : CoreId) (d a : Reg) (mb : Fin 16)
  | vmand (c : CoreId) (d a b : Reg)
  | vmor (c : CoreId) (d a b : Reg)
  | vmxor (c : CoreId) (d a b : Reg)
  | vmandn (c : CoreId) (d a b : Reg)
  | vmpopc (c : CoreId) (d a : Reg)
  | vmfirst (c : CoreId) (d a : Reg)
  | vid (c : CoreId) (d : Reg) (mk : Fin 16)
  | vld (c : CoreId) (d a : Reg) (mk : Fin 16)
  | vst (c : CoreId) (d a : Reg) (mk : Fin 16)
  | vlds (c : CoreId) (d a b : Reg) (mk : Fin 16)
  | vsts (c : CoreId) (d a b : Reg) (mk : Fin 16)
  | vldx (c : CoreId) (d a b : Reg) (iw : BitVec 2) (mk : Fin 16)
  | vstx (c : CoreId) (d a b : Reg) (iw : BitVec 2) (mk : Fin 16)
  | vldff (c : CoreId) (d a : Reg) (mk : Fin 16)
  | vldxff (c : CoreId) (d a b : Reg) (iw : BitVec 2) (mk : Fin 16)
  | vld2 (c : CoreId) (d a : Reg) (mk : Fin 16)
  | vld3 (c : CoreId) (d a : Reg) (mk : Fin 16)
  | vld4 (c : CoreId) (d a : Reg) (mk : Fin 16)
  | vst2 (c : CoreId) (d a : Reg) (mk : Fin 16)
  | vst3 (c : CoreId) (d a : Reg) (mk : Fin 16)
  | vst4 (c : CoreId) (d a : Reg) (mk : Fin 16)
  | vlm (c : CoreId) (d a : Reg)
  | vsm (c : CoreId) (d a : Reg)
  -- Events of a core and of the interrupt router (ch10)
  | exceptionEntry (c : CoreId) (word : BitVec 32)
  | deferredStoreError (c : CoreId) (addr : Word) (size : BitVec 4) (kind : BitVec 4) (pl : BitVec 2) (polder : BitVec 12) (src : BitVec 2)
  | interruptMessage (n : Fin 1024)
  | irteWrite (w : Writer) (n : Fin 1024) (v : Word)
  | iswi (w : Writer) (c : CoreId) (v : Word)
  | coreTimer (c : CoreId)
  -- Scullery and memory controllers (ch11): wing `w`, slot `n`, the writer and the value of RANGE_OP
  | clean (by_ : Writer) (w n : Fin 4) (v : Word)
  | invalidate (by_ : Writer) (w n : Fin 4) (v : Word)
  | cleanAndInvalidate (by_ : Writer) (w n : Fin 4) (v : Word)
  | zeroFill (by_ : Writer) (w n : Fin 4) (v : Word)
  | demote (by_ : Writer) (w n : Fin 4) (v : Word)
  | prefetch (by_ : Writer) (w n : Fin 4) (v : Word)
  | rangeComplete (w : Fin 4)
  | scrub (m : Fin 4) (line : BitVec 30)
  | ieccPoll (m : Fin 4) (count : BitVec 32)
  | postPackageRepair (m : Fin 4) (req : Word) (lines : List (BitVec 30))
  -- Sluice doorbells and work requests (ch13)
  | sqPi (q : BitVec 20) (st : DevStore)
  | rqPi (q : BitVec 20) (st : DevStore)
  | cqArm (q : BitVec 20) (st : DevStore)
  | nop (q : BitVec 20)
  | write (q : BitVec 20)
  | read (q : BitVec 20)
  | send (q : BitVec 20)
  | atomicFadd (q : BitVec 20)
  | atomicCswap (q : BitVec 20)
  | flush (q : BitVec 20)
  | wait (q : BitVec 20)
  | waitSatisfied (q : BitVec 20)
  -- Sluice packets and timers (ch14)
  | packetTransmit (q : BitVec 20)
  | writePacket (f : Frame)
  | sendPacket (f : Frame)
  | readReq (f : Frame)
  | readResp (f : Frame)
  | atomicReq (f : Frame)
  | atomicResp (f : Frame)
  | flushReq (f : Frame)
  | flushResp (f : Frame)
  | ack (f : Frame)
  | nak (f : Frame)
  | echo (f : Frame)
  | ackTimer (q : BitVec 20)
  | echoTimer (q : BitVec 20)
  | retransmitTimeout (q : BitVec 20)
  | rnrBackoff (q : BitVec 20)
  | rateWindow (q : BitVec 20)
  | rateIdleReset (q : BitVec 20)
  | contextFetchDone (q : BitVec 20) (ok : Bool)
  | revokeCut (idx : BitVec 18)
  -- Levee (ch15)
  | step (sh : Fin 16) (by_ : Writer) (st : DevStore)
  | leveeTmrWrite (by_ : Writer) (sh : Fin 16) (v : Word)
  | leveeTimer (sh : Fin 16)
  | armPoint (sh : Fin 16)
  | armResume (sh : Fin 16)
  | granuleCopy (sh : Fin 16)
  | commitRecord (sh : Fin 16)
  | restoreCopy (sh : Fin 16)
  -- Containment (ch16)
  | pauseWatchdog (c : CoreId)
  | fabricWatchdog (port : BitVec 8)
  | fabricReplayExhausted (port : BitVec 8)
  | lateSpeaker (port : BitVec 8) (requests : BitVec 32)
  | spareRoomMove (c : CoreId)
  | wayDisable (w : Fin 4) (way : Fin 16)
  | rowRepair (m : Fin 4) (req : Word) (lines : List (BitVec 30))
  | unitFence (levee : Bool)
  -- Pumphouse sequencer (ch17)
  | aluAddT (m : PhMove)
  | aluAdcT (m : PhMove)
  | aluSubT (m : PhMove)
  | aluSbcT (m : PhMove)
  | aluAndT (m : PhMove)
  | aluOrT (m : PhMove)
  | aluXorT (m : PhMove)
  | aluCmpT (m : PhMove)
  | aluShlT (m : PhMove)
  | aluShrT (m : PhMove)
  | aluSarT (m : PhMove)
  | aluMovT (m : PhMove)
  | ptrAddT (n : Fin 8) (m : PhMove)
  | lsuLdpT (m : PhMove)
  | lsuStpT (m : PhMove)
  | lsuLdaT (m : PhMove)
  | lsuStaT (m : PhMove)
  | stkPushT (m : PhMove)
  /-- A word that reads stk.pop on bus 0 (`second = false`) or bus 1, with that bus's destination and the other bus's move. -/
  | stkPop (second : Bool) (dst : BitVec 8) (rest : BitVec 16)
  | brJmpT (m : PhMove)
  | brZT (m : PhMove)
  | brNzT (m : PhMove)
  | brCT (m : PhMove)
  | brNcT (m : PhMove)
  | brNT (m : PhMove)
  | brLtT (m : PhMove)
  | brGeT (m : PhMove)
  | brCallT (m : PhMove)
  | brRetT (m : PhMove)
  | evtWaitT (m : PhMove)
  | evtWaitResume
  | evtClrT (m : PhMove)
  | tmrT (m : PhMove)
  | timerExpiry
  | hbT (m : PhMove)
  | moverGo (v : Word)
  | moverDone
  | phMboxWrite (by_ : Writer) (v : Word)
  -- Porch (ch18)
  | poRplciWrite (by_ : Writer) (v : Word)
  | identify (p : Packet)
  | setLatency (p : Packet)
  | setQuiet (p : Packet)
  | setPowerCap (p : Packet)
  | powerStatus (p : Packet)
  | corePause (p : Packet)
  | coreResume (p : Packet)
  | coreReset (p : Packet)
  | coreStatus (p : Packet)
  | keyLoad (p : Packet)
  | keyErase (p : Packet)
  | slConfig (p : Packet)
  | regionRegister (p : Packet)
  | regionRevoke (p : Packet)
  | qpCreate (p : Packet)
  | qpModify (p : Packet)
  | qpDestroy (p : Packet)
  | qpQuery (p : Packet)
  | anteQuota (p : Packet)
  | shardDefine (p : Packet)
  | shardDisable (p : Packet)
  | leveeCheckpoint (p : Packet)
  | leveeRestore (p : Packet)
  | leveeAbort (p : Packet)
  | rasStatus (p : Packet)
  | rasCounts (p : Packet)
  | lptRelease (p : Packet)
  | coreFence (p : Packet)
  | fwInfo (p : Packet)
  | fwSvnRaise (p : Packet)
  | fwSvnRaiseDone
  | fwReload (p : Packet) (su : StartUp)
  | telemConfig (p : Packet)
  | thermLimits (p : Packet)
  | thermStatus (p : Packet)
  | shutdown (p : Packet)
  | dieReset (p : Packet) (su : StartUp)
  | telemetrySample (t : TelemSample)
  -- Power, temperature, pins, resets (ch19, ch21)
  | powerSample (avg10us avg1ms : BitVec 32)
  | thermalSample (temps : List (BitVec 16))
  | criticalTimeout
  | thermAlertN (active : Bool)
  | stormMaskEnd (pin : Fin 3)
  | thermAlertStuck
  | wakeN (active : Bool)
  | wakeStuck
  | rstN
  | coldReset (powerOn : Bool) (su : StartUp)
  | fwFetchTimeout
  | pwWrst (by_ : Writer) (v : Word) (su : StartUp)
  | refclkLoss
  | rootPllUnlock
  | stackPllUnlock (m : Fin 4)
  | railOutOfRange (rail : Fin 4)
  | powerRemoval
  | unitPowerGate (c : CoreId) (vector : Bool)
  | dieQuietEntry
  | dieQuietExit
  -- Doorways (ch20)
  | training (n : Fin 8) (ok : Bool) (rate : BitVec 2) (x32 repaired : Bool)
  | laneFault (n : Fin 8) (repairable : Bool) (ok : Bool) (rate : BitVec 2) (x32 : Bool)
  | retrain (by_ : Writer) (n : Fin 8) (v : Word) (ok : Bool) (rate : BitVec 2) (x32 repaired : Bool)
  | doorwayDisable (by_ : Writer) (n : Fin 8) (v : Word)
  | l1Entry (n : Fin 8)
  | flit (n : Fin 8) (bits : BitVec 2048)
  | flitKeepalive (n : Fin 8)
  | init (n : Fin 8) (version node assign cap : BitVec 8) (credits : Word)
  | initResend (n : Fin 8)
  | quiesce (n : Fin 8)
  | stop (n : Fin 8)
  | doorwayLost (n : Fin 8)
  -- Threshold messages received on doorway `n`
  | rdshared (n : Fin 8) (m : ThMsg)
  | rdown (n : Fin 8) (m : ThMsg)
  | upgrade (n : Fin 8) (m : ThMsg)
  | rdcur (n : Fin 8) (m : ThMsg)
  | wrline (n : Fin 8) (m : ThMsg)
  | wrpart (n : Fin 8) (m : ThMsg)
  | evict (n : Fin 8) (m : ThMsg)
  | wbline (n : Fin 8) (m : ThMsg)
  | thAtomic (n : Fin 8) (m : ThMsg)
  | thFlush (n : Fin 8) (m : ThMsg)
  | devrd (n : Fin 8) (m : ThMsg)
  | devwr (n : Fin 8) (m : ThMsg)
  | int (n : Fin 8) (m : ThMsg)
  | incupd (n : Fin 8) (m : ThMsg)
  | cmp (n : Fin 8) (m : ThMsg)
  | gntm (n : Fin 8) (m : ThMsg)
  | devdata (n : Fin 8) (m : ThMsg)
  | atmdata (n : Fin 8) (m : ThMsg)
  | snpack (n : Fin 8) (m : ThMsg)
  | snpinv (n : Fin 8) (m : ThMsg)
  | snpshr (n : Fin 8) (m : ThMsg)
  | snpdown (n : Fin 8) (m : ThMsg)
  | snpcur (n : Fin 8) (m : ThMsg)
  | datas (n : Fin 8) (m : ThMsg)
  | datae (n : Fin 8) (m : ThMsg)
  | datam (n : Fin 8) (m : ThMsg)
  | datacur (n : Fin 8) (m : ThMsg)
  | datawr (n : Fin 8) (m : ThMsg)
  | datapart (n : Fin 8) (m : ThMsg)
  | datawb (n : Fin 8) (m : ThMsg)
  | datasnpi (n : Fin 8) (m : ThMsg)
  | datasnpo (n : Fin 8) (m : ThMsg)
  | datasnpkeep (n : Fin 8) (m : ThMsg)
  -- Test access (ch21) and plain registers (ch22)
  | idcode
  | bypass
  | samplePreload
  | extest (outputs : BitVec 2)
  | lvuSelfTest (c : CoreId) (passed : Bool)
  | registerWrite (by_ : Writer) (off : BitVec 24) (size : Nat) (v : Word)
  | move (w : BitVec 32)
  deriving DecidableEq, Repr

end Sys2Proof
end

