-- ==== Sys2Proof/Decode.lean ====
section
/-! DEFINITION. Commands from words. No row of the table gives bits, so the table's words spell none; the 32-bit words of a core's own
instructions spell that core's commands by class and function (R47, R71, R128 and the encoding tables of ch02, ch03, ch04, ch05, ch07
and ch08). -/

namespace Sys2Proof

open Machine (fld bit)

/-- No row has an encoding in spec/opcode_table.json, so no word spells a command by the table's bits. What a core's instruction words spell
by the spec's own encodings is `coreCommand`. -/
def decodeTableWord (_nbits _w : Nat) : Option Instr := none

namespace CoreWord

/-! ## Fields (R47) -/

def cls (w : BitVec 32) : Nat := (fld w 27 5).toNat
def d (w : BitVec 32) : Reg := (fld w 22 5).toFin
def a (w : BitVec 32) : Reg := (fld w 17 5).toFin
def b (w : BitVec 32) : Reg := (fld w 12 5).toFin
def fn (w : BitVec 32) : BitVec 12 := fld w 0 12

/-- A command, where a condition on the unused fields holds. -/
def given (p : Bool) (i : Instr) : Option Instr := if p then some i else none

/-! ## Scalar classes (ch02) -/

/-- ALU-R. -/
def aluR (c : CoreId) (w : BitVec 32) : Option Instr :=
  let d := d w
  let a := a w
  let b := b w
  match (fn w).toNat with
  | 0x000 => some (.add c d a b)
  | 0x001 => some (.sub c d a b)
  | 0x002 => some (.and c d a b)
  | 0x003 => some (.or c d a b)
  | 0x004 => some (.xor c d a b)
  | 0x005 => some (.sll c d a b)
  | 0x006 => some (.srl c d a b)
  | 0x007 => some (.sra c d a b)
  | 0x008 => some (.slt c d a b)
  | 0x009 => some (.sltu c d a b)
  | 0x00A => some (.min c d a b)
  | 0x00B => some (.max c d a b)
  | 0x00C => some (.minu c d a b)
  | 0x00D => some (.maxu c d a b)
  | 0x00E => some (.andn c d a b)
  | 0x010 => given (b = 0) (.clz c d a)
  | 0x011 => given (b = 0) (.ctz c d a)
  | 0x012 => given (b = 0) (.popc c d a)
  | 0x013 => given (b = 0) (.rev8 c d a)
  | 0x020 => some (.addW c d a b)
  | 0x021 => some (.subW c d a b)
  | 0x025 => some (.sllW c d a b)
  | 0x026 => some (.srlW c d a b)
  | 0x027 => some (.sraW c d a b)
  | _ => none

/-- ALU-I: the operation stands in B; a shift amount has 6 bits. -/
def aluI (c : CoreId) (w : BitVec 32) : Option Instr :=
  let d := d w
  let a := a w
  let imm := fn w
  let short : Bool := imm.ult 64
  match (b w).val with
  | 0x00 => some (.addi c d a imm)
  | 0x01 => some (.andi c d a imm)
  | 0x02 => some (.ori c d a imm)
  | 0x03 => some (.xori c d a imm)
  | 0x04 => some (.slti c d a imm)
  | 0x05 => some (.sltiu c d a imm)
  | 0x06 => given short (.slli c d a (imm.setWidth 6))
  | 0x07 => given short (.srli c d a (imm.setWidth 6))
  | 0x08 => given short (.srai c d a (imm.setWidth 6))
  | 0x09 => some (.addiW c d a imm)
  | _ => none

/-- MULDIV. -/
def mulDiv (c : CoreId) (w : BitVec 32) : Option Instr :=
  let d := d w
  let a := a w
  let b := b w
  match (fn w).toNat with
  | 0x000 => some (.mul c d a b)
  | 0x001 => some (.mulh c d a b)
  | 0x002 => some (.mulhu c d a b)
  | 0x003 => some (.mulhsu c d a b)
  | 0x008 => some (.div c d a b)
  | 0x009 => some (.divu c d a b)
  | 0x00A => some (.rem c d a b)
  | 0x00B => some (.remu c d a b)
  | _ => none

/-- LOAD: size and kind stand in B. -/
def load (c : CoreId) (w : BitVec 32) : Option Instr :=
  let d := d w
  let a := a w
  let off := fn w
  match (b w).val with
  | 0x00 => some (.lb c d a off)
  | 0x02 => some (.lbu c d a off)
  | 0x04 => some (.lh c d a off)
  | 0x06 => some (.lhu c d a off)
  | 0x08 => some (.lw c d a off)
  | 0x0A => some (.lwu c d a off)
  | 0x0C => some (.ld c d a off)
  | 0x18 => some (.fldS c d a off)
  | 0x1C => some (.fldD c d a off)
  | _ => none

/-- STORE. -/
def store (c : CoreId) (w : BitVec 32) : Option Instr :=
  let r := d w
  let a := a w
  let off := fn w
  match (b w).val with
  | 0x00 => some (.sb c r a off)
  | 0x04 => some (.sh c r a off)
  | 0x08 => some (.sw c r a off)
  | 0x0C => some (.sd c r a off)
  | 0x18 => some (.fsdS c r a off)
  | 0x1C => some (.fsdD c r a off)
  | _ => none

/-- ATOMIC: operation in [8:0], width in [9], release in [10], acquire in [11]. -/
def amo (c : CoreId) (w : BitVec 32) : Option Instr :=
  let d := d w
  let a := a w
  let b := b w
  let dbl := bit w 9
  let rl := bit w 10
  let aq := bit w 11
  match (fld w 0 9).toNat with
  | 0 => some (.amoswap c d a b dbl aq rl)
  | 1 => some (.amoadd c d a b dbl aq rl)
  | 2 => some (.amoand c d a b dbl aq rl)
  | 3 => some (.amoor c d a b dbl aq rl)
  | 4 => some (.amoxor c d a b dbl aq rl)
  | 5 => some (.amomin c d a b dbl aq rl)
  | 6 => some (.amomax c d a b dbl aq rl)
  | 7 => some (.amominu c d a b dbl aq rl)
  | 8 => some (.amomaxu c d a b dbl aq rl)
  | 9 => some (.cas c d a b dbl aq rl)
  | _ => none

/-- BRANCH: the condition stands in D. -/
def branch (c : CoreId) (w : BitVec 32) : Option Instr :=
  let a := a w
  let b := b w
  let off := fn w
  match (d w).val with
  | 0 => some (.beq c a b off)
  | 1 => some (.bne c a b off)
  | 2 => some (.blt c a b off)
  | 3 => some (.bge c a b off)
  | 4 => some (.bltu c a b off)
  | 5 => some (.bgeu c a b off)
  | _ => none

/-- BRANCHZ. -/
def branchZ (c : CoreId) (w : BitVec 32) : Option Instr :=
  let a := a w
  let off : BitVec 17 := fld w 0 17
  match (d w).val with
  | 0 => some (.beqz c a off)
  | 1 => some (.bnez c a off)
  | 2 => some (.bltz c a off)
  | 3 => some (.bgez c a off)
  | 4 => some (.blez c a off)
  | 5 => some (.bgtz c a off)
  | _ => none

/-- `syswr` of a register number. Two rows write MODE, by the value written; the word alone is taken for the entry's. -/
def sysWrite (c : CoreId) (n : BitVec 12) (a : Reg) : Instr :=
  match n.toNat with
  | 0x000 => .syswrStatus c a
  | 0x001 => .strongroomEntry c a
  | 0x010 => .syswrFctl c a
  | 0x029 => .dseNext c a
  | 0x02A => .dseOvfClear c a
  | 0x042 => .syswrLcount c a
  | 0x100 => .syswrTcfg c a
  | 0x101 => .syswrOcfg c a
  | 0x120 => .syswrVshape c a
  | 0x121 => .syswrVcount c a
  | m => if 0x108 ≤ m && m < 0x110 then .syswrTstat c (Fin.ofNat 8 m) a else .syswr c n a

/-- SYS: the function stands in B; every other field of a function without operands is zero (R71). -/
def sys (c : CoreId) (w : BitVec 32) : Option Instr :=
  let bare : Bool := d w = 0 && a w = 0 && fn w = 0
  match (b w).val with
  | 0x00 => given (a w = 0) (.sysrd c (d w) (fn w))
  | 0x01 => given (d w = 0) (sysWrite c (fn w) (a w))
  | 0x08 => given bare (.fenceR c)
  | 0x09 => given bare (.fenceW c)
  | 0x0A => given bare (.fenceRw c)
  | 0x0B => given bare (.isync c)
  | 0x10 => given bare (.ecall c)
  | 0x11 => given bare (.ebreak c)
  | 0x12 => given bare (.eret c)
  | 0x1F => given bare (.sleep c)
  | _ => none

/-! ## Scalar floating point (ch02, ch03) -/

/-- FP-R: operation in [11:6], rm in [5:3], fmt in [2:0]. -/
def fpR (c : CoreId) (w : BitVec 32) : Option Instr :=
  let d := d w
  let a := a w
  let b := b w
  let rm : BitVec 3 := fld w 3 3
  let fmt : BitVec 3 := fld w 0 3
  match (fld w 6 6).toNat with
  | 0x00 => some (.fadd c fmt rm d a b)
  | 0x01 => some (.fsub c fmt rm d a b)
  | 0x02 => some (.fmul c fmt rm d a b)
  | 0x03 => some (.fdiv c fmt rm d a b)
  | 0x04 => given (b = 0) (.fsqrt c fmt rm d a)
  | 0x05 => some (.fmin c fmt rm d a b)
  | 0x06 => some (.fmax c fmt rm d a b)
  | 0x07 => some (.fsgnj c fmt rm d a b)
  | 0x08 => some (.fsgnjn c fmt rm d a b)
  | 0x09 => some (.fsgnjx c fmt rm d a b)
  | 0x0A => some (.feq c fmt rm d a b)
  | 0x0B => some (.flt c fmt rm d a b)
  | 0x0C => some (.fle c fmt rm d a b)
  | 0x0D => given (b = 0) (.fclass c fmt rm d a)
  | 0x0E => some (.frem c fmt rm d a b)
  | 0x0F => some (.fmini c fmt rm d a b)
  | 0x10 => some (.fmaxi c fmt rm d a b)
  | 0x11 => given (b = 0) (.frint c fmt rm d a)
  | _ => none

/-- FMA: fE in [11:7], operation in [6:5], rm in [4:2], fmt in [1:0]. -/
def fma (c : CoreId) (w : BitVec 32) : Option Instr :=
  let d := d w
  let a := a w
  let b := b w
  let e : Reg := (fld w 7 5).toFin
  let rm : BitVec 3 := fld w 2 3
  let fmt : BitVec 2 := fld w 0 2
  match (fld w 5 2).toNat with
  | 0 => some (.fmadd c fmt rm d a b e)
  | 1 => some (.fmsub c fmt rm d a b e)
  | 2 => some (.fnmadd c fmt rm d a b e)
  | _ => some (.fnmsub c fmt rm d a b e)

/-- FP-CVT: operation in [11:6]; those to and from the short formats hold the format's code. -/
def fpCvt (c : CoreId) (w : BitVec 32) : Option Instr :=
  let d := d w
  let a := a w
  let rm : BitVec 3 := fld w 3 3
  let fmt : BitVec 3 := fld w 0 3
  let op := (fld w 6 6).toNat
  if b w ≠ 0 then none
  else
    match op with
    | 0x00 => if fmt = 0 then some (.fcvtDS c rm d a) else if fmt = 1 then some (.fcvtSD c rm d a) else none
    | 0x01 => some (.fcvtGF c fmt rm d a)
    | 0x02 => some (.fcvtGuF c fmt rm d a)
    | 0x03 => some (.fcvtFG c fmt rm d a)
    | 0x04 => some (.fcvtFGu c fmt rm d a)
    | 0x05 => some (.fmvGF c fmt rm d a)
    | 0x06 => some (.fmvFG c fmt rm d a)
    | 0x3C => some (.fcvtFE8 c fmt rm d a)
    | 0x3D => some (.fcvtE8F c fmt rm d a)
    | _ =>
      if 0x22 ≤ op && op ≤ 0x2B then some (.fcvtXF c (BitVec.ofNat 4 (op - 0x20)) fmt rm d a)
      else if 0x2C ≤ op && op ≤ 0x2F then some (.fcvtXnF c (BitVec.ofNat 4 (op - 0x2A)) fmt rm d a)
      else if 0x32 ≤ op && op ≤ 0x3B then some (.fcvtFX c (BitVec.ofNat 4 (op - 0x30)) fmt rm d a)
      else none

/-! ## Tiles (R128) -/

/-- TILE: operation in [11:6], options in [5:0]; D, A and B are tile codes where the row says so. -/
def tile (c : CoreId) (w : BitVec 32) : Option Instr :=
  let td : BitVec 5 := fld w 22 5
  let ta : BitVec 5 := fld w 17 5
  let tb : BitVec 5 := fld w 12 5
  let no : Bool := fld w 0 6 = 0
  match (fld w 6 6).toNat with
  | 0x00 => some (.tld c td (a w) (b w) (bit w 5) (fld w 0 5))
  | 0x01 => some (.tst c td (a w) (b w) (bit w 5) (fld w 0 5))
  | 0x02 => given (a w = 0 && b w = 0 && no) (.tzero c td)
  | 0x03 => given (d w = 0 && b w = 0 && no) (.tcfg c (a w))
  | 0x04 => given (d w = 0 && b w = 0 && no) (.tsave c (a w))
  | 0x05 => given (d w = 0 && b w = 0 && no) (.trest c (a w))
  | 0x06 => given (d w = 0 && a w = 0 && b w = 0 && no) (.tsync c)
  | 0x10 => some (.tmac c td ta tb (fld w 2 4) (bit w 1) (bit w 0))
  | 0x11 => some (.tfold c td ta tb (fld w 0 6))
  | 0x18 => some (.tout c td ta tb (bit w 5) (bit w 4) (bit w 3) (fld w 0 3))
  | _ => none

/-! ## Vectors (ch08) -/

def mask (w : BitVec 32) : Fin 16 := (fld w 8 4).toFin

/-- VEC-A: mask in [11:8], kind in [7:6], operation in [5:0]. -/
def vecA (c : CoreId) (w : BitVec 32) : Option Instr :=
  let kind : BitVec 2 := fld w 6 2
  let d := d w
  let a := a w
  let b := b w
  let mk := mask w
  match (fld w 0 6).toNat with
  | 0x00 => some (.vadd c kind d a b mk)
  | 0x01 => some (.vsub c kind d a b mk)
  | 0x02 => some (.vand c kind d a b mk)
  | 0x03 => some (.vor c kind d a b mk)
  | 0x04 => some (.vxor c kind d a b mk)
  | 0x05 => some (.vsll c kind d a b mk)
  | 0x06 => some (.vsrl c kind d a b mk)
  | 0x07 => some (.vsra c kind d a b mk)
  | 0x08 => some (.vmin c kind d a b mk)
  | 0x09 => some (.vmax c kind d a b mk)
  | 0x0A => some (.vminu c kind d a b mk)
  | 0x0B => some (.vmaxu c kind d a b mk)
  | 0x0C => some (.vmul c kind d a b mk)
  | 0x0D => some (.vmulh c kind d a b mk)
  | 0x0E => some (.vmulhu c kind d a b mk)
  | 0x10 => some (.vcmpeq c kind d a b mk)
  | 0x11 => some (.vcmpne c kind d a b mk)
  | 0x12 => some (.vcmplt c kind d a b mk)
  | 0x13 => some (.vcmple c kind d a b mk)
  | 0x14 => some (.vcmpltu c kind d a b mk)
  | 0x15 => some (.vcmpleu c kind d a b mk)
  | 0x20 => some (.vfadd c kind d a b mk)
  | 0x21 => some (.vfsub c kind d a b mk)
  | 0x22 => some (.vfmul c kind d a b mk)
  | 0x23 => some (.vfdiv c kind d a b mk)
  | 0x24 => some (.vfsqrt c kind d a b mk)
  | 0x25 => some (.vfmin c kind d a b mk)
  | 0x26 => some (.vfmax c kind d a b mk)
  | 0x27 => some (.vfmadd c kind d a b mk)
  | 0x28 => some (.vfnmsub c kind d a b mk)
  | 0x29 => some (.vfsgnj c kind d a b mk)
  | 0x2A => some (.vfeq c kind d a b mk)
  | 0x2B => some (.vflt c kind d a b mk)
  | 0x2C => some (.vfle c kind d a b mk)
  | _ => none

/-- VEC-M: mask in [11:8], form in [7:4], index width in [3:2]. -/
def vecM (c : CoreId) (w : BitVec 32) : Option Instr :=
  let iw : BitVec 2 := fld w 2 2
  let d := d w
  let a := a w
  let b := b w
  let mk := mask w
  let flat : Bool := iw = 0
  let unit : Bool := iw = 0 && b = 0
  if fld w 0 2 ≠ 0 then none
  else
    match (fld w 4 4).toNat with
    | 0x0 => given unit (.vld c d a mk)
    | 0x1 => given unit (.vst c d a mk)
    | 0x2 => given flat (.vlds c d a b mk)
    | 0x3 => given flat (.vsts c d a b mk)
    | 0x4 => some (.vldx c d a b iw mk)
    | 0x5 => some (.vstx c d a b iw mk)
    | 0x6 => given unit (.vldff c d a mk)
    | 0x7 => some (.vldxff c d a b iw mk)
    | 0x8 => given unit (.vld2 c d a mk)
    | 0x9 => given unit (.vld3 c d a mk)
    | 0xA => given unit (.vld4 c d a mk)
    | 0xB => given unit (.vst2 c d a mk)
    | 0xC => given unit (.vst3 c d a mk)
    | 0xD => given unit (.vst4 c d a mk)
    | 0xE => given (unit && mk = 0) (.vlm c d a)
    | _ => given (unit && mk = 0) (.vsm c d a)

/-- VEC-C: mask in [11:8], rm in [7:5], operation in [4:0]. -/
def vecC (c : CoreId) (w : BitVec 32) : Option Instr :=
  let rm : BitVec 3 := fld w 5 3
  let d := d w
  let a := a w
  let b := b w
  let mk := mask w
  let low : Fin 16 := (fld w 12 4).toFin
  let r0 : Bool := rm = 0
  let bare : Bool := rm = 0 && mk = 0
  match (fld w 0 5).toNat with
  | 0x00 => given (r0 && b = 0) (.vsetl c d a (fld w 8 4))
  | 0x01 => some (.vcvtN c d a (bit w 16) (fld w 12 4) rm mk)
  | 0x02 => given (!bit w 16) (.vcvtW c d a (fld w 12 4) rm mk)
  | 0x03 => given (b = 0) (.vcvtIF c d a rm mk)
  | 0x04 => given (b = 0) (.vcvtFI c d a rm mk)
  | 0x08 => given r0 (.vredsum c d a b mk)
  | 0x09 => some (.vfredsum c d a b rm mk)
  | 0x0A => given r0 (.vredmin c d a b mk)
  | 0x0B => given r0 (.vredmax c d a b mk)
  | 0x0C => given r0 (.vfredmin c d a b mk)
  | 0x0D => given r0 (.vfredmax c d a b mk)
  | 0x10 => given (r0 && b = 0) (.vmvVG c d a mk)
  | 0x11 => given bare (.vmvGV c d a b)
  | 0x12 => given (r0 && b = 0) (.vmvVF c d a mk)
  | 0x13 => given bare (.vmvFV c d a b)
  | 0x14 => given r0 (.vslidedn c d a b mk)
  | 0x15 => given r0 (.vslideup c d a b mk)
  | 0x16 => given r0 (.vperm c d a b mk)
  | 0x17 => given (bare && !bit w 16) (.vcompress c d a low)
  | 0x18 => given bare (.vmand c d a b)
  | 0x19 => given bare (.vmor c d a b)
  | 0x1A => given bare (.vmxor c d a b)
  | 0x1B => given bare (.vmandn c d a b)
  | 0x1C => given (bare && b = 0) (.vmpopc c d a)
  | 0x1D => given (bare && b = 0) (.vmfirst c d a)
  | 0x1E => given (r0 && a = 0 && b = 0) (.vid c d mk)
  | _ => none

end CoreWord

/-- The command of core c that an instruction word spells, by its class (R47); none for a reserved word, which raises cause 0x01. -/
def coreCommand (c : CoreId) (w : BitVec 32) : Option Instr :=
  let d := CoreWord.d w
  let a := CoreWord.a w
  match CoreWord.cls w with
  | 0x00 => CoreWord.aluR c w
  | 0x01 => CoreWord.aluI c w
  | 0x02 => some (.lui c d (fld w 0 22))
  | 0x03 => CoreWord.mulDiv c w
  | 0x04 => CoreWord.load c w
  | 0x05 => CoreWord.store c w
  | 0x06 => CoreWord.amo c w
  | 0x08 => CoreWord.branch c w
  | 0x09 => CoreWord.branchZ c w
  | 0x0A => some (.jal c d (fld w 0 22))
  | 0x0B => CoreWord.given (CoreWord.b w = 0) (.jalr c d a (fld w 0 12))
  | 0x0C => CoreWord.sys c w
  | 0x0D => CoreWord.given (d = 0 && CoreWord.b w = 0) (.loop c a (fld w 0 12))
  | 0x0E => CoreWord.fpR c w
  | 0x0F => CoreWord.fma c w
  | 0x10 => CoreWord.fpCvt c w
  | 0x14 => CoreWord.tile c w
  | 0x18 => CoreWord.vecA c w
  | 0x19 => CoreWord.vecM c w
  | 0x1A => CoreWord.vecC c w
  | _ => none

end Sys2Proof
end

