-- ==== Sys2Proof/Machine/Aes.lean ====
section
/-! DEFINITION. AES-XTS with 256-bit keys over one 64-byte line (R330), by the standards the spec names: IEEE 1619 and FIPS 197
(PRESUMED: the cipher's inside comes from the standards; log entry 13). -/

namespace Sys2Proof
namespace Machine
namespace Aes

/-- The S-box and its inverse, entry b at bits [8b + 7 : 8b]. -/
def sboxBits : BitVec 2048 :=
  0x16BB54B00F2D99416842E6BF0D89A18CDF2855CEE9871E9B948ED9691198F8E19E1DC186B95735610EF6034866B53E708A8BBD4B1F74DDE8C6B4A61C2E2578BA08AE7A65EAF4566CA94ED58D6D37C8E779E4959162ACD3C25C2406490A3A32E0DB0B5EDE14B8EE4688902A22DC4F816073195D643D7EA7C41744975FEC130CCDD2F3FF1021DAB6BCF5389D928F40A351A89F3C507F02F94585334D43FBAAEFD0CF584C4A39BECB6A5BB1FC20ED00D153842FE329B3D63B52A05A6E1B1A2C830975B227EBE28012079A059618C323C7041531D871F1E5A534CCF73F362693FDB7C072A49CAFA2D4ADF04759FA7DC982CA76ABD7FE2B670130C56F6BF27B777C63
def invBits : BitVec 2048 :=
  0x7D0C2155631469E126D677BA7E042B17619953833CBBEBC8B0F52AAE4D3BE0A0EF9CC9939F7AE52D0D4AB519A97F51605FEC8027591012B131C7078833A8DD1FF45ACD78FEC0DB9A2079D2C64B3E56FC1BBE18AA0E62B76F89C5291D711AF1476EDF751CE837F9E28535ADE72274AC9673E6B4F0CECFF297EADC674F4111913A6B8A130103BDAFC1020F3FCA8F1E2CD00645B3B80558E4F70AD3BC8C00ABD890849D8DA75746155EDAB9EDFD5048706C92B6655DCC5CA4D41698688664F6F87225D18B6D49A25B76B224D92866A12E084EC3FA420B954CEE3D23C2A632947B54CBE9DEC444438E3487FF2F9B8239E37CFBD7F3819EA340BF38A53630D56A0952

def sub (b : Byte) : Byte := sboxBits.extractLsb' (8 * b.toNat) 8
def isub (b : Byte) : Byte := invBits.extractLsb' (8 * b.toNat) 8

def xtime (b : Byte) : Byte := (b <<< 1) ^^^ (if bit b 7 then 0x1B else 0)

/-- Multiplication in GF(2^8) by a constant below 16. -/
def gmul (k : Nat) (b : Byte) : Byte :=
  let b2 := xtime b
  let b4 := xtime b2
  let b8 := xtime b4
  (if k.testBit 0 then b else 0) ^^^ (if k.testBit 1 then b2 else 0) ^^^ (if k.testBit 2 then b4 else 0) ^^^
    (if k.testBit 3 then b8 else 0)

/-- Byte i of a block or of a key word. -/
def byteAt {w : Nat} (x : BitVec w) (i : Nat) : Byte := x.extractLsb' (8 * i) 8

def ofBytes (w : Nat) (bs : List Byte) : BitVec w := BitVec.ofNat w (fromLe bs)

def subWord (x : BitVec 32) : BitVec 32 := ofBytes 32 ((List.range 4).map fun i => sub (byteAt x i))

/-- The expanded key, latest word first: `n` more words after the first eight. -/
def expand : Nat → Nat → Byte → List (BitVec 32) → List (BitVec 32)
  | 0, _, _, ws => ws
  | n + 1, i, rcon, ws =>
    let t := ws.getD 0 0
    let u :=
      if i % 8 = 0 then subWord (t.rotateRight 8) ^^^ rcon.setWidth 32
      else if i % 8 = 4 then subWord t
      else t
    expand n (i + 1) (if i % 8 = 0 then xtime rcon else rcon) ((ws.getD 7 0 ^^^ u) :: ws)

/-- The fifteen round keys of a 256-bit key, in order. -/
def roundKeys (k : BitVec 256) : List (BitVec 128) :=
  let ws := (expand 52 8 1 ((List.range 8).reverse.map fun i => k.extractLsb' (32 * i) 32)).reverse
  (List.range 15).map fun r =>
    (List.range 4).foldl (fun x j => x ||| ((ws.getD (4 * r + j) 0).setWidth 128 <<< (32 * j))) 0

def mapBlock (f : Nat → Byte) : BitVec 128 := ofBytes 128 ((List.range 16).map f)

/-- SubBytes and ShiftRows. -/
def subShift (x : BitVec 128) : BitVec 128 := mapBlock fun i => sub (byteAt x ((i + 4 * (i % 4)) % 16))
def isubShift (x : BitVec 128) : BitVec 128 := mapBlock fun i => isub (byteAt x ((i + 12 * (i % 4)) % 16))

/-- MixColumns with the given coefficients. -/
def mixBy (c : Nat → Nat) (x : BitVec 128) : BitVec 128 :=
  mapBlock fun i =>
    (List.range 4).foldl (fun b j => b ^^^ gmul (c ((j + 4 - i % 4) % 4)) (byteAt x (i / 4 * 4 + j))) 0

def mix : BitVec 128 → BitVec 128 := mixBy fun d => match d with | 0 => 2 | 1 => 3 | _ => 1
def imix : BitVec 128 → BitVec 128 := mixBy fun d => match d with | 0 => 14 | 1 => 11 | 2 => 13 | _ => 9

def encryptBlock (ks : List (BitVec 128)) (x : BitVec 128) : BitVec 128 :=
  let x := x ^^^ ks.getD 0 0
  let x := (List.range 13).foldl (fun x r => mix (subShift x) ^^^ ks.getD (r + 1) 0) x
  subShift x ^^^ ks.getD 14 0

def decryptBlock (ks : List (BitVec 128)) (x : BitVec 128) : BitVec 128 :=
  let x := isubShift (x ^^^ ks.getD 14 0)
  let x := (List.range 13).foldl (fun x r => isubShift (imix (x ^^^ ks.getD (13 - r) 0))) x
  x ^^^ ks.getD 0 0

/-- Multiplication of the tweak by the primitive element. -/
def dbl (t : BitVec 128) : BitVec 128 := (t <<< 1) ^^^ (if bit t 127 then 0x87 else 0)

/-- One line as a data unit of four blocks under its tweak A[51:6] (R330). -/
def xts (f : BitVec 128 → BitVec 128) (t0 : BitVec 128) (line : BitVec 512) : BitVec 512 :=
  let t1 := dbl t0
  let t2 := dbl t1
  let t3 := dbl t2
  let one (i : Nat) (t : BitVec 128) : BitVec 512 := (f (line.extractLsb' (128 * i) 128 ^^^ t) ^^^ t).setWidth 512 <<< (128 * i)
  one 0 t0 ||| one 1 t1 ||| one 2 t2 ||| one 3 t3

/-- Encrypt a line under a key pair at line number n (address / 64). -/
def encryptLine (k1 k2 : BitVec 256) (n : Nat) (line : BitVec 512) : BitVec 512 :=
  xts (encryptBlock (roundKeys k1)) (encryptBlock (roundKeys k2) (BitVec.ofNat 128 n)) line

/-- Decrypt a line under a key pair at line number n. -/
def decryptLine (k1 k2 : BitVec 256) (n : Nat) (line : BitVec 512) : BitVec 512 :=
  xts (decryptBlock (roundKeys k1)) (encryptBlock (roundKeys k2) (BitVec.ofNat 128 n)) line

end Aes
end Machine
end Sys2Proof
end

