-- ==== Sys2Proof/Config.lean ====
section
/-! DEFINITION. What the spec leaves open for the whole run: free constants with no body, so that no proof can see their value. -/

namespace Sys2Proof

/-- The three orderable variants (R9, table "Variant contents"). -/
inductive Variant where
  | vke32x | vke32a | vke24m
  deriving DecidableEq, Repr

namespace Config

/-- The n-th free value of a run. `State.fresh` counts the values taken (log entry 3). -/
opaque free : Nat → Word
/-- DIEID, fused at manufacture; no two dies hold the same number (R579, "Identity and features"). -/
opaque dieId : Word
/-- The deviation, in 1/1024 of a BF16 ulp, of the GELU and SiLU approximations of R216; the model clamps it to the stated 4 ulp. -/
opaque actDeviation : Nat → Word → Int
/-- The 14-bit hash of the UDP source port (R388), a function of the source endpoint and both QPNs that the spec does not give. -/
opaque portHash : Nat → Nat → Nat → BitVec 14
/-- The die's own IPv6 address, for the UDP checksum of R388: the spec gives no register for it. By the die endpoint ID. -/
opaque ownIp6 : Nat → BitVec 128
/-- The IDCODE of the test access port (R573); the spec gives no value. -/
opaque tapIdcode : BitVec 32

end Config
end Sys2Proof
end

