-- ==== Sys2Proof/Machine/State.lean ====
section
/-! DEFINITION. The state of one Edeanos E32 die as plain data, its state after reset, and the reasons a step can stop. -/

namespace Sys2Proof
namespace Machine

/-- A sparse table: rising keys, no entry equal to the table's default (see `mget`, `mset` in Machine/Tables.lean). -/
abbrev Table (β : Type) := List (Nat × β)

/-- Why the die's outcome is not a next state. -/
inductive Fault where
  /-- An action of the host, PL2, PL3 or the firmware whose outcome the spec calls undefined (R7), under the rule named.
  Raised by the commands that rule governs. Safe: the model stops where the hardware goes on in any way. -/
  | undefinedOutcome (rule : Nat)
  deriving DecidableEq, Repr

/-- Why a command has no meaning here. -/
inductive Refusal where
  /-- An instruction whose meaning is not written yet. Raised by `exec` only. Safe: nothing can be proved of it. -/
  | notModelled (mnemonic : String)
  deriving DecidableEq, Repr

/-! ## Cores -/

/-- An entry of the deferred store queue (R288). -/
structure DseEntry where
  addr : Word
  /-- log2 of the size in bytes, 0 to 6. -/
  size : BitVec 4
  kind : BitVec 4
  pl : BitVec 2
  polder : BitVec 12
  src : BitVec 2
  deriving DecidableEq, Repr

/-- A pending interrupt of a core (R305). -/
structure PendIrq where
  cause : BitVec 8
  lvl : BitVec 2
  prio : BitVec 4
  deriving DecidableEq, Repr

/-- The MOESI state of a line that a cache holds; a line it does not hold is I (R314). -/
inductive Moesi where
  | m | o | e | s
  deriving DecidableEq, Repr

/-- A line in a cache way: line number (address / 64), state and polder tag (R309). -/
structure CLine where
  line : Nat
  st : Moesi
  tag : BitVec 12
  deriving DecidableEq, Repr

/-- One set of a cache: the ways that hold a line, and the replacement tree's bits, bit k for node k (R310). -/
structure CSet where
  ways : Table CLine := []
  tree : Nat := 0
  deriving DecidableEq, Repr

/-- A `tmac` or `tfold` in flight, with what its RD stage has read (R165, R166). -/
structure Flight where
  fold : Bool
  d : Fin 8
  /-- Source accumulators of a `tfold`. -/
  fa : Fin 8
  fb : Fin 8
  cfg : Word
  seg : BitVec 4
  neg : Bool
  z : Bool
  ta : BitVec 32768
  tb : BitVec 32768
  sa : BitVec 8192
  sb : BitVec 8192
  deriving DecidableEq, Repr

/-- What is wrong with a word of an array: SECDED corrects it, or does not (R434). -/
inductive ArrayFault where
  | corrected | uncorrectable
  deriving DecidableEq, Repr

/-- What an entry has recognised: cause, target level, subcode, imprecise, EADDR if there is one, the level it comes from (R292, R297). -/
structure Entry where
  cause : BitVec 8
  level : BitVec 2
  sub : BitVec 4
  imprec : Bool
  addr : Option Word
  fromPl : BitVec 2
  deriving DecidableEq, Repr

/-- The state of one logical core (R36, and the chapters each field names). -/
structure Core where
  g : Vector Word 32
  f : Vector Word 32
  /-- The long-vector file, used while the unit is enabled (R223). -/
  v : Vector (BitVec 4096) 32
  m : Vector (BitVec 4096) 16
  /-- The cellar mask file (R251). -/
  cm : Vector Word 16
  tl : Vector (BitVec 32768) 8
  acc : Vector (BitVec 65536) 8
  sc : Vector (BitVec 8192) 8
  pc : Word
  status : Word
  mode : Word
  polder : BitVec 12
  fctl : Word
  fstat : Word
  epc : Word
  estatus : Word
  ecause : Word
  eaddr : Word
  edeleg : Word
  /-- The deferred store queue, oldest first (R288), its overflow bit and drop count. -/
  dse : List DseEntry
  dseOvf : Bool
  dseDropped : BitVec 16
  /-- Cause 0x07 pending (R289). -/
  dsePend : Bool
  /-- Cause 0x06 pending: the offending address, and whether it is imprecise (R286). -/
  fpPend : Option (Word × Bool)
  irqs : List PendIrq
  vbase : Vector Word 4
  spx : Vector Word 4
  dfvec : Word
  dfsp : Word
  lstart : Word
  lend : Word
  lcount : Word
  gptb : Word
  iptb : Word
  /-- The GPTB and IPTB values that govern instruction fetch: those of the latest `isync` (R43). -/
  fetchGptb : Word
  fetchIptb : Word
  tcfg : Word
  ocfg : Word
  tuse : BitVec 24
  tstat : Vector Word 8
  vshape : Word
  vcount : Word
  vresume : Word
  vstat : Word
  /-- The long-vector unit is enabled, marked failed (R249). -/
  vuOn : Bool
  vuFailed : Bool
  /-- Tile operations in flight, oldest first (R165). -/
  flight : List Flight
  /-- The engine has stopped on a second mismatch, with the attempts made (R174). -/
  mxStopped : Bool
  mxThird : Bool
  /-- The strongroom SRAM (R269), offset to byte. -/
  sram : List Host.Cell
  /-- SRAM offsets whose bytes are uncorrectable: a physical condition (R269; log entry 20). -/
  sramBad : List Nat
  srwin : Word
  rvec : Word
  spill : Word
  /-- Tolerable wake latency in ns, PW_TOLn (R493). -/
  tol : BitVec 32
  /-- Door state: 0 Open, 1 Ajar, 2 Shut, 3 Sealed (R513). -/
  door : BitVec 2
  asleep : Bool
  paused : Bool
  /-- A pause has been requested and is not complete (R434). -/
  pausing : Bool
  /-- The levee's arm holds the core paused (R415 step 1), or asks it to pause. -/
  armPaused : Bool
  armPausing : Bool
  /-- Held in reset (R301; before start-up step 10). -/
  held : Bool
  /-- The clock of the physical core is stopped (R447 step 1). -/
  stopped : Bool
  /-- Forced into Ajar at the critical temperature (R511). -/
  forced : Bool
  mxGated : Bool
  vuGated : Bool
  /-- The shards whose STEP stores of this core are outstanding (R416). -/
  stepOut : List (Fin 16)
  l1i : Table CSet
  l1d : Table CSet
  l2 : Table CSet
  /-- A word of the scalar, vector, mask or tile registers is in error, correctably or not: a physical condition (R434). -/
  fileErr : Option ArrayFault
  /-- The event whose entry waits for an access (R297). -/
  entering : Option Entry
  /-- The atomic or `syswr` at the PC waits: it completes before an event of the boundary (R295). -/
  begun : Bool
  /-- The `trest` at the PC has begun and waits for an access (R144). -/
  imaging : Bool
  /-- The vector store at the PC waits: the physical addresses of the bytes that it has stored or is about to store (R253). -/
  storing : List Nat
  /-- Lines of the active loop's body in the fetch line buffer (R257). -/
  fetchBuf : List Nat
  timecmp : Word
  note : Word
  deriving DecidableEq, Repr

/-- A logical core right after a cold reset (R46, R115, R229, R272 and the register tables). -/
def Core.reset : Core where
  g := Vector.replicate 32 0
  f := Vector.replicate 32 0
  v := Vector.replicate 32 0
  m := Vector.replicate 16 0
  cm := Vector.replicate 16 0
  tl := Vector.replicate 8 0
  acc := Vector.replicate 8 0
  sc := Vector.replicate 8 0
  pc := 0x1000000100000
  status := 0x3
  mode := 0
  polder := 0
  fctl := 0
  fstat := 0
  epc := 0
  estatus := 0
  ecause := 0
  eaddr := 0
  edeleg := 0
  dse := []
  dseOvf := false
  dseDropped := 0
  dsePend := false
  fpPend := none
  irqs := []
  vbase := Vector.replicate 4 0
  spx := Vector.replicate 4 0
  dfvec := 0
  dfsp := 0
  lstart := 0
  lend := 0
  lcount := 0
  gptb := 0
  iptb := 0
  fetchGptb := 0
  fetchIptb := 0
  tcfg := 0x01040044
  ocfg := 0x1
  tuse := 0
  tstat := Vector.replicate 8 0
  vshape := 0x3
  vcount := 0
  vresume := 0
  vstat := 0
  vuOn := false
  vuFailed := false
  flight := []
  mxStopped := false
  mxThird := false
  sram := []
  sramBad := []
  srwin := 0
  rvec := 0x1000000100000
  spill := 0
  tol := 0
  door := 0
  asleep := false
  paused := false
  pausing := false
  armPaused := false
  armPausing := false
  held := true
  stopped := false
  forced := false
  mxGated := false
  vuGated := false
  stepOut := []
  l1i := []
  l1d := []
  l2 := []
  fileErr := none
  entering := none
  begun := false
  imaging := false
  storing := []
  fetchBuf := []
  timecmp := 0xFFFFFFFFFFFFFFFF
  note := 0

/-- What stays with a physical core, 0 to 31, SPA = 32, SPB = 33 (R174, R175). -/
structure Room where
  /-- The lane that the spare lane replaces. -/
  laneMap : Option (Fin 34)
  spareBad : Bool
  engineFailed : Bool
  deriving DecidableEq, Repr

def Room.reset : Room := ⟨none, false, false⟩

/-! ## Wings -/

/-- A scullery slot (R317). `res` is the outcome its line operations have reached: ERRKIND, or 0. -/
structure Slot where
  base : Word
  len : Word
  op : Word
  stat : Word
  pl : BitVec 2
  polder : BitVec 12
  gptb : Word
  iptb : Word
  /-- The request came from the pumphouse or the host: PHYS only is captured. -/
  phys : Bool
  /-- It came from an untrusted core of another die, whose tables do not come with it (log entry 28). -/
  far : Bool
  res : BitVec 4
  deriving DecidableEq, Repr

def Slot.reset : Slot := ⟨0, 0, 0, 0, 0, 0, 0, 0, false, false, 0⟩

structure Wing where
  vpol : Word
  waydis : BitVec 16
  /-- WING_PQp without its OCC field, default 0x4000. -/
  pq : Table (BitVec 32)
  cache : Table CSet
  /-- LTIME of each victim accepted in the last 1,024 fabric cycles, latest first (R312). -/
  recent : List Word
  slots : Vector Slot 4
  /-- The busy slots in the order of their RANGE_OP writes (R317). -/
  order : List (Fin 4)
  /-- Corrected array errors: way, line and LTIME, one for each line of a way (R450). -/
  wayErrs : List (Nat × Nat × Word)
  /-- Ways that have given an uncorrectable array error (R450). -/
  wayBad : BitVec 16
  /-- Ways that fail their test: a physical condition (R446). -/
  wayFail : BitVec 16
  deriving DecidableEq, Repr

def Wing.reset : Wing := ⟨0, 0, [], [], [], Vector.replicate 4 Slot.reset, [], [], 0, 0⟩

/-! ## Memory and its controllers -/

/-- A key-table entry: two 256-bit AES keys and ENABLE (R331). -/
structure Key where
  k1 : BitVec 256
  k2 : BitVec 256
  enable : Bool
  deriving DecidableEq, Repr

def Key.none : Key := ⟨0, 0, false⟩

/-- The keys a line is stored under: none is plaintext (R330). -/
abbrev LineKey := Option (BitVec 256 × BitVec 256)

/-- The copy in the stack that a dirty cached line hides (R314). -/
structure Stale where
  data : BitVec 512
  key : LineKey
  deriving DecidableEq, Repr

/-- A directory entry for other dies: which may hold the line in M, E or O, and which in S (R315, R545). -/
structure DirEntry where
  owner : Option (Fin 4)
  sharers : BitVec 4
  deriving DecidableEq, Repr

def DirEntry.none : DirEntry := ⟨Option.none, 0⟩

structure Ctrl where
  present : Bool
  trained : Bool
  selfRef : Bool
  cecnt : BitVec 32
  uecnt : BitVec 32
  iecc : BitVec 32
  erraddr : Word
  scrub : Word
  ppr : Word
  deriving DecidableEq, Repr

def Ctrl.reset : Ctrl := ⟨false, false, false, 0, 0, 0, 0, 0x10018, 0⟩

/-- A cache of the die, for an array fault in it. -/
inductive CacheName where
  | l1i (c : CoreId) | l1d (c : CoreId) | l2 (c : CoreId) | wing (w : Fin 4)
  deriving DecidableEq, Repr

structure Mem where
  /-- The current value of every byte of physical memory that a cache or a stack holds; unlisted bytes are zero (R581). -/
  bytes : List Host.Cell
  /-- The keys each line is stored under; default plaintext. -/
  lineKey : Table LineKey
  /-- The stack's copy of each line held dirty. -/
  stale : Table (Option Stale)
  dir : Table DirEntry
  keys : Table Key
  ctrls : Vector Ctrl 4
  /-- The symbols of each stored line that are in error, bits 32 to 34 the check symbols (R326): a physical condition. -/
  errs : Table (BitVec 35)
  /-- Dirty cached lines that are uncorrectable, with the port and the way that an event of them names (R434): a physical condition. -/
  badDirty : Table (Option (BitVec 8 × BitVec 16))
  /-- Cached lines with a word in error, in the cache named: a physical condition (R434). -/
  arrays : Table (Option (CacheName × ArrayFault))
  /-- Directory entries that are in error in the home agent's cache of them: a physical condition (R434). -/
  dirErrs : Table (Option ArrayFault)
  /-- Lines that a scrub pass has corrected, with the pass (R451), and for each stack the pass under way and its latest line. -/
  scrubbed : List (Nat × Nat)
  passes : Vector (Nat × Nat) 4
  /-- Repair requests for rows whose bank has no spare row left: a physical condition (R451). -/
  noSpare : List (Nat × Word)
  /-- Rows recorded for a hard repair (R451), as (controller, request). -/
  hardRows : List (Nat × Word)
  deriving DecidableEq, Repr

def Mem.reset : Mem := ⟨[], [], [], [], [], Vector.replicate 4 Ctrl.reset, [], [], [], [], [], Vector.replicate 4 (0, 0), [], []⟩

/-! ## Interrupt router -/

/-- The routing entries, raw, default 0 (R304). -/
abbrev Irtes := Table Word

/-! ## Sluice -/

inductive RegState where
  | free | valid | revoking
  deriving DecidableEq, Repr

/-- A region entry (R355 to R358). -/
structure Region where
  base : Word
  len : Word
  polder : BitVec 12
  /-- LR, LW, RR, RW, RA in bits 0 to 4. -/
  access : BitVec 5
  state : RegState
  gen : BitVec 14
  pgsz : BitVec 2
  plist : Word
  stash : BitVec 3
  /-- Admitted messages that have not finished (R403), as (queue pair, first PSN or send index, local). -/
  open_ : List (Nat × Nat × Bool)
  onDie : Bool
  deriving DecidableEq, Repr

def Region.none : Region := ⟨0, 0, 0, 0, .free, 0, 0, 0, 0, [], false⟩

/-- A work request as read from its slot (R359). -/
structure WorkReq where
  op : BitVec 8
  sig : Bool
  notify : Bool
  frd : Bool
  fall : Bool
  relax : Bool
  imm : BitVec 32
  wrid : Word
  laddr : Word
  lkey : BitVec 32
  len : BitVec 32
  raddr : Word
  rkey : BitVec 32
  opnd1 : Word
  opnd2 : Word
  /-- A reserved bit is set. -/
  rsv : Bool
  deriving DecidableEq, Repr

/-- A work request that has started and not completed. -/
structure OpenWr where
  wr : WorkReq
  /-- First PSN and number of PSNs it consumes (R390). -/
  psn : BitVec 24
  npsn : Nat
  /-- Packets transmitted so far. -/
  sent : Nat
  /-- Bytes of response placed so far. -/
  got : Nat
  /-- Its status, once its own work has ended; it completes in order (R368). -/
  done : Option (BitVec 8)
  /-- A request that the levee makes for a shard with remote slots (R425); it has no ring slot and no completion entry. -/
  levee : Option (Fin 16)
  deriving DecidableEq, Repr

/-- A packet that the sluice sends (R388): type, destination and fields. -/
structure TxPacket where
  typ : BitVec 8
  qpn : Nat
  frame : Frame
  ipv6 : Bool
  ip : BitVec 128
  dscp : BitVec 6
  /-- UDP source port and checksum. -/
  sport : BitVec 16
  cksum : BitVec 16
  /-- The IP header: ECN, TTL or hop limit, DF, protocol or next header. -/
  ecn : BitVec 2
  ttl : BitVec 8
  df : Bool
  proto : BitVec 8
  /-- LTIME ticks that the rate of the queue pair puts between this packet and its next one (R400). -/
  gap : Nat
  deriving DecidableEq, Repr

/-- The message that the responder of a queue pair is receiving. -/
structure RxMsg where
  typ : BitVec 8
  psn : BitVec 24
  rkey : BitVec 32
  raddr : Word
  len : BitVec 32
  notify : Bool
  imm : BitVec 32
  /-- Bytes placed so far. -/
  got : Nat
  /-- The receive descriptor of a SEND: WRID, LADDR, LKEY, LEN. -/
  wrid : Word
  laddr : Word
  lkey : BitVec 32
  dlen : BitVec 32
  /-- A revocation has cut it (R403). -/
  cut : Bool
  deriving DecidableEq, Repr

structure QueuePair where
  polder : BitVec 12
  irte : BitVec 10
  sqAddr : Word
  rqAddr : Word
  cqAddr : Word
  sqKey : BitVec 32
  rqKey : BitVec 32
  cqKey : BitVec 32
  sqLog : BitVec 5
  rqLog : BitVec 5
  cqLog : BitVec 5
  pin : Bool
  sqPi : BitVec 32
  rqPi : BitVec 32
  sqCi : BitVec 32
  rqCi : BitVec 32
  cqPi : BitVec 32
  arm : Bool
  scnt : BitVec 32
  rcnt : BitVec 32
  /-- 0 RESET, 1 INIT, 2 RTR, 3 RTS, 4 ERROR (R376). -/
  state : BitVec 3
  err : BitVec 8
  -- connection and transport parameters (R390, R495)
  peer : BitVec 16
  peerQpn : BitVec 20
  ipv6 : Bool
  ip : BitVec 128
  dscp : BitVec 6
  mtu : BitVec 2
  rtoexp : BitVec 4
  retry : BitVec 3
  rnrt : BitVec 16
  rnrretry : BitVec 3
  rmax : BitVec 12
  -- requester
  nextPsn : BitVec 24
  opens : List OpenWr
  /-- A WAIT holding the send queue: WQPN, counter, THRESH (R372). -/
  held : Option (Nat × Bool × BitVec 32)
  /-- PSNs of request packets sent and not acknowledged, oldest first; the packet is built again when it is sent again (R384). -/
  unacked : List (BitVec 24)
  /-- The latest expected PSN that the peer has shown (R396). -/
  peerPsn : BitVec 24
  timeouts : Nat
  /-- Start of the retransmission timer in LTIME (R396). -/
  rtoStart : Word
  /-- RNR NAKs received for one PSN (R397); a back-off in progress: the PSN it resends from, and the LTIME of its
  end. -/
  rnrPsn : BitVec 24
  rnrCount : Nat
  backoff : Option (BitVec 24 × Word)
  rung : Nat
  cleanWin : Nat
  winM : Nat
  winA : Nat
  -- responder
  epsn : BitVec 24
  ahead : List (BitVec 24)
  rx : Option RxMsg
  /-- Relaxed WRITEs whose first packet has been admitted ahead of the expected PSN (R391). -/
  early : List RxMsg
  msn : BitVec 24
  /-- Packets admitted since the last ACK, and whether one of them is acknowledged by no response (R392, R395). -/
  sinceAck : Nat
  owed : Bool
  ce : BitVec 16
  atomics : List (BitVec 24 × Word)
  /-- The NAK latched under R398, and the message it dropped. -/
  nak : Option (BitVec 8)
  /-- The PSN refused from the anteroom (R406). -/
  anteNak : Option (BitVec 24)
  /-- Packets parked in the anteroom, oldest first, with their type (R405). -/
  parked : List (BitVec 8 × Frame)
  onDie : Bool
  /-- The context's last use, for the choice of the evicted context (R380). -/
  used : Nat
  deriving DecidableEq, Repr

structure Sluice where
  enabled : Bool
  hostStore : Bool
  endpoint : BitVec 16
  bsbase : Word
  dbdrop : BitVec 32
  ctxmiss : BitVec 32
  udpport : BitVec 16
  revdrop : BitVec 32
  rxdrop : BitVec 32
  rnrAnte : BitVec 32
  retx : BitVec 32
  cemark : BitVec 32
  /-- Context uses so far (R380). -/
  clock : Nat
  qps : Table (Option QueuePair)
  regions : Table Region
  /-- Anteroom quota of each polder, default 16 (R406). -/
  quota : Table (BitVec 10)
  /-- Packets given to the wire, latest first. -/
  wire : List TxPacket
  /-- Cumulative bytes and messages sent and received (R500). -/
  bytesTx : Word
  bytesRx : Word
  msgsTx : Word
  msgsRx : Word
  deriving DecidableEq, Repr

def Sluice.reset : Sluice where
  enabled := false
  hostStore := false
  endpoint := 0
  bsbase := 0
  dbdrop := 0
  ctxmiss := 0
  udpport := 0x5C15
  revdrop := 0
  rxdrop := 0
  rnrAnte := 0
  retx := 0
  cemark := 0
  clock := 0
  qps := []
  regions := []
  quota := []
  wire := []
  bytesTx := 0
  bytesRx := 0
  msgsTx := 0
  msgsRx := 0

/-! ## Levee -/

inductive ShardState where
  | disabled | idle | arming | copying | committing | restoring
  deriving DecidableEq, Repr

structure Shard where
  desc : Vector Word 8
  state : ShardState
  /-- The slot of the next checkpoint: false A, true B. -/
  next : Bool
  last : BitVec 8
  tmr : BitVec 32
  steps : BitVec 32
  seq : Word
  lstep : Word
  skip : BitVec 32
  step : Word
  cstep : Word
  /-- Start point of the timer in LTIME (R412). -/
  tmrStart : Word
  /-- 0 timer, 1 step, 2 command (R422). -/
  trig : BitVec 2
  ta : Word
  /-- Arm step 2 to 4 performed: homes hold writes (R415). -/
  armed : Bool
  /-- Lines whose downgrade to another die waits for a transaction under way at the arm (R415 step 3). -/
  toDown : List Nat
  /-- The running CRC-64 and the granules already in the slot (R423). -/
  crc : Word
  copied : Nat
  /-- The core of this die whose STEP store fired the arm, and the STEP store of another die that did: both complete at the resume (R416). -/
  stepCore : Option CoreId
  stepFar : Option ThMsg
  /-- A restore: the slot being read, whether the newest was asked for, and 1 + the position of the read that failed last, until it succeeds;
  positions 0 and 1 are the records, then the granules (R430, R431). -/
  rslot : Bool
  rnewest : Bool
  rfails : Nat
  /-- Addresses of staging granules in use by WRITEs that have not completed (R425). -/
  staged : List Nat
  /-- The commit with remote slots: 0 before the FLUSH, 1 FLUSH posted, 2 record and second FLUSH posted (R425). -/
  phase : Nat
  /-- The commit records that a restore has read: of slot A, then of slot B (R430). -/
  recs : List (List Word)
  deriving DecidableEq, Repr

def Shard.reset : Shard where
  desc := Vector.replicate 8 0
  state := .disabled
  next := false
  last := 0
  tmr := 0
  steps := 0
  seq := 0
  lstep := 0
  skip := 0
  step := 0
  cstep := 0
  tmrStart := 0
  trig := 0
  ta := 0
  armed := false
  toDown := []
  crc := 0
  copied := 0
  stepCore := none
  stepFar := none
  rslot := false
  rnewest := false
  rfails := 0
  staged := []
  phase := 0
  recs := []

/-- Which unit made a request to another node. -/
inductive Requester where
  | core (c : CoreId)
  | pump
  | sluice (q : Nat)
  | levee (sh : Fin 16)
  /-- A line of another die that the sluice places into a wing cache for a queue pair (R387). -/
  | stash (q : Nat) (w : Fin 4)
  | scullery (w : Fin 4)
  /-- A wing cache's write-back or Evict; nothing waits for its answer. -/
  | wing (w : Fin 4)
  /-- A core's STEP store to another die, outstanding outside the store buffer, with what its deferred store error would hold (R416). -/
  | step (c : CoreId) (e : DseEntry)
  /-- A write of the pumphouse whose answer nothing waits for. -/
  | posted
  /-- A core's request whose instruction has been abandoned: its line still comes to the core (R295). -/
  | given (c : CoreId)
  | door (n : Fin 8)
  deriving DecidableEq, Repr

/-- A write held at a home agent for an unsaved granule (R418). -/
inductive HeldWrite where
  /-- A unit's request for a line; the unit's command is issued again (log entry 11). -/
  | req (unit : Requester) (line : Nat)
  /-- A salvage write-back of one line under its tag (R447). -/
  | salvage (line : Nat) (data : BitVec 512) (tag : BitVec 12)
  /-- The spill of a core that enters Sealed, which meets this unsaved granule first (R515). -/
  | spill (c : CoreId) (g : Nat)
  deriving DecidableEq, Repr

structure Levee where
  shards : Vector Shard 16
  /-- The region table: BASE and NGRAN doublewords. -/
  regions : Table (Word × Word)
  /-- The unsaved granules: the bits of the bitmap that are set (R410). -/
  unsaved : List Nat
  /-- Held writes in the order of their arrival, with its LTIME, and the granules asked for at priority (R418, R419). -/
  heldWrites : List (Word × HeldWrite)
  prio : List Nat
  holds : BitVec 32
  holdmax : BitVec 16
  tagdrop : BitVec 32
  deriving DecidableEq, Repr

def Levee.reset : Levee := ⟨Vector.replicate 16 Shard.reset, [], [], [], [], 0, 0, 0⟩

/-! ## Cofferdam -/

/-- An event record (R435). -/
structure Event where
  kind : BitVec 8
  port : BitVec 8
  inc : BitVec 8
  polder : BitVec 12
  sev : BitVec 2
  detail : BitVec 16
  addr : Word
  ltime : Word
  seq : BitVec 32
  rep : BitVec 32
  /-- Its recovery is complete; it waits for its notification (R452). -/
  recovered : Bool
  deriving DecidableEq, Repr

/-- A floodgate (R442). -/
structure Gate where
  inc : BitVec 8
  open_ : Bool
  drop : BitVec 32
  deriving DecidableEq, Repr

/-- A lost-page table entry (R437). -/
structure LostPage where
  page : BitVec 40
  polder : BitVec 12
  rel : Bool
  deriving DecidableEq, Repr

structure Cofferdam where
  events : List Event
  /-- What the places of the record ring without a queued record hold: doublewords, 4 x place + i. -/
  records : Table Word
  evHead : BitVec 8
  evSeq : BitVec 32
  evDrop : BitVec 32
  /-- Corrected events, and events of SEV 1 or higher, since cold reset (R492 RAS_COUNTS). -/
  nCorr : Word
  nSev : Word
  defCore : BitVec 5
  lpt : Table (Option LostPage)
  lptHigh : Bool
  /-- Floodgates by port; default INC 1, closed. -/
  gates : Table Gate
  /-- CF_CMAPn: physical core and OFFLINE. -/
  cmap : Vector (BitVec 6 × Bool) 32
  spareFree : BitVec 2
  nFenced : BitVec 8
  dieStop : Bool
  recovering : Bool
  /-- LTIME of the latest late-speaker event of each port (R445). -/
  late : Table (Option Word)
  /-- The sluice and the levee are fenced (R446). -/
  sluiceFenced : Bool
  leveeFenced : Bool
  /-- A word of the cofferdam's SRAM is in error: a physical condition (R434). -/
  sramErr : Option ArrayFault
  deriving DecidableEq, Repr

def Gate.closed : Gate := ⟨1, false, 0⟩

/-! ## Pumphouse -/

structure Pump where
  pc : BitVec 16
  ptrs : Vector (BitVec 16) 8
  dsp : BitVec 16
  /-- Z, C, N, V in bits 0 to 3. -/
  flags : BitVec 4
  hatchPg : BitVec 12
  aluA : Byte
  aluR : Byte
  lsuD : Byte
  lsuR : Byte
  /-- Loads under way: words still to pass before the result is readable, and the result (R464). -/
  loads : List (Nat × Byte)
  rstack : List (BitVec 16)
  code : List Host.Cell
  data : List Host.Cell
  rom : List Host.Cell
  /-- The hatch snapshot and the staging register, by doubleword offset (R471, R472). -/
  snap : Option (Nat × Word)
  stage : Option (Nat × Word)
  run : Bool
  halt : Bool
  lock : Bool
  bootrom : Bool
  hcause : BitVec 4
  haltPc : BitVec 16
  fwid : Word
  mbox : Word
  mboxr : Word
  ecc : BitVec 16
  hatchErr : BitVec 16
  codeErr : BitVec 16
  mvAddr : Word
  mvSram : Word
  mvCtl : Word
  /-- Events set and not cleared: bits 0 and 2 to 6 of evt.pend; bits 1 and 7 are computed (R475). -/
  events : Byte
  /-- The mask of an `evt.wait.t` that stalls the sequencer. -/
  waiting : Option Byte
  /-- The one-shot timer: the LTIME at which it expires. -/
  timer : Option Word
  /-- Pumphouse SRAM addresses whose bytes are uncorrectable: a physical condition (R457). -/
  badSram : List Nat
  /-- Pumphouse SRAM addresses with a single-bit error: a physical condition (R457). -/
  softSram : List Nat
  /-- The fuses: the security-version floor, and the hash of the public key (R479). -/
  svnFloor : BitVec 8
  keyHash : BitVec 384
  fwReason : BitVec 8
  deriving DecidableEq, Repr

def Pump.reset : Pump where
  pc := 0xF000
  ptrs := Vector.replicate 8 0
  dsp := 0xE000
  flags := 0
  hatchPg := 0
  aluA := 0
  aluR := 0
  lsuD := 0
  lsuR := 0
  loads := []
  rstack := []
  code := []
  data := []
  rom := []
  snap := none
  stage := none
  run := true
  halt := false
  lock := false
  bootrom := true
  hcause := 0
  haltPc := 0
  fwid := 0
  mbox := 0
  mboxr := 0
  ecc := 0
  hatchErr := 0
  codeErr := 0
  mvAddr := 0
  mvSram := 0
  mvCtl := 0
  events := 0
  waiting := none
  timer := none
  badSram := []
  softSram := []
  svnFloor := 0
  keyHash := 0
  fwReason := 0

/-! ## Porch -/

/-- A reply before it is written: everything but PHASE (R485). -/
structure Reply where
  tag : BitVec 16
  status : BitVec 8
  detail : BitVec 16
  opcode : BitVec 8
  res0 : Word
  res1 : Word
  res2 : Word
  deriving DecidableEq, Repr

/-- A command that has replied ACCEPTED, or a direct command whose effect is under way (R487): its object and data. -/
structure Background where
  tag : BitVec 16
  opcode : BitVec 8
  quiet : Bool
  /-- The object: core, region index, shard, or 0 for the fuses. -/
  obj : Nat
  /-- Counts gathered for the final reply. -/
  n : Nat
  x : Word
  deriving DecidableEq, Repr

structure Porch where
  ready : Bool
  fwOnly : Bool
  down : Bool
  cmdPi : BitVec 32
  cmdCi : BitVec 32
  rplPi : BitVec 32
  rplCi : BitVec 32
  mirror : Word
  hostIrq : Word
  /-- Doublewords of the command slots, 8 x n + i. -/
  slots : Table Word
  /-- Doublewords of the reply slots, 4 x n + i. -/
  replies : Table Word
  accepted : List Background
  /-- A direct command whose reply waits for its effect (CORE_PAUSE, LEVEE_CHECKPOINT). -/
  direct : Option Background
  /-- Notifications and background final replies that wait for a reply slot (R486). -/
  waiting : List Reply
  deriving DecidableEq, Repr

def Porch.reset : Porch := ⟨false, false, false, 0, 0, 0, 0, 0, 0, [], [], [], none, []⟩

/-! ## Clocks, power, sideband -/

structure Power where
  rootLock : Bool
  /-- The root PLL's outputs other than the pumphouse clock are stopped (R498). -/
  rootOff : Bool
  /-- The start-up step at which the die has halted with FAULT_N active, or 0 (R525, R535, R568). -/
  haltStep : BitVec 4
  /-- The window in which VDDQ_HBM is judged has been set by step 6 of this start-up (R571). -/
  hbmWindow : Bool
  /-- The VDD_CORE supplied, in mV: a physical condition (R504). -/
  coreMv : BitVec 16
  stackLock : BitVec 4
  doorLock : BitVec 8
  pwStep : BitVec 4
  thStep : BitVec 4
  /-- The alert step is in force (R510). -/
  alert : Bool
  critical : Bool
  limit : BitVec 16
  /-- PW_POWER, in mW. -/
  power : BitVec 32
  quiet : BitVec 32
  tThrottle : BitVec 8
  tCritical : BitVec 8
  rstCause : BitVec 3
  inQuiet : Bool
  /-- POWER_SAMPLE commands (1 µs) still to pass before the controller raises again, and since it lowered (R507). -/
  raiseWait : Nat
  lowerWait : Nat
  /-- Thermal samples in a row below T_T - 3 °C (R509). -/
  coolRun : Nat
  sensors : Vector (BitVec 16) 96
  deriving DecidableEq, Repr

def Power.reset : Power where
  rootLock := false
  rootOff := false
  haltStep := 0
  hbmWindow := false
  coreMv := 850
  stackLock := 0
  doorLock := 0
  pwStep := 0
  thStep := 0
  alert := false
  critical := false
  limit := 0x12C
  power := 0
  quiet := 0
  tThrottle := 95
  tCritical := 105
  rstCause := 0
  inQuiet := false
  raiseWait := 0
  lowerWait := 0
  coolRun := 0
  sensors := Vector.replicate 96 0

/-- One sideband input (R561 to R566). -/
structure Pin where
  /-- The filtered value: active or not. -/
  filt : Bool
  /-- The storm mask holds. -/
  masked : Bool
  /-- Treated as inactive after WAKE_STUCK until next seen inactive; for THERM_ALERT_N, logged as stuck. -/
  stuck : Bool
  /-- LTIME of the filtered transitions within the preceding 10 ms. -/
  trans : List Word
  deriving DecidableEq, Repr

structure Sideband where
  /-- THERM_ALERT_N, WAKE_N, RST_N. -/
  pins : Vector Pin 3
  log : BitVec 6
  storms : Vector (BitVec 16) 3
  shorts : BitVec 16
  faultLow : Bool
  /-- PH_HEARTBEAT driven low. -/
  beatLow : Bool
  deriving DecidableEq, Repr

def Sideband.reset : Sideband := ⟨Vector.replicate 3 ⟨false, false, false, []⟩, 0, Vector.replicate 3 0, 0, false, false⟩

/-! ## Doorways and Threshold -/

/-- A Threshold message with its class and opcode. -/
structure Wire where
  cls : BitVec 2
  op : BitVec 6
  m : ThMsg
  deriving DecidableEq, Repr

/-- A link-management flit (R534, R535). -/
structure LmFlit where
  /-- 1 INIT, 2 QUIESCE, 3 STOP. -/
  typ : BitVec 8
  version : BitVec 8
  node : BitVec 8
  assign : BitVec 8
  cap : BitVec 8
  /-- REQ, RSP, SNP and DAT credits. -/
  credits : Word
  deriving DecidableEq, Repr

structure Door where
  up : Bool
  training : Bool
  l1 : Bool
  lost : Bool
  rate : BitVec 2
  x32 : Bool
  repaired : Bool
  peer : Option (BitVec 3)
  coherent : Bool
  idle : Bool
  ctl : Word
  crcerr : BitVec 32
  replay : BitVec 32
  retrains : BitVec 16
  txflit : Word
  rxflit : Word
  fgdrop : BitVec 32
  /-- Credits held for sending, and credits to return to the peer: REQ, RSP, SNP, DAT (R539). -/
  credits : Vector (BitVec 16) 4
  owed : Vector Nat 4
  /-- FSEQ of the next sequenced flit, and the last received in order (R533). -/
  txSeq : BitVec 10
  rxSeq : BitVec 10
  nakOut : Bool
  /-- Unacknowledged flits, oldest first, and consecutive NAKs of the oldest. -/
  unacked : List (BitVec 2048)
  naks : Nat
  /-- Messages to send; messages received and not yet performed; units of a message not yet whole. -/
  tx : List Wire
  /-- Units of a message that has begun in the latest sequenced flit (R532). -/
  txRest : List (BitVec 32)
  inbox : List Wire
  partial_ : List (BitVec 32)
  /-- Link-management flits sent, latest first. -/
  lmSent : List LmFlit
  /-- LTIME of the training failures of the last 1 ms, latest first (R555). -/
  failed : List Word
  deriving DecidableEq, Repr

def Door.reset : Door where
  up := false
  training := false
  l1 := false
  lost := false
  rate := 0
  x32 := false
  repaired := false
  peer := none
  coherent := false
  idle := false
  ctl := 0x1D
  crcerr := 0
  replay := 0
  retrains := 0
  txflit := 0
  rxflit := 0
  fgdrop := 0
  credits := Vector.replicate 4 0
  owed := Vector.replicate 4 0
  txSeq := 1
  rxSeq := 0
  nakOut := false
  unacked := []
  naks := 0
  tx := []
  txRest := []
  inbox := []
  partial_ := []
  lmSent := []
  failed := []

/-- A request outstanding at, or answered by, another node or this die's home (R543). -/
structure Req where
  unit : Requester
  node : BitVec 3
  tag : BitVec 12
  op : BitVec 6
  addr : Nat
  /-- The message as its unit asked for it. -/
  m : ThMsg
  /-- Floodgate port and incarnation of the unit when it sent the request (R442); 0xFF for a unit without a port. -/
  port : BitVec 8
  inc : BitVec 8
  /-- The doorway that the request has taken, once it has (R537). -/
  via : Option (Fin 8)
  /-- STATUS and data of the answer. -/
  answer : Option (BitVec 4 × BitVec 512)
  deriving DecidableEq, Repr

/-- A transaction that a home of this die is performing for one line (R547). -/
structure Txn where
  line : Nat
  /-- Who asked: a unit of this die, or a node through a doorway. -/
  unit : Requester
  op : BitVec 6
  m : ThMsg
  /-- Snoops sent and not answered: node and tag. -/
  snoops : List (BitVec 3 × BitVec 12)
  /-- The snoop data: a holder's, or that of its write-back. -/
  data : Option (BitVec 512)
  /-- The owner has answered a read's snoop with I: its Evict or WbLine is on its way (R547). -/
  left : Bool
  /-- The node that asked takes the whole line, so that a dirty value moves to it and memory stays as it is (R545). -/
  move : Bool
  deriving DecidableEq, Repr

structure Window where
  base : Word
  ctl : Word
  xlat : Word
  deriving DecidableEq, Repr

def Window.zero : Window := ⟨0, 0, 0⟩
/-- Window 0 at reset: the first 1 GiB of the region, RO, to IO-die address 0 (R550). -/
def Window.first : Window := ⟨0x1000000000000, 0x95E, 0⟩

structure Thresh where
  node : Option (Fin 4)
  lost : BitVec 8
  lock : Bool
  miss : BitVec 32
  windows : Vector Window 16
  /-- Incarnations of other dies' ports as each doorway has recorded them, 2048 x doorway + 256 x node + port (R553). -/
  incs : Table (BitVec 8)
  reqs : List Req
  /-- Messages to a node that has quiesced, or whose doorway set has changed, in their order: the node, the line address and the message (R537,
  R554). -/
  held : List (BitVec 3 × Option Nat × Wire)
  /-- Nodes whose set has changed while messages to them are not yet acknowledged (R537). -/
  moving : List (BitVec 3)
  /-- Interrupts to the host, each with the node and tag of the writes that it reports and that have no answer yet (R551). -/
  ints : List (Wire × List (BitVec 3 × BitVec 12))
  txns : List Txn
  /-- Requests held behind a transaction of their line (R547), with their doorway. -/
  queued : List (Fin 8 × Wire)
  quiesced : List (BitVec 3)
  nextTag : BitVec 12
  deriving DecidableEq, Repr

def Thresh.reset : Thresh :=
  ⟨none, 0, false, 0, (Vector.replicate 16 Window.zero).set 0 Window.first, [], [], [], [], [], [], [], [], 0⟩

/-! ## Telemetry and test access -/

structure Telem where
  running : Bool
  stopped : Bool
  base : Word
  log2 : BitVec 5
  interval : BitVec 32
  seq : BitVec 32
  /-- Records written since the ring was configured. -/
  count : Nat
  /-- The record that is being written, while its writes wait for answers (R500). -/
  inFlight : List Byte
  /-- Bytes read and written per stack, cumulative (R500). -/
  stackRd : Vector Word 4
  stackWr : Vector Word 4
  deriving DecidableEq, Repr

def Telem.reset : Telem := ⟨false, false, 0, 0, 0, 0, 0, [], Vector.replicate 4 0, Vector.replicate 4 0⟩

inductive TapInstr where
  | idcode | bypass | samplePreload | extest
  deriving DecidableEq, Repr

structure Tap where
  ir : TapInstr
  /-- The register that the instruction connects between TDI and TDO, as captured. -/
  dr : Word
  deriving DecidableEq, Repr

/-! ## The die -/

structure State where
  variant : Variant
  stepping : BitVec 8
  cores : Vector Core 32
  rooms : Vector Room 34
  irtes : Irtes
  wings : Vector Wing 4
  mem : Mem
  sluice : Sluice
  levee : Levee
  coff : Cofferdam
  pump : Pump
  porch : Porch
  power : Power
  side : Sideband
  doors : Vector Door 8
  th : Thresh
  telem : Telem
  tap : Tap
  /-- LTIME, the die's free-running counter (R28). -/
  ltime : Word
  /-- RST_N is low, or VDD_PH is out of range: the die is held in reset (R563, R571). -/
  inReset : Bool
  /-- Stores to PW_WRST, or to DW_CTL with RETRAIN, made inside the die, whose effect needs results from outside it: offset and
  value. The PW_WRST or RETRAIN command takes them up (log entry 16). -/
  asked : List (Nat × Word)
  /-- Free values taken so far: the model's own field (log entry 3). -/
  fresh : Nat
  /-- The commands that wait, first in first out: the model's own field. -/
  pending : List Instr
  deriving DecidableEq, Repr

/-- CF_CMAPn resets to n (R447). -/
def Cofferdam.identityMap : Vector (BitVec 6 × Bool) 32 := Vector.ofFn fun n => (BitVec.ofNat 6 n.val, false)

/-- Ports of the units present in every variant or only in some: open at reset (R441, FGp table). -/
def Cofferdam.presentPort (v : Variant) (p : Nat) : Bool :=
  let small := v == .vke24m
  (p < 0x18) || (p < 0x20 && !small) || (0x28 ≤ p && p < 0x2B) || (p == 0x2B && !small) ||
  (0x30 ≤ p && p < 0x33) || (p == 0x33 && !small) || (0x38 ≤ p && p < 0x43)

def Cofferdam.resetGates (v : Variant) : Table Gate :=
  ((List.range 0x43).filter (Cofferdam.presentPort v)).map fun p => (p, ⟨1, true, 0⟩)

def Cofferdam.reset (v : Variant) : Cofferdam where
  events := []
  records := []
  evHead := 0
  evSeq := 0
  evDrop := 0
  nCorr := 0
  nSev := 0
  defCore := 0
  lpt := []
  lptHigh := false
  gates := Cofferdam.resetGates v
  cmap := Cofferdam.identityMap
  spareFree := 3
  nFenced := 0
  dieStop := false
  recovering := false
  late := []
  sluiceFenced := false
  leveeFenced := false
  sramErr := none

/-- The die of a variant right after the cold reset clears it and before its start-up runs (R521, the register tables). -/
def State.resetOf (v : Variant) : State where
  variant := v
  stepping := 0
  cores := Vector.replicate 32 Core.reset
  rooms := Vector.replicate 34 Room.reset
  irtes := []
  wings := Vector.replicate 4 Wing.reset
  mem := Mem.reset
  sluice := Sluice.reset
  levee := Levee.reset
  coff := Cofferdam.reset v
  pump := Pump.reset
  porch := Porch.reset
  power := Power.reset
  side := Sideband.reset
  doors := Vector.replicate 8 Door.reset
  th := Thresh.reset
  telem := Telem.reset
  tap := ⟨.idcode, 0⟩
  ltime := 0
  inReset := false
  asked := []
  fresh := 0
  pending := []

/-- The machine right after reset: a VKE32-X (log entry 2). The COLD_RESET command runs its start-up. -/
def State.reset : State := State.resetOf .vke32x

end Machine
end Sys2Proof
end

