-- ==== Sys2Proof/Machine/Tables.lean ====
section
/-! DEFINITION. Sparse tables (memory among them) in canonical form: rising keys, no entry equal to the default. -/

namespace Sys2Proof
namespace Machine

variable {β : Type}

/-- The entry at a key; the default where none is listed. -/
def mget (d : β) : Table β → Nat → β
  | [], _ => d
  | (k, v) :: t, a => if a = k then v else mget d t a

/-- Insert an entry at its place, replacing one of the same key. -/
def minsert (a : Nat) (x : β) : Table β → Table β
  | [] => [(a, x)]
  | (k, v) :: t => if a < k then (a, x) :: (k, v) :: t else if a = k then (a, x) :: t else (k, v) :: minsert a x t

/-- Remove the entries at a key. -/
def merase (a : Nat) : Table β → Table β
  | [] => []
  | (k, v) :: t => if a = k then merase a t else (k, v) :: merase a t

/-- Write an entry; writing the default removes it, so that equal tables are equal data. -/
def mset [DecidableEq β] (d : β) (t : Table β) (a : Nat) (x : β) : Table β :=
  if x = d then merase a t else minsert a x t

/-- The canonical form: keys rise strictly from `lo`, and no entry is the default. -/
def twf [DecidableEq β] (d : β) : Nat → Table β → Bool
  | _, [] => true
  | lo, (k, v) :: t => decide (lo ≤ k) && decide (v ≠ d) && twf d (k + 1) t

/-- Drop every entry whose key a test picks. -/
def mdrop (p : Nat → Bool) (t : Table β) : Table β := t.filter fun e => !p e.1

/-! Memory: a table of bytes with default 0. -/

/-- Read n bytes from an address on. -/
def rdBytes (m : List Host.Cell) (a : Nat) : Nat → List Byte
  | 0 => []
  | n + 1 => mget 0 m a :: rdBytes m (a + 1) n

/-- Write bytes from an address on. -/
def wrBytes (m : List Host.Cell) (a : Nat) : List Byte → List Host.Cell
  | [] => m
  | b :: bs => wrBytes (mset 0 m a b) (a + 1) bs

/-- The canonical form of a memory. -/
def Memory.wf (m : List Host.Cell) : Bool := twf 0 0 m

end Machine
end Sys2Proof
end

