-- ==== Sys2Proof/Machine/Caches.lean ====
section
/-! DEFINITION. One cache: sets of ways with a tree of replacement bits (R307, R309, R310). Lines are numbered by address / 64. -/

namespace Sys2Proof
namespace Machine

/-- Sets and ways of a cache (R307). A line's set is its number modulo the sets (log entry 12). -/
structure Geo where
  sets : Nat
  ways : Nat

def l1iGeo : Geo := ⟨256, 4⟩
def l1dGeo : Geo := ⟨128, 8⟩
def l2Geo : Geo := ⟨2048, 16⟩
def wingGeo : Geo := ⟨16384, 16⟩

/-- Tree bit k. -/
def treeBit (tree k : Nat) : Bool := tree.testBit k
def setTreeBit (tree k : Nat) (b : Bool) : Nat := if tree.testBit k = b then tree else tree ^^^ (2 ^ k)

/-- Point every bit on the path from node `k`, which covers ways [lo, lo + n), away from way w (R310). Halving `fuel` times. -/
def treeAway (w : Nat) : Nat → Nat → Nat → Nat → Nat → Nat
  | 0, _, _, _, tree => tree
  | fuel + 1, k, lo, n, tree =>
    if n ≤ 1 then tree
    else if w < lo + n / 2 then treeAway w fuel (2 * k + 1) lo (n / 2) (setTreeBit tree k true)
    else treeAway w fuel (2 * k + 2) (lo + n / 2) (n / 2) (setTreeBit tree k false)

/-- An enabled way exists in [lo, lo + n). -/
def anyWay (off : Nat → Bool) (lo n : Nat) : Bool := (List.range n).any fun i => !off (lo + i)

/-- Walk along the bits to the victim; a subtree with no enabled way is left for the other (R310). -/
def treeVictim (off : Nat → Bool) (tree : Nat) : Nat → Nat → Nat → Nat → Nat
  | 0, _, lo, _ => lo
  | fuel + 1, k, lo, n =>
    if n ≤ 1 then lo
    else
      let upper := if treeBit tree k then anyWay off (lo + n / 2) (n / 2) else !anyWay off lo (n / 2)
      if upper then treeVictim off tree fuel (2 * k + 2) (lo + n / 2) (n / 2)
      else treeVictim off tree fuel (2 * k + 1) lo (n / 2)

abbrev Cache := Table CSet

def CSet.empty : CSet := {}

def cset (g : Geo) (t : Cache) (line : Nat) : CSet := mget CSet.empty t (line % g.sets)
def putSet (g : Geo) (t : Cache) (line : Nat) (x : CSet) : Cache := mset CSet.empty t (line % g.sets) x

/-- The way and entry that hold a line. -/
def find (g : Geo) (t : Cache) (line : Nat) : Option (Nat × CLine) := (cset g t line).ways.find? fun p => p.2.line = line

/-- The state in which a cache holds a line. -/
def stateOf (g : Geo) (t : Cache) (line : Nat) : Option Moesi := (find g t line).map (·.2.st)

/-- A hit: the tree points away from the way (R310). -/
def touch (g : Geo) (t : Cache) (line : Nat) : Cache :=
  match find g t line with
  | some (w, _) => let x := cset g t line; putSet g t line { x with tree := treeAway w 5 0 0 g.ways x.tree }
  | none => t

/-- Change the state of a held line. -/
def setState (g : Geo) (t : Cache) (line : Nat) (st : Moesi) : Cache :=
  match find g t line with
  | some (w, e) =>
    let x := cset g t line
    putSet g t line { x with ways := x.ways.map fun p => if p.1 = w then (w, { e with st := st }) else p }
  | none => t

/-- Drop a line. The tree bits stay. -/
def drop (g : Geo) (t : Cache) (line : Nat) : Cache :=
  match find g t line with
  | some (w, _) => let x := cset g t line; putSet g t line { x with ways := merase w x.ways }
  | none => t

/-- Fill a line: the lowest-numbered enabled invalid way, or the tree's victim (R310). `off` marks disabled ways. -/
def fill (g : Geo) (off : Nat → Bool) (t : Cache) (e : CLine) : Cache × Option CLine :=
  let x := cset g t e.line
  let free := (List.range g.ways).find? fun w => !off w && x.ways.all fun p => p.1 ≠ w
  match free with
  | some w => (putSet g t e.line ⟨minsert w e x.ways, treeAway w 5 0 0 g.ways x.tree⟩, none)
  | none =>
    let w := treeVictim off x.tree 5 0 0 g.ways
    let old := (x.ways.find? fun p => p.1 = w).map (·.2)
    (putSet g t e.line ⟨minsert w e x.ways, treeAway w 5 0 0 g.ways x.tree⟩, old)

/-- Every line a cache holds, with its way. -/
def linesOf (t : Cache) : List (Nat × CLine) := t.flatMap fun e => e.2.ways

def Moesi.dirty : Moesi → Bool
  | .m | .o => true
  | _ => false

end Machine
end Sys2Proof
end

