-- ==== Sys2Proof/Machine/Ops.lean ====
section
/-! DEFINITION. Operations that every unit shares: the variant's counts, a core's registers, events, interrupts, replies, floodgates,
messages to other nodes. -/

namespace Sys2Proof
namespace Machine

/-! ## The variant (R9) -/

def nCores : Variant → Nat
  | .vke24m => 24
  | _ => 32

def nWings : Variant → Nat
  | .vke24m => 3
  | _ => 4

/-- Memory stacks of the variant (R9). -/
def nStacks : Variant → Nat
  | .vke24m => 3
  | _ => 4

def hasLvu : Variant → Bool
  | .vke32a => false
  | _ => true

def hasF64m : Variant → Bool
  | .vke32a => false
  | _ => true

def hasChain : Variant → Bool
  | .vke32a => false
  | _ => true

def featVariant (s : State) : Word :=
  0xE0320000 ||| put s.stepping 8 ||| (match s.variant with | .vke32x => 1 | .vke32a => 2 | .vke24m => 3)

def feat0 (v : Variant) : Word := flag (hasLvu v) 0 ||| flag (hasF64m v) 1 ||| flag (hasChain v) 2 ||| flag true 3

def feat1 (v : Variant) : Word :=
  BitVec.ofNat 64 (nCores v) ||| BitVec.ofNat 64 (nWings v * 256) ||| BitVec.ofNat 64 (nStacks v * 4096) ||| 0x820000

/-- The next free value (log entry 3). -/
def State.free (s : State) : Word × State := (Config.free s.fresh, { s with fresh := s.fresh + 1 })

/-! ## A core's registers -/

def State.core (s : State) (c : CoreId) : Core := s.cores[c.val]
def State.setCore (s : State) (c : CoreId) (k : Core) : State := { s with cores := s.cores.set c.val k }
def State.modCore (s : State) (c : CoreId) (f : Core → Core) : State := s.setCore c (f (s.core c))

/-- A general register; g0 reads zero (R36). -/
def Core.rg (k : Core) (r : Reg) : Word := if r = 0 then 0 else k.g[r.val]
/-- Write a general register; g0 ignores writes (R36). -/
def Core.wg (k : Core) (r : Reg) (v : Word) : Core := if r = 0 then k else { k with g := k.g.set r.val v }
def Core.rf (k : Core) (r : Reg) : Word := k.f[r.val]
def Core.wf (k : Core) (r : Reg) (v : Word) : Core := { k with f := k.f.set r.val v }

def State.g (s : State) (c : CoreId) (r : Reg) : Word := (s.core c).rg r
def State.setG (s : State) (c : CoreId) (r : Reg) (v : Word) : State := s.modCore c (·.wg r v)
def State.f (s : State) (c : CoreId) (r : Reg) : Word := (s.core c).rf r
def State.setF (s : State) (c : CoreId) (r : Reg) (v : Word) : State := s.modCore c (·.wf r v)

/-- STATUS.PL. -/
def Core.pl (k : Core) : BitVec 2 := fld k.status 0 2
/-- STATUS.SRM: strongroom mode is in force. -/
def Core.srm (k : Core) : Bool := bit k.status 7
def Core.mal (k : Core) : Bool := bit k.status 3
def Core.ten (k : Core) : Bool := bit k.status 4
def Core.ven (k : Core) : Bool := bit k.status 5
/-- The door state as it shows: an Open core that the critical temperature forces is Ajar (R511, R513). -/
def Core.doorState (k : Core) : BitVec 2 := if k.forced && k.door = 0 then 1 else k.door

def State.pl (s : State) (c : CoreId) : BitVec 2 := (s.core c).pl
def State.pc (s : State) (c : CoreId) : Word := (s.core c).pc

/-- The variant has the logical core (R9). -/
def State.present (s : State) (c : CoreId) : Bool := decide (c.val < nCores s.variant)
/-- CF_CMAPn.OFFLINE (R448). -/
def State.offline (s : State) (c : CoreId) : Bool := (s.coff.cmap[c.val]).2
/-- The physical core that holds the logical ID (R447). -/
def State.phys (s : State) (c : CoreId) : BitVec 6 := (s.coff.cmap[c.val]).1
/-- The wing of a logical core (R19). -/
def wingOf (c : CoreId) : Fin 4 := ⟨c.val / 8, by omega⟩

/-- The core issues instructions: present, not offline, not idle, not held, its clock running (R434, R447, R511 to R513, R521). -/
def State.runs (s : State) (c : CoreId) : Bool :=
  let k := s.core c
  !s.inReset && s.present c && !s.offline c && !k.held && !k.paused && !k.armPaused && !k.asleep && !k.stopped && !k.forced

/-- Logic other than the pumphouse is clocked: the root PLL has locked, and the die has not halted at start-up step 3 or 4 (R503, R525). A PLL
that loses lock later has stopped the die (R502). -/
def State.clocked (s : State) : Bool := s.power.haltStep ≠ 3 && s.power.haltStep ≠ 4 && (s.power.rootLock || s.coff.dieStop)

/-! ## What an instruction can come to -/

/-- A precise exception: cause, subcode, and the meaningful EADDR if there is one (R283). -/
structure Exc where
  cause : BitVec 8
  sub : BitVec 4
  addr : Option Word
  deriving DecidableEq, Repr

/-- Why an operation has no result. -/
inductive Exit where
  /-- A precise exception of the core. -/
  | exc (e : Exc)
  /-- It waits for another agent; the command is issued again. -/
  | wait
  /-- An outcome the spec calls undefined, under the rule. -/
  | stop (rule : Nat)
  deriving DecidableEq, Repr

/-- An operation over the state that can end in an exit. -/
abbrev M (α : Type) := EStateM Exit State α

def raise {α : Type} (cause : BitVec 8) (sub : BitVec 4) (addr : Option Word) : M α := throw (.exc ⟨cause, sub, addr⟩)
def await {α : Type} : M α := throw .wait

/-- What an instruction that waits leaves of a core: the events that it has met, how far its own work is, and the tile operations that have
completed for it (R144, R147, R295, R297). -/
def Core.waiting (k t : Core) : Core :=
  { k with
    fpPend := t.fpPend, dsePend := t.dsePend, irqs := t.irqs, note := t.note, entering := t.entering, begun := t.begun, imaging := t.imaging
    acc := t.acc, tstat := t.tstat, tuse := t.tuse, flight := t.flight, mxThird := t.mxThird, vuGated := t.vuGated }

/-- The writes held by a command that waits, beside those held before it. -/
def Levee.waiting (l t : Levee) : Levee :=
  { l with
    heldWrites := l.heldWrites ++ t.heldWrites.filter fun e => !l.heldWrites.contains e
    prio := l.prio ++ t.prio.filter fun g => !l.prio.contains g
    holds := t.holds }

/-- What the memory controllers have counted and corrected for a command that waits (R327, R434). -/
def Mem.waiting (m t : Mem) : Mem :=
  { m with ctrls := t.ctrls, errs := t.errs, arrays := t.arrays, badDirty := t.badDirty, dirErrs := t.dirErrs }

/-- What a wing cache has counted for it (R450). -/
def Wing.waiting (x t : Wing) : Wing := { x with wayErrs := t.wayErrs, wayBad := t.wayBad }

/-- What stays of a command that waits for another node or for a granule: the requests and snoops it has sent, the write it has had
held, what the cofferdam has recorded and the host has been told of it, and a telemetry record begun. The rest is as before, and the command is
issued again (log entry 11). -/
def State.waiting (s t : State) : State :=
  { s with
    th := t.th, doors := t.doors, coff := t.coff, side := t.side, porch := t.porch
    pump := { s.pump with events := t.pump.events }
    telem := { s.telem with inFlight := t.telem.inFlight }
    levee := s.levee.waiting t.levee
    mem := s.mem.waiting t.mem
    wings := Vector.ofFn fun i => (s.wings[i]).waiting t.wings[i]
    cores := Vector.ofFn fun i => (s.cores[i]).waiting t.cores[i] }

/-- Mark the core where the instruction waits. -/
def markWait {α : Type} (c : CoreId) (f : Core → Core) (m : M α) : M α := fun s =>
  match m s with
  | .error .wait t => .error .wait (t.modCore c f)
  | r => r

/-- Run an operation of an agent that is no core: an exception is no outcome of it. -/
def outcome (m : M Unit) (s : State) : Host.Outcome State Fault Refusal :=
  match m s with
  | .ok _ t => .next t
  | .error .wait t => .next (s.waiting t)
  | .error (.exc _) t => .next (s.waiting t)
  | .error (.stop r) _ => .fault (.undefinedOutcome r)

/-! ## Deferred store errors (R288, R289) -/

def pushDse (c : CoreId) (e : DseEntry) (s : State) : State :=
  s.modCore c fun k =>
    if 8 ≤ k.dse.length then { k with dseOvf := true, dseDropped := satInc k.dseDropped }
    else { k with dse := k.dse ++ [e], dsePend := k.dsePend || k.dse.isEmpty }

/-- DSE_INFO.KIND of the STATUS that a store has met (R552); 15 stands for a closed floodgate. -/
def dseKind (st : BitVec 4) : BitVec 4 :=
  match st.toNat with | 1 => 1 | 2 => 2 | 3 => 3 | 15 => 5 | _ => 4

/-! ## Interrupts of a core (R304 to R306) -/

/-- Merge a pending interrupt into a list: the highest level and priority (R305). -/
def mergeIrq (p : PendIrq) : List PendIrq → List PendIrq
  | [] => [p]
  | q :: qs =>
    if q.cause = p.cause then ⟨q.cause, if q.lvl.ult p.lvl then p.lvl else q.lvl, if q.prio.ult p.prio then p.prio else q.prio⟩ :: qs
    else q :: mergeIrq p qs

/-- Make an interrupt pending on a core. -/
def pendIrq (c : CoreId) (cause : BitVec 8) (lvl : BitVec 2) (prio : BitVec 4) (s : State) : State :=
  s.modCore c fun k => { k with irqs := mergeIrq ⟨cause, lvl, prio⟩ k.irqs }

/-- The pending interrupts of a core, the core timer's cause 0x20 among them (R304, R305). -/
def State.pendingOf (s : State) (c : CoreId) : List PendIrq :=
  let k := s.core c
  if k.timecmp ≤ s.ltime then ⟨0x20, 2, 15⟩ :: k.irqs else k.irqs

/-- An interrupt that R512 lets wake the core, or a pending cause 0x06 or 0x07. -/
def State.wakes (s : State) (c : CoreId) : Bool :=
  let k := s.core c
  (s.pendingOf c).any (fun p => !(p.lvl.ult k.pl)) || k.fpPend.isSome || k.dsePend

/-- Every core identifier. -/
def allCores : List CoreId := List.finRange 32

/-! ## Routing entries (R304, R305) -/

def irteEn (v : Word) : Bool := bit v 0
def irtePend (v : Word) : Bool := bit v 1
def irteCore (v : Word) : CoreId := (fld v 3 5).toFin
def irteLvl (v : Word) : BitVec 2 := fld v 8 2
def irteCause (v : Word) : BitVec 8 := fld v 10 8
def irtePrio (v : Word) : BitVec 4 := fld v 18 4
def irtePolder (v : Word) : BitVec 12 := fld v 22 12
def irteCount (v : Word) : BitVec 30 := fld v 34 30

/-- The software fields of a routing entry. -/
def irteFields (v : Word) : Word := v &&& 0x3FFFFFFF9

def State.irte (s : State) (n : Fin 1024) : Word := mget 0 s.irtes n.val
def State.setIrte (s : State) (n : Fin 1024) (v : Word) : State := { s with irtes := mset 0 s.irtes n.val v }

def irteCounted (v : Word) : Word := setFld v 34 (satInc (irteCount v))

/-- An entry whose fields have no defined delivery: R304, under R18. -/
def irteBad (s : State) (v : Word) : Bool :=
  irteEn v && ((irteCause v).ult 0x28 || irteLvl v = 0 || !s.present (irteCore v))

/-- Deliver a message, or a held one, under the entry's fields (R305): to the core, or held for its polder, or dropped for an
offline core (R448). -/
def irteDeliver (n : Fin 1024) (v : Word) (s : State) : State :=
  let c := irteCore v
  if s.offline c then s.setIrte n (irteCounted (setFld v 1 (0 : BitVec 1)))
  else if irteLvl v = 1 && (s.core c).polder ≠ irtePolder v then s.setIrte n (v ||| 2)
  else (pendIrq c (irteCause v) (irteLvl v) (irtePrio v) s).setIrte n (setFld v 1 (0 : BitVec 1))

/-- A message to a routing entry (R304). -/
def irteMessage (n : Fin 1024) (s : State) : State :=
  let v := s.irte n
  if irteEn v then irteDeliver n v s else s.setIrte n (irteCounted v)

/-- Deliver the held messages whose polder now runs (R305). -/
def releaseHeld (c : CoreId) (s : State) : State :=
  s.irtes.foldl (fun t e =>
    if h : e.1 < 1024 then
      if irtePend e.2 && irteCore e.2 = c && (t.core c).polder = irtePolder e.2 then irteDeliver ⟨e.1, h⟩ e.2 t else t
    else t) s

/-! ## Floodgates (R441 to R445) -/

/-- The floodgate of a port. A die stop closes every one (R454); what a fence has closed stays in the state apart. -/
def State.gate (s : State) (p : Nat) : Gate :=
  let g := mget Gate.closed s.coff.gates p
  { g with open_ := g.open_ && !s.coff.dieStop }
def State.setGate (s : State) (p : Nat) (x : Gate) : State :=
  { s with coff := { s.coff with gates := mset Gate.closed s.coff.gates p x } }

/-- The next incarnation: 255 wraps to 1 (R443). -/
def nextInc (i : BitVec 8) : BitVec 8 := if i = 255 then 1 else i + 1

/-- Floodgate port of a logical core's physical core. -/
def State.corePort (s : State) (c : CoreId) : Nat := (s.phys c).toNat

/-! ## Messages to other nodes (R536, R537) -/

/-- The doorway set of node k (R537). -/
def State.doorSet (s : State) (k : Nat) : List (Fin 8) :=
  (List.finRange 8).filter fun n =>
    let d := s.doors[n.val]
    d.up && !d.idle && d.peer = some (BitVec.ofNat 3 k)

def State.nodeLost (s : State) (k : Nat) : Bool := s.th.lost.getLsbD k

def State.setDoor (s : State) (n : Fin 8) (d : Door) : State := { s with doors := s.doors.set n.val d }
def State.modDoor (s : State) (n : Fin 8) (f : Door → Door) : State := s.setDoor n (f s.doors[n.val])

/-- This die's own node, once it has one (R535). -/
def State.node (s : State) : BitVec 3 := match s.th.node with | some d => BitVec.ofNat 3 d.val | none => 0

/-- The doorway of a message to node k that carries a line address, or none (R537). -/
def State.doorFor (s : State) (k : Nat) (addr : Option Nat) : Option (Fin 8) :=
  let set := s.doorSet k
  match addr, set with
  | some a, [d0, d1] => some (if a / 64 % 2 = 0 then d0 else d1)
  | some a, [d0, d1, d2, d3] =>
    some (match a / 64 % 4 with | 0 => d0 | 1 => d1 | 2 => d2 | _ => d3)
  | _, d :: _ => some d
  | _, [] => none

/-- Put a message on a doorway's sending list. -/
def sendOn (n : Fin 8) (w : Wire) (s : State) : State := s.modDoor n fun d => { d with tx := d.tx ++ [w] }

/-- New messages to node k are held: it has quiesced (R554). -/
def State.quiescedTo (s : State) (k : Nat) : Bool := s.th.quiesced.contains (BitVec.ofNat 3 k)

/-- New messages to node k wait: it has quiesced (R554), or its doorway set has changed and what was sent in the old set is not all
acknowledged (R537). -/
def State.holdsTo (s : State) (k : Nat) : Bool := s.quiescedTo k || s.th.moving.contains (BitVec.ofNat 3 k)

/-- Send a message to node k by R537, or hold it. Without a doorway it is dropped. -/
def sendTo (k : Nat) (addr : Option Nat) (w : Wire) (s : State) : State :=
  let w := { w with m := { w.m with src := s.node, dst := BitVec.ofNat 3 k } }
  if s.holdsTo k then { s with th := { s.th with held := s.th.held ++ [(BitVec.ofNat 3 k, addr, w)] } }
  else match s.doorFor k addr with
    | some n => sendOn n w s
    | none => s

/-- The address that chooses the doorway of a request: none for a device request, an Int and an IncUpd (R537). -/
def routeAddr (op : BitVec 6) (a : Nat) : Option Nat := if op = 0x10 || op = 0x11 || op = 0x18 || op = 0x19 then none else some a

/-- The doorway has messages or flits that the peer has not acknowledged. -/
def Door.owes (d : Door) : Bool := !d.tx.isEmpty || !d.txRest.isEmpty || !d.unacked.isEmpty

/-- Some doorway to node k owes it flits. -/
def State.owesTo (s : State) (k : BitVec 3) : Bool := s.doors.toList.any fun d => d.up && d.peer = some k && d.owes

/-- The set of node k is about to change: new messages wait for the acknowledgement of the old ones (R537). -/
def moveTo (k : BitVec 3) (s : State) : State :=
  if s.owesTo k && !s.th.moving.contains k then { s with th := { s.th with moving := s.th.moving ++ [k] } } else s

/-- Messages held for node k go out, where nothing holds them any longer; each request notes its doorway. -/
def releaseTo (k : BitVec 3) (s : State) : State :=
  if s.holdsTo k.toNat then s
  else
    let mine := s.th.held.filter fun e => e.1 = k
    mine.foldl (fun t e =>
      let w := e.2.2
      let t := sendTo k.toNat e.2.1 w t
      let own (r : Req) : Bool := w.cls = 0 && r.node = k && r.tag = w.m.tag && r.op = w.op && r.via.isNone && r.answer.isNone
      { t with th := { t.th with reqs := t.th.reqs.map fun r => if own r then { r with via := t.doorFor k.toNat e.2.1 } else r } })
      { s with th := { s.th with held := s.th.held.filter fun e => e.1 ≠ k } }

/-- Nodes whose old messages are all acknowledged have moved to their new set (R537). -/
def settleMoves (s : State) : State :=
  s.th.moving.foldl (fun t k => if t.owesTo k then t else releaseTo k { t with th := { t.th with moving := t.th.moving.filter (· ≠ k) } }) s

/-- The first tag from `t` on that no outstanding request or snoop uses. -/
def tagFrom (used : BitVec 12 → Bool) : Nat → BitVec 12 → BitVec 12
  | 0, t => t
  | fuel + 1, t => if used t then tagFrom used fuel (t + 1) else t

/-- A tag for a request or a snoop (R543). -/
def State.freshTag (s : State) : BitVec 12 :=
  tagFrom (fun t => s.th.reqs.any (fun r => r.tag = t && r.answer.isNone) || s.th.txns.any fun x => x.snoops.any fun p => p.2 = t) 4096 s.th.nextTag

/-- A message with every field zero. -/
def ThMsg.zero : ThMsg :=
  ⟨0, 0, 0, 0, 0, 0, 0, false, 0, 0, 0, 0, 0, 0, 0, 0⟩

/-- An answer to a message: SRC and DST swapped, its TAG kept (R543). -/
def respond (m : ThMsg) (cls : BitVec 2) (op : BitVec 6) (r : ThMsg) (s : State) : State :=
  sendTo m.src.toNat none ⟨cls, op, { r with tag := m.tag }⟩ s

/-- Cmp with a STATUS. -/
def respondCmp (m : ThMsg) (status : BitVec 4) (s : State) : State := respond m 1 1 { ThMsg.zero with status := status } s

/-- The link-management flit that this die sends: NODE 0xFF until TH_NODE is valid, ASSIGN 0xFF, CAP[0] of a compute die, 128, 256, 128 and 256
credits (R534 to R536). -/
def State.lmFlit (s : State) (typ : BitVec 8) : LmFlit :=
  ⟨typ, 1, BitVec.ofNat 8 (match s.th.node with | some k => k.val | none => 255), 0xFF, 1, 0x0100008001000080⟩

/-- Send a link-management flit (R531, R554, R555). -/
def sendLm (n : Fin 8) (typ : BitVec 8) (s : State) : State := s.modDoor n fun d => { d with lmSent := s.lmFlit typ :: d.lmSent }

def upDoors (s : State) : List (Fin 8) := (List.finRange 8).filter fun n => (s.doors[n.val]).up

/-! ## Address decode (R576) -/

inductive Place where
  /-- Package memory of a die. -/
  | mem (die : Fin 4)
  | window
  | ctl (die : Fin 4) (off : Nat)
  /-- Doorbell page of a queue pair of a die, and the offset in it. -/
  | bell (die : Fin 4) (q : Nat) (off : Nat)
  | sram (off : Nat)
  | nothing
  deriving DecidableEq, Repr

def place (a : Nat) : Place :=
  if a < 0x10000000000 then .mem ⟨a / 2 ^ 38 % 4, Nat.mod_lt _ (by decide)⟩
  else if 0x1000000000000 ≤ a && a < 0x2000000000000 then .window
  else if 0xFF00000000000 ≤ a && a < 0xFF00004000000 then
    .ctl ⟨(a - 0xFF00000000000) / 2 ^ 24 % 4, Nat.mod_lt _ (by decide)⟩ (a % 2 ^ 24)
  else if 0xFF80000000000 ≤ a && a < 0xFF80400000000 then
    .bell ⟨(a - 0xFF80000000000) / 2 ^ 32 % 4, Nat.mod_lt _ (by decide)⟩ (a % 2 ^ 32 / 4096) (a % 4096)
  else if 0xFFC0000000000 ≤ a && a < 0xFFC0000040000 then .sram (a - 0xFFC0000000000)
  else .nothing

/-- The stack of a package address (R21, R323). -/
def stackOf (a : Nat) : Fin 4 := ⟨a / 2 ^ 36 % 4, Nat.mod_lt _ (by decide)⟩

/-- The pseudo-channel of a package address: the hash of the stack offset's 256-byte block (R323). -/
def pseudoChannel (a : Nat) : BitVec 6 :=
  let w : Word := BitVec.ofNat 64 a
  fld w 8 6 ^^^ fld w 14 6 ^^^ fld w 20 6 ^^^ fld w 26 6 ^^^ (fld w 32 4 : BitVec 4).setWidth 6
/-- Its channel. -/
def channelOf (a : Nat) : BitVec 6 := pseudoChannel a >>> 1

def State.ownDie (s : State) (d : Fin 4) : Bool := s.th.node = some d

/-- The address lies in present memory of this die. -/
def State.ownMem (s : State) (a : Nat) : Bool :=
  match place a with
  | .mem d => s.ownDie d && decide ((stackOf a).val < nStacks s.variant)
  | _ => false

/-- Base of this die's memory; zero while it has no node. -/
def State.memBase (s : State) : Nat := match s.th.node with | some d => d.val * 2 ^ 38 | none => 0

/-- An event of the pumphouse (R475). -/
def setEvent (i : Nat) (s : State) : State := { s with pump := { s.pump with events := s.pump.events ||| ((1 : Byte) <<< i) } }

/-! ## Die stop (R454) -/

/-- Every floodgate closes, FAULT_N goes active, and each up doorway sends STOP first (R454, R555). The heartbeat holds its level (R569). -/
def dieStop (s : State) : State :=
  let s := (upDoors s).foldl (fun t n => sendLm n 3 t) s
  { s with
    coff := { s.coff with dieStop := true }
    side := { s.side with faultLow := true } }

/-! ## Replies and notifications (R485, R486, R499) -/

/-- PO_STAT.RFULL (R486). -/
def State.rfull (s : State) : Bool := decide (256 ≤ (s.porch.rplPi - s.porch.rplCi).toNat)

/-- Doubleword 0 of a reply, PHASE included (R485). -/
def Reply.dw0 (r : Reply) (n : BitVec 32) : Word :=
  put r.tag 0 ||| put r.status 16 ||| put r.detail 24 ||| put r.opcode 40 ||| flag (n.toNat / 256 % 2 = 0) 63

/-- The window that an address meets (R549): its number and the node address, with the window's control word. -/
def State.window (s : State) (a : Nat) : Option (Nat × Word) :=
  (List.range 16).findSome? fun w =>
    match s.th.windows[w]? with
    | none => none
    | some x =>
      let base := (x.base &&& 0xFFFFFFFF00000).toNat
      let size := 2 ^ (fld x.ctl 0 6).toNat
      if bit x.ctl 6 && base ≤ a && a < base + size then some (a - base + x.xlat.toNat, x.ctl) else none

/-- Note and send a request that nothing waits for, with its data (R543, R544). A unit without a floodgate stamps port 0xFF and incarnation 0. -/
def postReqTo (port : Nat) (tr : Bool) (k : Nat) (op : BitVec 6) (a : Nat) (m : ThMsg) (data : Bool) (s : State) : State :=
  let tag := s.freshTag
  let inc := if port = 0xFF then 0 else (s.gate port).inc
  let m := { m with tag := tag, tr := tr, port := BitVec.ofNat 8 port, inc := inc, src := s.node, dst := BitVec.ofNat 3 k }
  let s := { s with th := { s.th with nextTag := tag + 1 } }
  if k = s.node.toNat && s.ownMem m.addr.toNat then { s with th := { s.th with queued := s.th.queued ++ [(0, ⟨0, op, m⟩)] } }
  else if s.holdsTo k || !(s.doorSet k).isEmpty then
    let route := routeAddr op m.addr.toNat
    let via := if s.holdsTo k then none else s.doorFor k route
    let q : Req := ⟨.posted, BitVec.ofNat 3 k, tag, op, a, m, m.port, m.inc, via, none⟩
    let s := sendTo k route ⟨0, op, m⟩ { s with th := { s.th with reqs := s.th.reqs ++ [q] } }
    if data then sendTo k route ⟨3, op, m⟩ s else s
  else s

/-- Write to memory behind node k under a tag: a WrPart of whole bytes that nothing waits for. `na` is the node's address, `a` the die's. -/
def postWrite (port : Nat) (tr : Bool) (polder : BitVec 12) (k : Nat) (na a : Nat) (bs : List Byte) (s : State) : State :=
  let line := BitVec.ofNat 512 (fromLe bs * 256 ^ (na % 64))
  let mask := BitVec.ofNat 64 ((2 ^ bs.length - 1) * 2 ^ (na % 64))
  postReqTo port tr k 6 (a / 64 * 64)
    { ThMsg.zero with addr := BitVec.ofNat 52 (na / 64 * 64), line := line, mask := mask, size := 6, polder := polder } true s

/-- Aligned powers of two that together are n bytes from an address on, at most 8 each: a device write has one of these sizes (R542). -/
def devParts : Nat → Nat → Nat → List (Nat × Nat)
  | 0, _, _ => []
  | fuel + 1, a, n =>
    if n = 0 then []
    else
      let k := if a % 8 = 0 && 8 ≤ n then 8 else if a % 4 = 0 && 4 ≤ n then 4 else if a % 2 = 0 && 2 ≤ n then 2 else 1
      (a, k) :: devParts fuel (a + k) (n - k)

/-- Write to a device behind node k: DevWr of each aligned part (R549). -/
def postDev (port : Nat) (tr : Bool) (polder : BitVec 12) (k : Nat) (na a : Nat) (bs : List Byte) (s : State) : State :=
  (devParts bs.length na bs.length).foldl (fun t p =>
    let v := fromLe ((bs.drop (p.1 - na)).take p.2)
    postReqTo port tr k 0x11 (a + (p.1 - na))
      { ThMsg.zero with addr := BitVec.ofNat 52 p.1, op0 := BitVec.ofNat 64 v, size := BitVec.ofNat 3 (log2 p.2), polder := polder } false t) s

/-- A write that finds no memory: lost, and counted (R501, R577). -/
def missed (s : State) : State := { s with th := { s.th with miss := satInc s.th.miss } }

/-- Write to memory behind a window or of the package, or lose it (R485, R501, R549). Bytes that a window cuts at a line of its node go in two
messages. This die's own home serves a write to its memory as it serves any WrPart (log entry 118). -/
def taggedWrite (port : Nat) (tr : Bool) (polder : BitVec 12) (a : Nat) (bs : List Byte) (s : State) : State :=
  match place a with
  | .mem d =>
    if s.ownDie d then (if s.ownMem a then postWrite port tr polder d.val a a bs s else missed s)
    else if (s.doorSet d.val).isEmpty && !s.holdsTo d.val then missed s
    else postWrite port tr polder d.val a a bs s
  | .window =>
    match s.window a with
    | some (na, ctl) =>
      let k := (fld ctl 9 3).toNat
      let n := Nat.min bs.length (64 - na % 64)
      if fld ctl 7 2 = 2 then missed s
      else if fld ctl 7 2 = 0 then postDev port tr polder k na a bs s
      else
        let s := postWrite port tr polder k na a (bs.take n) s
        if n < bs.length then postWrite port tr polder k (na + n) (a + n) (bs.drop n) s else s
    | none => missed s
  | _ => missed s

/-- The same for the pumphouse, under tag 0 (R544). -/
def windowWrite (a : Nat) (bs : List Byte) (s : State) : State := taggedWrite 0xFF true 0 a bs s

/-- The node and tag of each write under way that nothing waits for: to another node, or in the queue of this die's own home. -/
def State.posted (s : State) : List (BitVec 3 × BitVec 12) :=
  (s.th.reqs.filter fun r => r.unit = .posted && (r.op = 5 || r.op = 6 || r.op = 0x11) && r.answer.isNone).map (fun r => (r.node, r.tag)) ++
    (s.th.queued.filter fun e => s.th.node.isSome && e.2.m.src = s.node).map fun e => (s.node, e.2.m.tag)

/-- Send the interrupts to the host whose writes have all been answered (R485, R551). -/
def sendInts (s : State) : State :=
  let out := s.posted
  let held (e : Wire × List (BitVec 3 × BitVec 12)) : Bool := e.2.any out.contains
  (s.th.ints.filter fun e => !held e).foldl (fun t e => sendTo 4 none e.1 t) { s with th := { s.th with ints := s.th.ints.filter held } }

/-- Interrupt the host, once every write under way has its answer (R485, R551). -/
def hostInt (vector : BitVec 16) (s : State) : State :=
  let w : Wire := ⟨0, 0x18, { ThMsg.zero with op0 := vector.setWidth 64 }⟩
  sendInts { s with th := { s.th with ints := s.th.ints ++ [(w, s.posted)] } }

/-- Write one reply into its slot, the mirror and the host's interrupt (R485). -/
def writeReply (r : Reply) (s : State) : State :=
  let n := s.porch.rplPi
  let i := n.toNat % 256
  let ws : List Word := [r.dw0 n, r.res0, r.res1, r.res2]
  let slots := (List.range 4).foldl (fun t j => mset 0 t (4 * i + j) (ws.getD j 0)) s.porch.replies
  let s := { s with porch := { s.porch with replies := slots } }
  let s :=
    if bit s.porch.mirror 0 then
      let a := (s.porch.mirror &&& 0xFFFFFFFFFE000).toNat + 32 * i
      windowWrite a (ws.flatMap fun w => toLe 8 w.toNat) s
    else s
  let s := { s with porch := { s.porch with rplPi := n + 1 } }
  if bit s.porch.hostIrq 0 then hostInt (fld s.porch.hostIrq 16 16) s else s

/-- A reply that is no command's direct reply: a notification, or a background command's final reply. It waits while the reply
ring is full or others wait (R486, R499); after a die stop none is written (R454). -/
def notify (r : Reply) (s : State) : State :=
  if s.coff.dieStop then s
  else if s.rfull || !s.porch.waiting.isEmpty then { s with porch := { s.porch with waiting := s.porch.waiting ++ [r] } }
  else writeReply r s

/-- The final reply of a background command (R487): it ends, and replies unless QUIET asks for no OK reply. The sluice and the levee tell the
pumphouse of the end of a revocation or a restore with a unit message (R475; log entry 117). -/
def finishBackground (b : Background) (status : BitVec 8) (detail : BitVec 16) (r0 r1 r2 : Word) (s : State) : State :=
  let s := if b.opcode = 0x42 || b.opcode = 0x53 then setEvent 6 s else s
  let s := { s with porch := { s.porch with accepted := s.porch.accepted.filter (· ≠ b) } }
  if b.quiet && status = 0 then s else notify ⟨b.tag, status, detail, b.opcode, r0, r1, r2⟩ s

/-- The background command of an opcode on an object. -/
def State.background (s : State) (opcode : BitVec 8) (obj : Nat) : Option Background :=
  s.porch.accepted.find? fun b => b.opcode = opcode && b.obj = obj

def note (code : BitVec 8) (status : BitVec 8) (detail : BitVec 16) (r0 r1 r2 : Word) : Reply :=
  ⟨0xFFFF, status, detail, code, r0, r1, r2⟩

/-! ## Events (R435) -/

def Event.dw0 (e : Event) : Word :=
  put e.kind 0 ||| put e.port 8 ||| put e.inc 16 ||| put e.polder 24 ||| put e.sev 36 ||| put e.detail 48
def Event.dw3 (e : Event) : Word := put e.seq 0 ||| put e.rep 32

/-- A port's incarnation; a unit without a floodgate stamps 0 (R442, R443). -/
def State.stamp (s : State) (port : Nat) : BitVec 8 := if port = 0xFF then 0 else (s.gate port).inc

/-- Enter a detection that arose under an incarnation in the event queue: a corrected one merges with a queued record of its kind and
line; `line` where the event names a line at all (R435; log entry 140). -/
def enterEvent (line : Bool) (inc : BitVec 8) (kind : BitVec 8) (port : Nat) (polder : BitVec 12) (sev : BitVec 2) (detail : BitVec 16) (addr : Word)
    (s : State) : State :=
  let f := s.coff
  let same (e : Event) : Bool := line && e.kind = kind && e.addr.toNat / 64 = addr.toNat / 64
  let s := { s with coff := { f with nCorr := if sev = 0 then f.nCorr + 1 else f.nCorr, nSev := if sev = 0 then f.nSev else f.nSev + 1 } }
  let f := s.coff
  if sev = 0 && f.events.any same then
    { s with coff := { f with events := f.events.map fun e => if same e then { e with rep := satInc e.rep } else e } }
  else if sev = 0 && 224 ≤ f.events.length then { s with coff := { f with evDrop := satInc f.evDrop } }
  else if 256 ≤ f.events.length then dieStop s
  else
    let e : Event := ⟨kind, BitVec.ofNat 8 port, inc, polder, sev, detail, addr, s.ltime, f.evSeq, 0, false⟩
    { s with coff := { f with events := f.events ++ [e], evSeq := f.evSeq + 1 } }

/-- Enter a corrected error of a register file or an SRAM, which has no line (R434, R435). -/
def recordFile (port : Nat) (polder : BitVec 12) (s : State) : State := enterEvent false (s.stamp port) 0x01 port polder 0 0 0 s

/-- Enter an uncorrectable error of the pumphouse's or the cofferdam's SRAM, which has stopped the die (R434; log entry 149). -/
def recordOwn (detail : BitVec 16) (s : State) : State := enterEvent false 0 0x06 0xFF 0 3 detail 0 s

/-- The cofferdam meets what is wrong with its own SRAM: a word is corrected, or stops the die (R22, R434, R453). -/
def noteCoff (s : State) : State :=
  let t := { s with coff := { s.coff with sramErr := none } }
  match s.coff.sramErr with
  | none => s
  | some .corrected => recordFile 0xFF 0 t
  | some .uncorrectable => recordOwn 0 (dieStop t)

/-- The same, once the cofferdam has met what is wrong with its own SRAM. An event names a line where its kind is of arrays or memory. -/
def recordAt (inc : BitVec 8) (kind : BitVec 8) (port : Nat) (polder : BitVec 12) (sev : BitVec 2) (detail : BitVec 16) (addr : Word)
    (s : State) : State :=
  enterEvent (kind.ult 0x06) inc kind port polder sev detail addr (noteCoff s)

/-- Enter a detection in the event queue (R435). -/
def record (kind : BitVec 8) (port : Nat) (polder : BitVec 12) (sev : BitVec 2) (detail : BitVec 16) (addr : Word) (s : State) : State :=
  recordAt (s.stamp port) kind port polder sev detail addr s

/-- Contain a detection and then enter it, under the incarnation in which it arose: containment never waits for the queue (R435). -/
def contain (f : State → State) (kind : BitVec 8) (port : Nat) (polder : BitVec 12) (sev : BitVec 2) (detail : BitVec 16) (s : State) : State :=
  recordAt (s.stamp port) kind port polder sev detail 0 (f s)

/-- An event of SEV 3: it is entered, and the die stops. -/
def stopWith (kind : BitVec 8) (port : Nat) (detail : BitVec 16) (s : State) : State :=
  dieStop (record kind port 0 3 detail 0 s)

/-! ## The lost-page table (R437 to R439) -/

def lptStat (s : State) : Word :=
  let n := s.coff.lpt.length
  BitVec.ofNat 64 n ||| flag s.coff.lptHigh 16 ||| flag (n = 1024) 17

/-- A valid entry holds the page of this address (R438). -/
def State.lost (s : State) (a : Nat) : Bool :=
  s.coff.lpt.any fun e => match e.2 with | some x => x.page = BitVec.ofNat 40 (a / 4096) | none => false

/-- Cause 0x22 on the cores of a polder, or on CF_DEFCORE (R439), with a change of CF_NOTE. -/
def noteCores (polder : BitVec 12) (f : Word → Word) (s : State) : State :=
  let cs := allCores.filter fun c => s.present c && !s.offline c && (s.core c).polder = polder
  let cs := if cs.isEmpty then [s.coff.defCore.toFin] else cs
  cs.foldl (fun t c => (pendIrq c 0x22 2 15 t).modCore c fun k => { k with note := f k.note }) s

/-- A line has no valid copy left: its page enters the table (R436, R439). A page already in it enters no second entry, and the event is
then that of uncorrectable data alone (R435; log entry 141). -/
def loseLineAt (detail : BitVec 16) (a : Nat) (tag : BitVec 12) (port : Nat) (s : State) : State :=
  let s := record (if s.lost a then 0x03 else 0x05) port tag 1 detail (BitVec.ofNat 64 (a / 64 * 64)) s
  if s.lost a then s
  else if 1024 ≤ s.coff.lpt.length then dieStop s
  else
    let i := ((List.range 1024).find? fun i => (mget none s.coff.lpt i).isNone).getD 0
    let s := { s with coff := { s.coff with lpt := mset none s.coff.lpt i (some ⟨BitVec.ofNat 40 (a / 4096), tag, false⟩) } }
    let page : BitVec 40 := BitVec.ofNat 40 (a / 4096)
    let s := noteCores tag (fun w => setFld (w ||| 1) 12 page) s
    if s.coff.lpt.length = 1008 then
      let s := { s with coff := { s.coff with lptHigh := true } }
      notify (note 0xE4 0 0 (lptStat s) 0 0) s
    else s

/-- The same, by an uncorrectable stack read: the event names the home agent. -/
def loseLine (a : Nat) (tag : BitVec 12) (port : Nat) (s : State) : State := loseLineAt 0 a tag port s

def lateEvent (port : Nat) (s : State) : State :=
  record 0x0A port 0 1 0 0 { s with coff := { s.coff with late := mset none s.coff.late port (some s.ltime) } }

/-- KIND 0x0A, at most once per port in each millisecond (100,000 LTIME ticks), with the requests counted (R445). -/
def lateSpeak (port : Nat) (requests : Nat) (s : State) : State :=
  let g := mget Gate.closed s.coff.gates port
  let s := s.setGate port { g with drop := satAdd g.drop requests }
  match mget none s.coff.late port with
  | some t => if s.ltime - t < 100000 then s else lateEvent port s
  | none => lateEvent port s

end Machine
end Sys2Proof
end

