-- ==== Sys2Proof/Machine/Memory.lean ====
section
/-! DEFINITION. Physical addresses, the value of memory, coherence among the caches of the die and with other dies, and the accesses
of agents that do not cache (R309 to R316, R326, R327, R330, R436 to R438, R543 to R550, R576, R577). -/

namespace Sys2Proof
namespace Machine

/-! ## Keys and values (R330) -/

/-- The key pair of a polder tag, or plaintext. -/
def State.keyOf (s : State) (tag : BitVec 12) : LineKey :=
  let k := mget Key.none s.mem.keys tag.toNat
  if k.enable then some (k.k1, k.k2) else none

def encodeUnder (k : LineKey) (n : Nat) (x : BitVec 512) : BitVec 512 :=
  match k with | some (a, b) => Aes.encryptLine a b n x | none => x
def decodeUnder (k : LineKey) (n : Nat) (x : BitVec 512) : BitVec 512 :=
  match k with | some (a, b) => Aes.decryptLine a b n x | none => x

def lineData (s : State) (n : Nat) : BitVec 512 := BitVec.ofNat 512 (fromLe (rdBytes s.mem.bytes (64 * n) 64))

/-- The key that line n is stored under. -/
def State.storedKey (s : State) (n : Nat) : LineKey := mget none s.mem.lineKey n
/-- A cache of this die holds line n dirty. -/
def State.isDirty (s : State) (n : Nat) : Bool := (mget none s.mem.stale n).isSome

/-- A cache of this die holds line n. -/
def State.cached (s : State) (n : Nat) : Bool :=
  s.cores.toList.any (fun k => (find l2Geo k.l2 n).isSome) || s.wings.toList.any fun x => (find wingGeo x.cache n).isSome

/-- The bytes of line n are seen as they are listed under this tag: its key is the stored one, or a cache holds the line's plaintext (R330). -/
def State.plain (s : State) (tag : BitVec 12) (n : Nat) : Bool := s.keyOf tag = s.storedKey n || s.isDirty n || s.cached n

/-- The value of line n as an access under a tag reads it (R330, R332, R581). -/
def viewLine (s : State) (tag : BitVec 12) (n : Nat) : BitVec 512 :=
  if s.plain tag n then lineData s n
  else decodeUnder (s.keyOf tag) n (encodeUnder (s.storedKey n) n (lineData s n))

/-- The byte at an address as an access under a tag reads it. -/
def viewByte (s : State) (tag : BitVec 12) (a : Nat) : Byte :=
  if s.plain tag (a / 64) then mget 0 s.mem.bytes a else (viewLine s tag (a / 64)).extractLsb' (8 * (a % 64)) 8

def viewBytes (s : State) (tag : BitVec 12) (a n : Nat) : List Byte := (List.range n).map fun i => viewByte s tag (a + i)

def State.setBytes (s : State) (m : List Host.Cell) : State := { s with mem := { s.mem with bytes := m } }

/-- Write bytes into the listed value. -/
def pokeBytes (a : Nat) (bs : List Byte) (s : State) : State := s.setBytes (wrBytes s.mem.bytes a bs)

def lineBytes (x : BitVec 512) : List Byte := toLe 64 x.toNat

/-- Set the listed value of a line. -/
def pokeLine (n : Nat) (x : BitVec 512) (s : State) : State := pokeBytes (64 * n) (lineBytes x) s

/-- Count 64 bytes read from, or written to, a stack (R500). -/
def countRd (n : Nat) (s : State) : State :=
  let k := stackOf (64 * n)
  { s with telem := { s.telem with stackRd := s.telem.stackRd.set k.val (s.telem.stackRd[k.val] + 64) } }
def countWr (n : Nat) (s : State) : State :=
  let k := stackOf (64 * n)
  { s with telem := { s.telem with stackWr := s.telem.stackWr.set k.val (s.telem.stackWr[k.val] + 64) } }

/-- Take the line out of the physical-condition records: its stored bits have been written afresh. -/
def freshCode (n : Nat) (s : State) : State :=
  { s with mem := { s.mem with errs := mset 0 s.mem.errs n 0 } }

/-- The listed value and key of line n as a read under a tag decrypts it: the same stored bits, so that a cache that the line now enters
holds what the controller delivered, whatever becomes of the key (R330). A line of another die comes as its home has decrypted it. -/
def adopt (tag : BitVec 12) (n : Nat) (s : State) : State :=
  if s.plain tag n || !s.ownMem (64 * n) then s
  else
    let s' := pokeLine n (viewLine s tag n) s
    { s' with mem := { s'.mem with lineKey := mset none s'.mem.lineKey n (s.keyOf tag) } }

/-- Before line n is first modified in a cache: keep the copy that the stack holds, and list the value its tag reads (R314). -/
def soil (tag : BitVec 12) (n : Nat) (s : State) : State :=
  if s.isDirty n then s
  else
    let old : Stale := ⟨lineData s n, s.storedKey n⟩
    let s' := if s.plain tag n then s else pokeLine n (viewLine s tag n) s
    { s' with mem := { s'.mem with stale := mset none s'.mem.stale n (some old) } }

/-- Line n reaches the stack with its listed value under a tag's key. -/
def storeLine (tag : BitVec 12) (n : Nat) (s : State) : State :=
  countWr n (freshCode n { s with mem := { s.mem with stale := mset none s.mem.stale n none,
                                                      lineKey := mset none s.mem.lineKey n (s.keyOf tag) } })

/-- A dirty line is discarded: memory's own copy is the value again (R319 OP 1, R522). -/
def discardLine (n : Nat) (s : State) : State :=
  match mget none s.mem.stale n with
  | some old =>
    let s := pokeLine n old.data s
    { s with mem := { s.mem with stale := mset none s.mem.stale n none, lineKey := mset none s.mem.lineKey n old.key } }
  | none => s

/-! ## The caches of the die -/

def State.setWing (s : State) (w : Fin 4) (x : Wing) : State := { s with wings := s.wings.set w.val x }
def State.modWing (s : State) (w : Fin 4) (f : Wing → Wing) : State := s.setWing w (f s.wings[w.val])

def wayOff (x : Wing) (w : Nat) : Bool := x.waydis.getLsbD w

/-- The state in which a core's caches hold a line (its L2 holds every line of its L1, R308). -/
def coreHolds (k : Core) (n : Nat) : Option Moesi := stateOf l2Geo k.l2 n
def wingHolds (x : Wing) (n : Nat) : Option Moesi := stateOf wingGeo x.cache n

/-- Every state in which a cache of this die holds line n. -/
def holdings (s : State) (n : Nat) : List Moesi :=
  (s.cores.toList.filterMap fun k => coreHolds k n) ++ (s.wings.toList.filterMap fun x => wingHolds x n)

/-- The state in which this die's caches together hold line n (R546). -/
def dieHolds (s : State) (n : Nat) : Option Moesi :=
  let hs := holdings s n
  if hs.contains .m then some .m else if hs.contains .o then some .o
  else if hs.contains .e then some .e else if hs.contains .s then some .s else none

/-- The tag under which a cache of this die holds line n. -/
def heldTag (s : State) (n : Nat) : Option (BitVec 12) :=
  (s.cores.toList.findSome? fun k => (find l2Geo k.l2 n).map (·.2.tag)).orElse fun _ =>
    s.wings.toList.findSome? fun x => (find wingGeo x.cache n).map (·.2.tag)

def Core.dropLine (k : Core) (n : Nat) : Core :=
  { k with l1i := drop l1iGeo k.l1i n, l1d := drop l1dGeo k.l1d n, l2 := drop l2Geo k.l2 n }
def Core.setLine (k : Core) (n : Nat) (st : Moesi) : Core :=
  { k with l1i := setState l1iGeo k.l1i n st, l1d := setState l1dGeo k.l1d n st, l2 := setState l2Geo k.l2 n st }
def Wing.dropLine (x : Wing) (n : Nat) : Wing := { x with cache := drop wingGeo x.cache n }
/-- A hit takes line n out of a wing cache: the tree has turned away from its way (R310). -/
def Wing.takeLine (x : Wing) (n : Nat) : Wing := { x with cache := drop wingGeo (touch wingGeo x.cache n) n }
def Wing.setLine (x : Wing) (n : Nat) (st : Moesi) : Wing := { x with cache := setState wingGeo x.cache n st }

/-- Take every copy of line n out of the die's caches. -/
def dropCopies (n : Nat) (s : State) : State :=
  { s with cores := s.cores.map (·.dropLine n), wings := s.wings.map (·.dropLine n) }

/-- The state that a copy keeps after another agent has read the line: M becomes O, E becomes S (R314, R415 step 3). -/
def Moesi.shared : Moesi → Moesi
  | .m => .o
  | .e => .s
  | x => x

/-- Leave every copy of line n shared. -/
def shareCopies (n : Nat) (s : State) : State :=
  { s with
    cores := s.cores.map fun k => match coreHolds k n with | some st => k.setLine n st.shared | none => k
    wings := s.wings.map fun x => match wingHolds x n with | some st => x.setLine n st.shared | none => x }

/-- Leave every copy of line n clean. One that is O stays shared where another copy may exist, here or on another die (R314, R319). -/
def cleanCopies (n : Nat) (s : State) : State :=
  let one : Bool := decide ((holdings s n).length ≤ 1) && s.ownMem (64 * n) && (mget DirEntry.none s.mem.dir n) = DirEntry.none
  let f : Moesi → Moesi := fun st => match st with | .m => .e | .o => if one then .e else .s | x => x
  { s with
    cores := s.cores.map fun k => match coreHolds k n with | some st => k.setLine n (f st) | none => k
    wings := s.wings.map fun x => match wingHolds x n with | some st => x.setLine n (f st) | none => x }

/-! ## Requests to other nodes (R543, R544) -/

/-- Floodgate port of a requester (R441). -/
def State.portOf (s : State) : Requester → Nat
  | .core c => s.corePort c
  | .given c => s.corePort c
  | .step c _ => s.corePort c
  | .pump => 0xFF
  | .posted => 0xFF
  | .sluice _ => 0x40
  | .stash _ _ => 0x40
  | .levee _ => 0x41
  | .scullery w => 0x28 + w.val
  | .wing w => 0x28 + w.val
  | .door n => 0x38 + n.val

/-- Nothing waits for the answer of this unit's request. -/
def Requester.unwaited : Requester → Bool
  | .wing _ => true
  | .posted => true
  | .given _ => true
  | .step _ _ => true
  | _ => false

/-- A request that nothing waits for is answered: an error of a STEP store is its core's deferred store error (R288, R416). -/
def stepEnds (r : Req) (st : BitVec 4) (s : State) : State :=
  match r.unit with
  | .step c e => if st = 0 then s else pushDse c { e with kind := dseKind st } s
  | _ => s

/-- Send a request to node k and note it as outstanding. `a` is the die's own address of it. -/
def sendReq (unit : Requester) (k : Nat) (op : BitVec 6) (a : Nat) (m : ThMsg) (data : Option (BitVec 6)) (s : State) : State :=
  let tag := s.freshTag
  let port := s.portOf unit
  let route := routeAddr op m.addr.toNat
  let via := if s.holdsTo k then none else s.doorFor k route
  let q : Req := ⟨unit, BitVec.ofNat 3 k, tag, op, a, m, BitVec.ofNat 8 port, s.stamp port, via, none⟩
  let m := { m with tag := tag, port := q.port, inc := q.inc }
  let s := { s with th := { s.th with nextTag := tag + 1, reqs := s.th.reqs ++ [q] } }
  let s := sendTo k route ⟨0, op, m⟩ s
  match data with
  | some d => sendTo k route ⟨3, d, m⟩ s
  | none => s

/-- A request to node k that no up doorway reaches. Of package memory of a die it meets STATUS 3, and TH_MISS counts it (R577); of a device, or
through a window, STATUS 5 (R548; log entry 142). -/
def noRoute (k : Nat) (op : BitVec 6) (s : State) : BitVec 4 × State :=
  (if k < 4 && op ≠ 0x10 && op ≠ 0x11 then 3 else 5, if k < 4 then missed s else s)

/-- The answer to a unit's request: sent once, waited for, kept until the operation that asked is complete. STATUS 5 for a lost
node (R555). -/
def ask (unit : Requester) (k : Nat) (op : BitVec 6) (a : Nat) (m : ThMsg) (data : Option (BitVec 6)) : M (BitVec 4 × BitVec 512) :=
  fun s =>
    match s.th.reqs.find? fun r => r.unit = unit && r.op = op && r.addr = a && r.node = BitVec.ofNat 3 k && r.m = m with
    | some r => match r.answer with | some x => .ok x s | none => .error .wait s
    | none =>
      if s.nodeLost k then .ok (5, 0) s
      else if s.quiescedTo k then .error .wait s
      else if (s.doorSet k).isEmpty then let (st, s) := noRoute k op s; .ok (st, 0) s
      else .error .wait (sendReq unit k op a m data s)

/-- Forget the answers that a completed operation has used. -/
def clearAnswers (unit : Requester) (s : State) : State :=
  { s with th := { s.th with reqs := s.th.reqs.filter fun r => !(r.unit = unit && r.answer.isSome) } }

/-- The unit waits for a request that must complete before an interrupt (R295): a device access or an atomic sent to the fabric. One of memory that
a leaf marks DEV, and a store that has left its instruction, are marked in the core (`Core.begun`). -/
def deviceWait (unit : Requester) (s : State) : Bool :=
  s.th.reqs.any fun r => r.unit = unit && (r.op = 0x10 || r.op = 0x11 || r.op = 9)

/-- Who still has a request that its unit has given up: a core's line comes to the core all the same. -/
def Requester.left : Requester → Requester
  | .core c => .given c
  | _ => .posted

/-- A reset core has no STEP store outstanding. -/
def dropSteps (c : CoreId) (s : State) : State :=
  let own (r : Req) : Bool := match r.unit with | .step d _ => d = c | _ => false
  { s with th := { s.th with reqs := s.th.reqs.map fun r => if own r then { r with unit := .posted } else r } }

/-- An abandoned instruction gives up its requests: their answers only complete them (R295). -/
def abandonReqs (unit : Requester) (s : State) : State :=
  { s with th := { s.th with
      reqs := (s.th.reqs.filter fun r => !(r.unit = unit && r.answer.isSome)).map fun r => if r.unit = unit then { r with unit := unit.left } else r } }

/-! ## The home agents of this die (R315, R316, R436, R437) -/

/-- Granule of a package address (R410). -/
def granOf (a : Nat) : Nat := a % 2 ^ 38 / 2 ^ 18
def State.unsaved (s : State) (a : Nat) : Bool := s.levee.unsaved.contains (granOf a)

/-- Hold a write for an unsaved granule (R418), once, and ask for the granule at priority (R419). -/
def holdWrite (hw : HeldWrite) (g : Nat) (s : State) : State :=
  if s.levee.heldWrites.any fun e => e.2 = hw then s
  else
    let l := s.levee
    { s with levee := { l with
        heldWrites := l.heldWrites ++ [(s.ltime, hw)]
        holds := satInc l.holds
        prio := if l.prio.contains g then l.prio else l.prio ++ [g] } }

def dirOf (s : State) (n : Nat) : DirEntry := mget DirEntry.none s.mem.dir n
def setDir (n : Nat) (e : DirEntry) (s : State) : State := { s with mem := { s.mem with dir := mset DirEntry.none s.mem.dir n e } }

/-- Forget a die as a holder. -/
def dirRemove (d : Fin 4) (n : Nat) (s : State) : State :=
  let e := dirOf s n
  setDir n ⟨if e.owner = some d then none else e.owner, e.sharers &&& ~~~((1 : BitVec 4) <<< d.val)⟩ s

/-- The dies that must be snooped: the owner for a read, every holder for a write. -/
def snoopSet (e : DirEntry) (write : Bool) : List (Fin 4) :=
  (List.finRange 4).filter fun d => e.owner = some d || (write && e.sharers.getLsbD d.val)

/-- Begin a transaction on line n for a unit of this die or a node behind a doorway: send a snoop to each holder (R545, R547). Its message keeps the
port and the incarnation of the unit (R442). -/
def startTxn (n : Nat) (unit : Requester) (op : BitVec 6) (move : Bool) (m : ThMsg) (snoop : BitVec 6) (ds : List (Fin 4))
    (s : State) : State :=
  let step (acc : State × List (BitVec 3 × BitVec 12)) (d : Fin 4) : State × List (BitVec 3 × BitVec 12) :=
    let t := acc.1
    let tag := t.freshTag
    let t := { t with th := { t.th with nextTag := tag + 1 } }
    let msg := { ThMsg.zero with tag := tag, addr := BitVec.ofNat 52 (64 * n) }
    (sendTo d.val (some (64 * n)) ⟨2, snoop, msg⟩ t, acc.2 ++ [(BitVec.ofNat 3 d.val, tag)])
  let (s, sn) := ds.foldl step (s, [])
  let port := s.portOf unit
  let m := { m with port := BitVec.ofNat 8 port, inc := s.stamp port }
  { s with th := { s.th with txns := s.th.txns ++ [⟨n, unit, op, m, sn, none, false, move⟩] } }

def setCtrl (k : Fin 4) (x : Ctrl) (s : State) : State := { s with mem := { s.mem with ctrls := s.mem.ctrls.set k.val x } }

/-- The symbols of line n's stored bits that are in error. -/
def State.errsOf (s : State) (n : Nat) : BitVec 35 := mget 0 s.mem.errs n

/-- The symbols set in a mask, lowest first. -/
def symbols (e : BitVec 35) : List Nat := (List.range 35).filter fun i => e.getLsbD i

/-- The outer code's answer to a set of symbols in error: one is corrected, two are detected, three or more are not claimed (R326). -/
inductive OuterCode where
  | clean
  | corrected (symbol : BitVec 6)
  | detected
  | unclaimed
  deriving DecidableEq, Repr

def outerCode (e : BitVec 35) : OuterCode :=
  match symbols e with
  | [] => .clean
  | [g] => .corrected (BitVec.ofNat 6 g)
  | [_, _] => .detected
  | _ => .unclaimed

/-- An uncorrectable read is counted (R327). -/
def countUe (k : Fin 4) (s : State) : State := let x := s.mem.ctrls[k.val]; setCtrl k { x with uecnt := satInc x.uecnt } s

/-- A corrected read: counted, MC_ERRADDR, the line written back, KIND 0x02 (R327, R434). -/
def correctLine (k : Fin 4) (n : Nat) (sym : BitVec 6) (tag : BitVec 12) (s : State) : State :=
  let x := s.mem.ctrls[k.val]
  let a : Word := BitVec.ofNat 64 (64 * n)
  let s := setCtrl k { x with cecnt := satInc x.cecnt, erraddr := a ||| put sym 0 ||| flag true 63 } s
  record 0x02 (0x30 + k.val) tag 0 0 a { s with mem := { s.mem with errs := mset 0 s.mem.errs n 0 } }

/-- A read of the stack's copy of line n: false where it is uncorrectable (R326, R327). Errors in three or more symbols are detected or
not, and what is delivered of them is not stated: free values (log entry 20). -/
def readStack (n : Nat) (tag : BitVec 12) (s : State) : Bool × State :=
  let k := stackOf (64 * n)
  let s := countRd n s
  match outerCode (s.errsOf n) with
  | .clean => (true, s)
  | .corrected sym => (true, correctLine k n sym tag s)
  | .detected => (false, countUe k s)
  | .unclaimed =>
    let (v, s) := s.free
    if bit v 0 then (false, countUe k s)
    else
      let x : BitVec 512 := BitVec.ofNat 512 ((List.range 8).foldr (fun i n => (Config.free (s.fresh + i)).toNat + n * 2 ^ 64) 0)
      (true, pokeLine n x { s with fresh := s.fresh + 8 })

/-- The home agent reads line n's directory entry from its cache of them: an error is corrected, or stands for an uncorrectable read of the
line, and the entry is rebuilt from the stack's metadata (R434). -/
def readDir (n : Nat) (tag : BitVec 12) (s : State) : Bool × State :=
  let k := stackOf (64 * n)
  let s' := { s with mem := { s.mem with dirErrs := mset none s.mem.dirErrs n none } }
  match mget none s.mem.dirErrs n with
  | none => (true, s)
  | some .corrected => (true, record 0x01 (0x30 + k.val) tag 0 0 (BitVec.ofNat 64 (64 * n)) s')
  | some .uncorrectable => (false, countUe k s')

/-! ## Faults of cache arrays (R434, R436, R450) -/

/-- A wing cache's request meets its floodgate: a closed one drops it and counts it (R22, R445). -/
def wingSends (w : Fin 4) (f : State → State) (s : State) : State :=
  if (s.gate (0x28 + w.val)).open_ then f s else lateSpeak (0x28 + w.val) 1 s

/-- The last copy of a line that another node is home of has left this die: its listed value goes too, and a clean line of
another die is reported (R313, R545). -/
def forget (w : Fin 4) (n : Nat) (dirty : Bool) (tag : BitVec 12) (s : State) : State :=
  if s.ownMem (64 * n) || !(holdings s n).isEmpty then s
  else
    let s := match place (64 * n) with
      | .mem d =>
        if dirty || s.nodeLost d.val then s
        else wingSends w (fun s => sendReq (.wing w) d.val 7 (64 * n) { ThMsg.zero with addr := BitVec.ofNat 52 (64 * n), polder := tag, size := 6, tr := false } none s) s
      | _ => s
    pokeLine n 0 s


/-- The way of a cache that holds line n, and its entry. -/
def foundIn (s : State) (n : Nat) : CacheName → Option (Nat × CLine)
  | .l1i c => find l1iGeo (s.core c).l1i n
  | .l1d c => find l1dGeo (s.core c).l1d n
  | .l2 c => find l2Geo (s.core c).l2 n
  | .wing w => find wingGeo (s.wings[w.val]).cache n

/-- Invalidate line n in one cache; an L2 takes the line out of both L1s first (R308). -/
def dropIn (n : Nat) (s : State) : CacheName → State
  | .l1i c => s.modCore c fun k => { k with l1i := drop l1iGeo k.l1i n }
  | .l1d c => s.modCore c fun k => { k with l1d := drop l1dGeo k.l1d n }
  | .l2 c => s.modCore c (·.dropLine n)
  | .wing w => s.modWing w (·.dropLine n)

/-- The port that an array's event names. -/
def State.arrayPort (s : State) : CacheName → Nat
  | .l1i c => s.corePort c
  | .l1d c => s.corePort c
  | .l2 c => s.corePort c
  | .wing w => 0x28 + w.val

/-- 24 hours of LTIME. -/
def dayTicks : Word := 8640000000000

/-- A wing counts an array error of a way: corrected ones once for each line within 24 hours (R450). -/
def countWay (w : Fin 4) (way n : Nat) (f : ArrayFault) (s : State) : State :=
  s.modWing w fun x =>
    match f with
    | .uncorrectable => { x with wayBad := x.wayBad ||| ((1 : BitVec 16) <<< way) }
    | .corrected =>
      { x with wayErrs := (way, n, s.ltime) :: x.wayErrs.filter fun e => (s.ltime - e.2.2).ult dayTicks && !(e.1 = way && e.2.1 = n) }

/-- The cores other than one, and the wings other than one, that hold line n. -/
def otherHolders (x : CacheName) (n : Nat) (s : State) : List CacheName :=
  let own : Option CoreId := match x with | .l1i c => some c | .l1d c => some c | .l2 c => some c | .wing _ => none
  ((List.finRange 32).filter fun c => own ≠ some c && (coreHolds (s.core c) n).isSome).map CacheName.l2 ++
    ((List.finRange 4).filter fun w => x ≠ .wing w && (wingHolds s.wings[w.val] n).isSome).map CacheName.wing

/-- A copy that one cache holds becomes the owner: it supplies the data and writes it back (R314). -/
def promote (n : Nat) (s : State) : CacheName → State
  | .l1i c | .l1d c | .l2 c => s.modCore c (·.setLine n .o)
  | .wing w => s.modWing w (·.setLine n .o)

/-- The copy of line n in a cache is uncorrectable and another cache of this die holds the line: that copy is valid, and stands for it (R436). -/
def replaceCopy (n : Nat) (dirty : Bool) (x y : CacheName) (s : State) : State :=
  let s := match x with | .l1i c => dropIn n s (.l1i c) | .l1d c => dropIn n s (.l2 c) | .l2 c => dropIn n s (.l2 c) | .wing w => dropIn n s (.wing w)
  if dirty then promote n s y else s

/-- An access finds line n in a cache: a word in error is corrected; a clean line that is uncorrectable is invalidated, to be fetched again,
and counts as corrected, and so is a line of an L1 instruction cache, or one of which a valid copy remains; any other dirty one is lost (R434,
R436). DETAIL is the way. -/
def meetArray (x : CacheName) (n : Nat) (s : State) : State :=
  match mget none s.mem.arrays n, foundIn s n x with
  | some (y, f), some (way, e) =>
    if y ≠ x then s
    else
      let s := { s with mem := { s.mem with arrays := mset none s.mem.arrays n none } }
      let s := match x with | .wing w => countWay w way n f s | _ => s
      let port := BitVec.ofNat 8 (s.arrayPort x)
      let fetched : Bool := match x with | .l1i _ => true | _ => false
      let dirty := e.st.dirty && !fetched
      let others := otherHolders x n s
      if f = .uncorrectable && dirty && others.isEmpty then
        { s with mem := { s.mem with badDirty := mset none s.mem.badDirty n (some (port, BitVec.ofNat 16 way)) } }
      else
        let s := if f = .uncorrectable then match dirty, others with | true, y :: _ => replaceCopy n true x y s | _, _ => forget (match x with | .wing w => w | .l1i c => wingOf c | .l1d c => wingOf c | .l2 c => wingOf c) n false e.tag (dropIn n s x) else s
        record 0x01 (s.arrayPort x) e.tag 0 (BitVec.ofNat 16 way) (BitVec.ofNat 64 (64 * n)) s
  | _, _ => s

/-- The die reads the copy of line n that an array fault is in. -/
def meetHeld (n : Nat) (s : State) : State :=
  match mget none s.mem.arrays n with
  | some (x, _) => meetArray x n s
  | none => s

/-- Take line n out of the record of dirty lines that are uncorrectable. -/
def unspoil (n : Nat) (s : State) : State := { s with mem := { s.mem with badDirty := mset none s.mem.badDirty n none } }

/-- The dirty copy of line n is uncorrectable. -/
def State.spoilt (s : State) (n : Nat) : Bool := (mget none s.mem.badDirty n).isSome

/-- The wing through which a held line leaves the die. -/
def wingHolding (s : State) (n : Nat) : Option (Fin 4) :=
  (List.finRange 4).find? fun w => (wingHolds s.wings[w.val] n).isSome || (List.finRange 32).any fun c => wingOf c = w && (coreHolds (s.core c) n).isSome

/-- The only valid copy of a line, dirty in a cache, is uncorrectable: no requester gets it, and it is lost. Its home enters the page in the
lost-page table; a home on another die is told of the drop with an Evict, and the event is this die's (R315, R434, R436; log entry 109). -/
def loseDirty (tag : BitVec 12) (n : Nat) (s : State) : State :=
  let tag := (heldTag s n).getD tag
  let (port, way) := (mget none s.mem.badDirty n).getD (0xFF, 0)
  let s := unspoil n s
  if s.ownMem (64 * n) then loseLineAt way (64 * n) tag port.toNat (discardLine n (dropCopies n s))
  else record 0x03 port.toNat tag 1 way (BitVec.ofNat 64 (64 * n)) (forget ((wingHolding s n).getD 0) n false tag (dropCopies n s))

/-- What an access of an agent to line n of this die's memory meets: 0 served, 1 uncorrectable and now lost, 2 lost page. Snoops
other dies first, holds the write for an unsaved granule, and reads the stack unless the whole line is replaced or a cache has it. `cur`: a read
leaves the owner's state alone, or a request for ownership takes a dirty value with it. -/
def homeReady (unit : Requester) (tag : BitVec 12) (n : Nat) (write whole cur : Bool) : M (BitVec 4) := fun s =>
  let s := if whole then s else meetHeld n s
  if s.lost (64 * n) then .ok 2 s
  else if s.th.txns.any fun t => t.line = n then .error .wait s
  else if s.spoilt n && !whole then .ok 1 (loseDirty tag n s)
  else
    let e := dirOf s n
    let gone := (List.finRange 4).filter fun d => s.nodeLost d.val
    if e.owner.any gone.contains then .ok 1 (loseLine (64 * n) tag 0xFF (setDir n DirEntry.none s))
    else
      let s := gone.foldl (fun t d => dirRemove d n t) s
      let ds := snoopSet (dirOf s n) write
      if !ds.isEmpty then
        .error .wait (startTxn n unit (if !write then 1 else if whole then 5 else 2) (write && cur) { ThMsg.zero with polder := tag } (if write then 1 else if cur then 4 else 2) ds s)
      else
        if write && s.unsaved (64 * n) then .error .wait (holdWrite (.req unit n) (granOf (64 * n)) s)
        else
        let (read, s) := readDir n tag s
        if whole || !(holdings s n).isEmpty then .ok 0 s
        else if !read then .ok 1 (loseLine (64 * n) tag (0x30 + (stackOf (64 * n)).val) s)
        else
          match readStack n tag s with
          | (true, s) => .ok 0 s
          | (false, s) => .ok 1 (loseLine (64 * n) tag (0x30 + (stackOf (64 * n)).val) s)

/-- Write bytes within one line of this die's memory without caching it: every copy goes, and the line is stored under the tag's
key (R316, R436). -/
def homeWrite (tag : BitVec 12) (a : Nat) (bs : List Byte) (s : State) : State :=
  let n := a / 64
  let s := if s.plain tag n || bs.length = 64 then s else pokeLine n (viewLine s tag n) s
  let s := unspoil n s
  storeLine tag n (pokeBytes a bs (dropCopies n s))

/-- Write back a dirty line that leaves the caches of a wing or is cleaned. To this die's memory, to another die (WbLine, R545), or
nowhere when that die is lost (R555), when the line's check fails (R436), when its page is lost: no agent writes that (R438), or when the
wing's floodgate is closed, which drops the write (R22, R443, R454). -/
def writeBack (w : Fin 4) (tag : BitVec 12) (n : Nat) (s : State) : State :=
  if s.spoilt n then loseDirty tag n s
  else if !(s.gate (0x28 + w.val)).open_ then lateSpeak (0x28 + w.val) 1 (discardLine n (dropCopies n s))
  else if s.ownMem (64 * n) then
    if s.lost (64 * n) then discardLine n (dropCopies n s) else storeLine tag n s
  else
    match place (64 * n) with
    | .mem d =>
      if s.nodeLost d.val then record 0x05 0xFF tag 1 0 (BitVec.ofNat 64 (64 * n)) s
      else sendReq (.wing w) d.val 8 (64 * n) { ThMsg.zero with addr := BitVec.ofNat 52 (64 * n), polder := tag, size := 6, tr := false, line := lineData s n } (some 7) s
    | _ => s

/-- A line leaves a wing cache (R310): written back when dirty. Copies that the die keeps of another die's line go with it. -/
def wingEvict (w : Fin 4) (e : CLine) (s : State) : State :=
  if e.st.dirty then
    let own := s.ownMem (64 * e.line)
    let s := if own then cleanCopies e.line s else dropCopies e.line s
    forget w e.line true e.tag (writeBack w e.tag e.line s)
  else forget w e.line false e.tag s

/-- Put a line into a wing cache, evicting a victim. A line that the wing holds keeps the stronger state. -/
def wingFill (w : Fin 4) (e : CLine) (s : State) : State :=
  let s :=
    match (fill wingGeo (wayOff s.wings[w.val]) (s.wings[w.val]).cache e).2 with
    | some v => if v.st.dirty then meetArray (.wing w) v.line s else s
    | none => s
  let x := s.wings[w.val]
  match wingHolds x e.line with
  | some st =>
    let st' := if e.st.dirty || st = .s then e.st else st
    s.setWing w { x with cache := touch wingGeo (setState wingGeo x.cache e.line st') e.line }
  | none =>
    let (c, v) := fill wingGeo (wayOff x) x.cache e
    let s := s.setWing w { x with cache := c }
    match v with
    | some v => wingEvict w v s
    | none => s

/-- Lines of polder p that a wing cache holds. -/
def wingLines (x : Wing) (p : BitVec 12) : Nat := ((linesOf x.cache).filter fun e => e.2.tag = p).length

/-- WING_PQp without OCC. -/
def wingPq (x : Wing) (p : BitVec 12) : BitVec 32 := mget 0x4000 x.pq p.toNat

/-- Victims accepted in the previous 1,024 fabric cycles, 64 LTIME ticks. -/
def recentCount (s : State) (x : Wing) : Nat := (x.recent.filter fun t => s.ltime - t < 64).length

/-- The wing cache declines a clean victim (R312). -/
def declines (s : State) (x : Wing) (e : CLine) : Bool :=
  let pq := wingPq x e.tag
  let th := (fld x.vpol 0 10).toNat
  !e.st.dirty &&
    (bit pq 15 || (bit x.vpol 10 && decide ((fld pq 0 15).toNat ≤ wingLines x e.tag / 16)) || (th ≠ 0 && decide (th < recentCount s x)))

/-- Offer an L2 victim to the wing cache (R312, R313). -/
def offerVictim (w : Fin 4) (e : CLine) (s : State) : State :=
  let x := s.wings[w.val]
  if declines s x e then forget w e.line false e.tag s
  else
    wingFill w e (s.setWing w { x with recent := s.ltime :: x.recent.filter fun t => s.ltime - t < 64 })

/-- The L1 that an access uses: for instructions, or for data. -/
def Core.l1 (k : Core) (i : Bool) : Table CSet := if i then k.l1i else k.l1d
def l1Geo (i : Bool) : Geo := if i then l1iGeo else l1dGeo
def Core.setL1 (k : Core) (i : Bool) (t : Table CSet) : Core := if i then { k with l1i := t } else { k with l1d := t }

/-- Fill a line into a core's L2 and the L1 that missed, if one did; what the L2 evicts leaves both L1s first (R308). -/
def coreFill (c : CoreId) (i : Option Bool) (e : CLine) (s : State) : State :=
  let s :=
    match (fill l2Geo (fun _ => false) (s.core c).l2 e).2 with
    | some v => meetArray (.l2 c) v.line (meetArray (.l1d c) v.line s)
    | none => s
  let k := s.core c
  let (l2, v) := fill l2Geo (fun _ => false) k.l2 e
  let k := match v with | some v => { k with l1i := drop l1iGeo k.l1i v.line, l1d := drop l1dGeo k.l1d v.line } | none => k
  let k := match i with | some i => k.setL1 i (fill (l1Geo i) (fun _ => false) (k.l1 i) e).1 | none => k
  let s := s.setCore c { k with l2 := l2 }
  match v with
  | some v => if s.spoilt v.line then loseDirty v.tag v.line s else offerVictim (wingOf c) v s
  | none => s

/-- An access of a core to a line that its L2 holds: the L1 is filled where it missed, and the trees move. -/
def coreHit (c : CoreId) (i : Bool) (n : Nat) (s : State) : State :=
  s.modCore c fun k =>
    match find (l1Geo i) (k.l1 i) n with
    | some _ => k.setL1 i (touch (l1Geo i) (k.l1 i) n)
    | none =>
      match find l2Geo k.l2 n with
      | some (_, e) => { k.setL1 i (fill (l1Geo i) (fun _ => false) (k.l1 i) e).1 with l2 := touch l2Geo k.l2 n }
      | none => k

/-- The line comes into a core's caches for a read. The wing's own copy moves up with its state and tag (R309, R314; log entry 14);
otherwise other copies become shared, and the tag is the one that the die's caches already hold the line under. -/
def fetchLine (c : CoreId) (i : Option Bool) (tag : BitVec 12) (n : Nat) (alone : Bool) (s : State) : State :=
  let w := wingOf c
  match find wingGeo (s.wings[w.val]).cache n with
  | some (_, e) => coreFill c i e (s.modWing w (·.takeLine n))
  | none =>
    match heldTag s n with
    | some t => coreFill c i ⟨n, .s, t⟩ (shareCopies n s)
    | none => coreFill c i ⟨n, if alone then .e else .s, tag⟩ (adopt tag n s)

/-- The line comes into a core's caches for a write: every other copy goes, and the core holds it in M (R316). Its own L1 instruction
cache gives the line up (log entry 110). -/
def ownLine (c : CoreId) (i : Option Bool) (tag : BitVec 12) (n : Nat) (s : State) : State :=
  let mine := (coreHolds (s.core c) n).isSome
  let tag := (heldTag s n).getD tag
  let s := if s.ownMem (64 * n) then soil tag n s else s
  let s' := { s with
    cores := s.cores.mapIdx fun i k => if i = c.val then { k with l1i := drop l1iGeo k.l1i n } else k.dropLine n
    wings := s.wings.mapIdx fun i x => if !mine && i = (wingOf c).val then x.takeLine n else x.dropLine n }
  if mine then
    let s' := s'.modCore c (·.setLine n .m)
    match i with | some i => coreHit c i n s' | none => s'
  else coreFill c i ⟨n, .m, tag⟩ s'

/-! ## Accesses of a core -/

/-- The arrays that an access of a core to line n reads: its L1; on a miss there its L2; on a miss there its wing cache. -/
def meetArrays (c : CoreId) (i : Bool) (n : Nat) (s : State) : State :=
  let s := meetArray (if i then .l1i c else .l1d c) n s
  if (find (l1Geo i) ((s.core c).l1 i) n).isSome then s
  else
    let s := meetArray (.l2 c) n s
    if (coreHolds (s.core c) n).isSome then s else meetArray (.wing (wingOf c)) n s

/-- The core's floodgate is closed, or the die has stopped. -/
def gateShut (s : State) (c : CoreId) : Bool := !(s.gate (s.corePort c)).open_ || s.coff.dieStop

/-- A line of normal memory that the arrays give a core: 0 ready, or a STATUS of R552; 15 for a closed floodgate. -/
def acquireLine (c : CoreId) (i : Bool) (tag : BitVec 12) (n : Nat) (write : Bool) : M (BitVec 4) := fun s =>
  let a := 64 * n
  let st := coreHolds (s.core c) n
  let own := s.ownMem a
  if own && s.lost a then .ok 2 s
  else if s.spoilt n then .ok 1 (loseDirty tag n s)
  else if !write && st.isSome then .ok 0 (coreHit c i n s)
  else if st = some .m then .ok 0 (coreHit c i n s)
  else if st = some .e && !(own && s.unsaved a) then .ok 0 (ownLine c (some i) tag n s)
  else if gateShut s c then
    let s := lateSpeak (s.corePort c) 1 s
    if write then .ok 15 s else .error .wait s
  else if own then
    match homeReady (.core c) tag n write false false s with
    | .error e s => .error e s
    | .ok r s =>
      if r ≠ 0 then .ok r s
      else if write then .ok 0 (ownLine c (some i) tag n s)
      else .ok 0 (fetchLine c (some i) tag n (dirOf s n = DirEntry.none && !s.unsaved a) s)
  else
    match place a with
    | .mem d =>
      let rq := { ThMsg.zero with addr := BitVec.ofNat 52 a, polder := tag, size := 6, tr := decide (2 ≤ (s.pl c).toNat) }
      let s := meetHeld n s
      let on := dieHolds s n
      if s.spoilt n then .ok 1 (loseDirty tag n s)
      else if !write && on.isSome then .ok 0 (fetchLine c (some i) tag n false s)
      else if write && (on = some .m || on = some .e) then .ok 0 (ownLine c (some i) tag n s)
      else if s.ownDie d then .ok 3 s
      else
        let op : BitVec 6 := if !write then 1 else if on.isSome then 3 else 2
        match ask (.core c) d.val op a rq none s with
        | .ok r s =>
          -- a line that was granted and has been snooped away since is asked for again
          if r.1 ≠ 0 then .ok r.1 s else .error .wait (sendReq (.core c) d.val op a rq none (clearAnswers (.core c) s))
        | .error e s => .error e s
    | _ => .ok 3 s

/-- What a core meets when it brings a line of normal memory in for a fetch, a read or a write. -/
def acquireAs (c : CoreId) (i : Bool) (tag : BitVec 12) (n : Nat) (write : Bool) : M (BitVec 4) := fun s =>
  acquireLine c i tag n write (meetArrays c i n s)

/-- The same, for data. -/
def acquire (c : CoreId) (tag : BitVec 12) (n : Nat) (write : Bool) : M (BitVec 4) := acquireAs c false tag n write

/-- The writer is a core whose floodgate is closed, or the host while the die's logic has no clock (R443, R503). -/
def writerShut (w : Writer) (s : State) : Bool :=
  match w with
  | .core c => gateShut s c
  | .host => !s.clocked
  | .hatch => false

/-- A write to a register, which a core's closed floodgate drops (R443, R445), and which finds no logic that is not clocked (R503). -/
def gated (w : Writer) (f : State → State) (s : State) : State :=
  match w with
  | .core c => if gateShut s c then lateSpeak (s.corePort c) 1 s else f s
  | .host => if s.clocked then f s else s
  | .hatch => f s

/-! ## Accesses of agents that do not cache: the sluice, the levee, the pumphouse, NC and DEV mappings -/

/-- Split an access into pieces that lie within one line. -/
def pieces : Nat → Nat → Nat → List (Nat × Nat)
  | 0, _, _ => []
  | fuel + 1, a, n =>
    if n = 0 then []
    else
      let k := Nat.min n (64 - a % 64)
      (a, k) :: pieces fuel (a + k) (n - k)

def splitLines (a n : Nat) : List (Nat × Nat) := pieces (n / 64 + 2) a n

/-- The value that another die's owner has supplied for an uncached read of a line of this die's memory, until it is used. -/
def supplied (unit : Requester) (n : Nat) (s : State) : Option (BitVec 512) :=
  (s.th.reqs.findSome? fun r => if r.unit = unit && r.op = 4 && r.addr = 64 * n && r.node = s.node then r.answer else none).map (·.2)

/-- A device access has 1, 2, 4 or 8 bytes, naturally aligned (R542, R578). -/
def devSize (a n : Nat) : Bool := (n = 1 || n = 2 || n = 4 || n = 8) && a % n = 0

/-- Read within one line for an agent: STATUS and the bytes. -/
def agentPiece (unit : Requester) (tag : BitVec 12) (tr : Bool) (a n : Nat) : M (BitVec 4 × List Byte) := fun s =>
  let rq := { ThMsg.zero with addr := BitVec.ofNat 52 (a / 64 * 64), polder := tag, size := 6, tr := tr }
  let cut (x : BitVec 512) : List Byte := (List.range n).map fun i => x.extractLsb' (8 * (a % 64 + i)) 8
  match place a with
  | .mem d =>
    if s.ownDie d then
      if (stackOf a).val < nStacks s.variant then
        match supplied unit (a / 64) s with
        | some x => .ok (0, cut x) s
        | none =>
          match homeReady unit tag (a / 64) false false true s with
          | .ok r s => .ok (r, if r = 0 then viewBytes s tag a n else []) s
          | .error e s => .error e s
      else .ok (3, []) (missed s)
    else
    let s := meetHeld (a / 64) s
    if s.spoilt (a / 64) then .ok (1, []) (loseDirty tag (a / 64) s)
    else if (dieHolds s (a / 64)).isSome then .ok (0, viewBytes s tag a n) s
    else
      match ask unit d.val 4 (a / 64 * 64) rq none s with
      | .ok r s => .ok (r.1, cut r.2) s
      | .error e s => .error e s
  | .window =>
    match s.window a with
    | some (na, ctl) =>
      if fld ctl 7 2 = 0 then
        if devSize a n then
          match ask unit (fld ctl 9 3).toNat 0x10 a { rq with addr := BitVec.ofNat 52 na, size := BitVec.ofNat 3 (log2 n) } none s with
          | .ok r s => .ok (r.1, toLe n r.2.toNat) s
          | .error e s => .error e s
        else .ok (4, []) s
      else
      match ask unit (fld ctl 9 3).toNat 4 (a / 64 * 64) { rq with addr := BitVec.ofNat 52 (na / 64 * 64) } none s with
      | .ok r s => .ok (r.1, (List.range n).map fun i => r.2.extractLsb' (8 * (na % 64 + i)) 8) s
      | .error e s => .error e s
    | none => .ok (3, []) (missed s)
  | _ => .ok (3, []) (missed s)

/-- The parts of an access within one line: one through a window is also cut where the node's lines end (R549). -/
def State.parts (s : State) (a n : Nat) : List (Nat × Nat) :=
  (splitLines a n).flatMap fun p =>
    match place p.1 with
    | .window =>
      match s.window p.1 with
      | some (na, _) => let k := Nat.min p.2 (64 - na % 64); if k < p.2 then [(p.1, k), (p.1 + k, p.2 - k)] else [p]
      | none => [p]
    | _ => [p]

/-- Read bytes for an agent: the first STATUS other than 0 ends it. -/
def agentRead (unit : Requester) (tag : BitVec 12) (tr : Bool) (a n : Nat) : M (BitVec 4 × List Byte) := do
  (← get).parts a n |>.foldlM (fun acc p => do
    if acc.1 ≠ 0 then pure acc
    else
      let r ← agentPiece unit tag tr p.1 p.2
      pure (r.1, acc.2 ++ r.2)) (0, [])

/-- Write within one line for an agent. -/
def agentPut (unit : Requester) (tag : BitVec 12) (tr : Bool) (a : Nat) (bs : List Byte) : M (BitVec 4) := fun s =>
  let data (x : Nat) : BitVec 512 := BitVec.ofNat 512 (fromLe bs * 256 ^ (x % 64))
  let mask (x : Nat) : BitVec 64 := BitVec.ofNat 64 ((2 ^ bs.length - 1) * 2 ^ (x % 64))
  let rq (x : Nat) := { ThMsg.zero with addr := BitVec.ofNat 52 (x / 64 * 64), polder := tag, size := 6, tr := tr, line := data x, mask := mask x }
  let whole := bs.length = 64
  let go (k x : Nat) (s : State) : EStateM.Result Exit State (BitVec 4) :=
    match ask unit k (if whole then 5 else 6) (a / 64 * 64) (rq x) (some (if whole then 5 else 6)) s with
    | .ok r s => .ok r.1 s
    | .error e s => .error e s
  match place a with
  | .mem d =>
    if s.ownDie d then
      if (stackOf a).val < nStacks s.variant then
        match homeReady unit tag (a / 64) true whole false s with
        | .ok r s => if r = 0 then .ok 0 (homeWrite tag a bs s) else .ok r s
        | .error e s => .error e s
      else .ok 3 (missed s)
    else go d.val a s
  | .window =>
    match s.window a with
    | some (na, ctl) =>
      if fld ctl 7 2 = 2 then .ok 3 (missed s)
      else if fld ctl 7 2 = 0 then
        if devSize a bs.length then
          match ask unit (fld ctl 9 3).toNat 0x11 a
            { rq na with addr := BitVec.ofNat 52 na, size := BitVec.ofNat 3 (log2 bs.length), op0 := BitVec.ofNat 64 (fromLe bs) } none s with
          | .ok r s => .ok r.1 s
          | .error e s => .error e s
        else .ok 4 s
      else go (fld ctl 9 3).toNat na s
    | none => .ok 3 (missed s)
  | _ => .ok 3 (missed s)

/-- Write bytes for an agent, line by line in address order; the first STATUS other than 0 ends it. -/
def agentWrite (unit : Requester) (tag : BitVec 12) (tr : Bool) (a : Nat) (bs : List Byte) : M (BitVec 4) := do
  (← get).parts a bs.length |>.foldlM (fun acc p => do
    if acc ≠ 0 then pure acc
    else agentPut unit tag tr p.1 ((bs.drop (p.1 - a)).take p.2)) 0

end Machine
end Sys2Proof
end

