-- ==== Sys2Proof/Machine/CtlRead.lean ====
section
/-! DEFINITION. What a load of control space or of a doorbell page returns: the register map of spec/22 with the field maps of the
chapters it names (R351, R352, R578, R579, R582). A load has no side effect. -/

namespace Sys2Proof
namespace Machine

/-! ## Levee: the shard descriptor (R408, R410) -/

def Shard.polder (x : Shard) : BitVec 12 := fld x.desc[0] 32 12
def Shard.remote (x : Shard) : Bool := bit x.desc[0] 45
def Shard.first (x : Shard) : Nat := (fld x.desc[0] 48 8).toNat
def Shard.nreg (x : Shard) : Nat := (fld x.desc[0] 56 8).toNat + 1
def Shard.cores (x : Shard) : BitVec 32 := fld x.desc[1] 0 32
def Shard.irte (x : Shard) : Fin 1024 := (fld x.desc[1] 32 10).toFin
def Shard.slot (x : Shard) (b : Bool) : Nat := if b then (x.desc[3]).toNat else (x.desc[2]).toNat
def Shard.qpn (x : Shard) : Nat := (fld x.desc[4] 0 20).toNat
def Shard.rkey (x : Shard) : BitVec 32 := fld x.desc[4] 32 32
def Shard.stgBase (x : Shard) : Nat := (fld x.desc[5] 12 40).toNat * 4096
def Shard.stgLen (x : Shard) : Nat := (fld x.desc[6] 0 16).toNat * 2 ^ 20

/-- A region-table entry: base address and granules. -/
def leveeRegion (s : State) (r : Nat) : Nat × Nat :=
  let e := mget (0, 0) s.levee.regions r
  ((fld e.1 18 34).toNat * 2 ^ 18, (fld e.2 0 21).toNat)

/-- The base addresses of a shard's granules in copy order (R420). -/
def shardGranules (s : State) (x : Shard) : List Nat :=
  (List.range x.nreg).flatMap fun i =>
    let (b, n) := leveeRegion s (x.first + i)
    (List.range n).map fun g => b + g * 2 ^ 18

def granulesLeft (s : State) (x : Shard) : Nat := ((shardGranules s x).filter fun a => s.unsaved a).length

def ShardState.code : ShardState → BitVec 3
  | .disabled => 0 | .idle => 1 | .arming => 2 | .copying => 3 | .committing => 4 | .restoring => 5

/-! ## Sluice -/

def State.qp (s : State) (q : Nat) : Option QueuePair := mget none s.sluice.qps q
def State.setQp (s : State) (q : Nat) (x : QueuePair) : State :=
  { s with sluice := { s.sluice with qps := mset none s.sluice.qps q (some x) } }

def qpstat (x : QueuePair) : Word := put x.state 0 ||| put x.err 8 ||| put x.cqPi 32

/-- 4 KiB units that a parked packet takes (R406, its worked example; log entry 15). -/
def parkUnits (f : Frame) : Nat := Nat.max 1 ((f.payload.length + 4095) / 4096)

def QueuePair.units (x : QueuePair) : Nat := x.parked.foldl (fun n e => n + parkUnits e.2) 0

def anteUse (s : State) : Nat := s.sluice.qps.foldl (fun n e => match e.2 with | some x => n + x.units | none => n) 0
def antePolder (s : State) (p : BitVec 12) : Nat :=
  s.sluice.qps.foldl (fun n e => match e.2 with | some x => if x.polder = p then n + x.units else n | none => n) 0

def qpCount (s : State) (p : QueuePair → Bool) : Nat :=
  (s.sluice.qps.filter fun e => match e.2 with | some x => p x | none => false).length

/-! ## Register groups -/

/-- The least step whose voltage, 0.85 - 0.01k V, is not above the VDD_CORE supplied (R504). -/
def leastStep (mv : BitVec 16) : BitVec 4 := BitVec.ofNat 4 (Nat.min 15 ((850 - mv.toNat + 9) / 10))

/-- The step in force: the largest of the demands (R506), and one that the supply allows (R504). -/
def stepInForce (s : State) : BitVec 4 :=
  let a : BitVec 4 := if s.power.alert then 8 else 0
  let m := if s.power.pwStep.ult s.power.thStep then s.power.thStep else s.power.pwStep
  let m := if m.ult a then a else m
  let v := leastStep s.power.coreMv
  if m.ult v then v else m

/-- Die-quiet is allowed (R518): PW_QUIET is 300 µs or more. -/
def quietAllowed (s : State) : Bool := 300 ≤ s.power.quiet.toNat

def pwStat (s : State) : Word :=
  put (stepInForce s) 0 ||| put s.power.pwStep 4 ||| put s.power.thStep 8 ||| flag s.power.alert 12 ||| flag s.power.critical 13 |||
    flag (quietAllowed s) 14 ||| flag s.power.inQuiet 15

/-- PW_DOOR: the door states of the logical cores. -/
def pwDoor (s : State) : Word := allCores.foldl (fun w c => w ||| put (s.core c).doorState (2 * c.val)) 0

def poStat (s : State) : Word :=
  flag s.porch.ready 0 ||| flag s.porch.fwOnly 1 ||| flag s.rfull 2 ||| flag s.porch.down 3 ||| BitVec.ofNat 64 (256 * s.porch.accepted.length)

def cfStat (s : State) : Word :=
  flag s.coff.dieStop 0 ||| flag s.coff.recovering 1 ||| BitVec.ofNat 64 (1024 * s.coff.events.length)

def cfSpare (s : State) : Word := put s.coff.spareFree 0 ||| put s.coff.nFenced 8

def phStat (s : State) : Word :=
  flag s.pump.run 0 ||| flag s.pump.halt 1 ||| flag s.pump.lock 2 ||| flag s.pump.bootrom 3 ||| put s.pump.hcause 8 ||| put s.pump.haltPc 16

def slotBusy (x : Slot) : Bool := bit x.stat 0

def porchRead (s : State) (o : Nat) : Word :=
  let p := s.porch
  match o with
  | 0x0000 => poStat s
  | 0x0008 => put p.cmdPi 0
  | 0x0010 => put p.cmdCi 0
  | 0x0018 => put p.rplPi 0
  | 0x0020 => put p.rplCi 0
  | 0x0028 => p.mirror
  | 0x0030 => p.hostIrq
  | _ =>
    if 0x8000 ≤ o && o < 0xC000 then mget 0 p.slots ((o - 0x8000) / 8)
    else if 0xC000 ≤ o && o < 0xE000 then mget 0 p.replies ((o - 0xC000) / 8)
    else 0

def pumpRead (s : State) (o : Nat) : Word :=
  let p := s.pump
  match o with
  | 0x0000 => phStat s
  | 0x0008 => p.fwid
  | 0x0010 => p.mbox
  | 0x0018 => p.mboxr
  | 0x0020 => put p.ecc 0
  | 0x0028 => put p.hatchErr 0 ||| put p.codeErr 16
  | 0x0040 => p.mvAddr
  | 0x0048 => p.mvSram
  | 0x0050 => p.mvCtl
  | _ => if 0x4000 ≤ o && o < 0x8000 then BitVec.ofNat 64 (fromLe (rdBytes p.data (o - 0x4000) 8)) else 0

/-- IPENDk of a core (R304). -/
def ipend (s : State) (c : CoreId) (k : Nat) : Word :=
  (s.pendingOf c).foldl (fun w p => if p.cause.toNat / 64 = k then w ||| ((1 : Word) <<< (p.cause.toNat % 64)) else w) 0

def routerRead (s : State) (o : Nat) : Word :=
  if h : o / 8 < 1024 then s.irte ⟨o / 8, h⟩
  else if 0x8000 ≤ o && o < 0x8800 then
    let c : CoreId := ⟨(o - 0x8000) / 0x40 % 32, Nat.mod_lt _ (by decide)⟩
    if !s.present c then 0
    else
      match o % 0x40 with
      | 0x00 => ipend s c 0
      | 0x08 => ipend s c 1
      | 0x10 => ipend s c 2
      | 0x18 => ipend s c 3
      | 0x20 => (s.core c).timecmp
      | _ => 0
  else 0

/-- WING_PQp with OCC (R312). -/
def pqFull (x : Wing) (p : Nat) : Word :=
  let pq := mget 0x4000 x.pq p
  put pq 0 ||| BitVec.ofNat 64 (wingLines x (BitVec.ofNat 12 p) / 16 % 2 ^ 15 * 2 ^ 16)

def wingRead (s : State) (w : Fin 4) (o : Nat) : Word :=
  let x := s.wings[w.val]
  if nWings s.variant ≤ w.val then 0
  else
    match o with
    | 0x0000 => x.vpol
    | 0x0008 => put x.waydis 0
    | 0x0010 =>
      let ls := linesOf x.cache
      BitVec.ofNat 64 ls.length ||| BitVec.ofNat 64 ((ls.filter fun e => e.2.st.dirty).length * 2 ^ 32)
    | 0x0100 => (List.finRange 4).foldl (fun v n => v ||| flag (slotBusy x.slots[n.val]) n.val) 0
    | _ =>
      if 0x10000 ≤ o && o < 0x14000 then
        let p := (o - 0x10000) / 4
        pqFull x p ||| (pqFull x (p + 1) <<< 32)
      else if 0x1000 ≤ o && o < 0x5000 then
        let n : Fin 4 := ⟨(o / 0x1000 - 1) % 4, Nat.mod_lt _ (by decide)⟩
        let t := x.slots[n.val]
        match o % 0x1000 with
        | 0x00 => t.base
        | 0x08 => t.len
        | 0x10 => t.op
        | 0x18 => t.stat
        | _ => 0
      else 0

/-- CC_STAT. Until the root PLL has locked it holds its reset value (R503; log entry 148). -/
def ccStat (s : State) (c : CoreId) : Word :=
  let k := s.core c
  if !s.power.rootLock then 0
  else put k.doorState 0 ||| flag (k.paused || k.armPaused) 2 ||| flag k.held 3 ||| flag k.vuOn 4 ||| flag k.mxGated 5 ||| flag k.vuGated 6 ||| flag k.asleep 7 |||
    put (s.phys c) 8

def coreBlockRead (s : State) (c : CoreId) (o : Nat) : Word :=
  if !s.present c || s.offline c then 0
  else
    match o with
    | 0x0000 => ccStat s c
    | 0x0008 => (s.core c).rvec
    | 0x0010 => (s.core c).spill
    | 0x0200 => (s.core c).srwin
    | _ => 0

def sluiceRead (s : State) (o : Nat) : Word :=
  let x := s.sluice
  match o with
  | 0x0000 => flag x.enabled 0 ||| flag x.hostStore 1 ||| put x.endpoint 16
  | 0x0008 => x.bsbase
  | 0x0010 => put x.dbdrop 0
  | 0x0018 => BitVec.ofNat 64 (qpCount s (·.onDie)) ||| BitVec.ofNat 64 (qpCount s (·.pin) * 2 ^ 16)
  | 0x0020 => BitVec.ofNat 64 (x.regions.filter fun e => e.2.onDie).length
  | 0x0028 => BitVec.ofNat 64 (qpCount s fun q => q.held.isSome)
  | 0x0030 => put x.ctxmiss 0
  | 0x0038 => put x.udpport 0
  | 0x0040 => put x.revdrop 0
  | 0x0048 => put x.rxdrop 0
  | 0x0050 => BitVec.ofNat 64 (anteUse s) ||| put x.rnrAnte 16
  | 0x0058 => put x.retx 0
  | 0x0060 => put x.cemark 0
  | _ => 0

/-- A shard's step page as a load with this tag sees it (R433). -/
def stepRead (s : State) (sh : Fin 16) (o : Nat) (tag : BitVec 12) (trusted : Bool) : Word :=
  let x := s.levee.shards[sh.val]
  if !trusted && tag ≠ x.polder then 0
  else match o with | 0 => x.step | 8 => x.cstep | _ => 0

def leveeRead (s : State) (o : Nat) (tag : BitVec 12) (trusted : Bool) : Word :=
  let l := s.levee
  match o with
  | 0x0000 =>
    (List.finRange 16).foldl (fun w i =>
      match l.shards[i.val].state with | .disabled => w | .idle => w | _ => w ||| flag true i.val) 0 |||
      BitVec.ofNat 64 (l.prio.length * 2 ^ 16)
  | 0x0008 => put l.holds 0
  | 0x0010 => put l.holdmax 0
  | 0x0018 => put l.tagdrop 0
  | _ =>
    if 0x0400 ≤ o && o < 0x0C00 then
      let sh : Fin 16 := ⟨o / 0x40 % 16, Nat.mod_lt _ (by decide)⟩
      let x := l.shards[sh.val]
      if o < 0x0800 then
        match o % 0x40 with
        | 0x00 => put x.state.code 0 ||| flag x.next 3 ||| put x.last 8 ||| BitVec.ofNat 64 (granulesLeft s x * 2 ^ 32)
        | 0x08 => put x.tmr 0
        | 0x10 => put x.steps 0
        | 0x18 => x.seq
        | 0x20 => x.lstep
        | 0x28 => put x.skip 0
        | _ => 0
      else x.desc[o % 0x40 / 8]'(by omega)
    else if 0x2000 ≤ o && o < 0x3000 then
      let e := mget (0, 0) l.regions ((o - 0x2000) / 16)
      if o % 16 = 0 then e.1 else e.2
    else if 0x10000 ≤ o && o < 0x20000 then
      stepRead s ⟨(o - 0x10000) / 0x1000 % 16, Nat.mod_lt _ (by decide)⟩ (o % 0x1000) tag trusted
    else 0

def lptEntry (s : State) (i : Nat) : Word :=
  match mget none s.coff.lpt i with
  | some x => flag true 0 ||| flag x.rel 1 ||| put x.page 12 ||| put x.polder 52
  | none => 0

def gateRead (s : State) (p : Nat) : Word :=
  let g := s.gate p
  put g.inc 0 ||| flag g.open_ 8 ||| put g.drop 32

def eventAt (s : State) (q : Nat) : Option Event := s.coff.events[(q + 256 - s.coff.evHead.toNat) % 256]?

/-- The head of the queue leaves it; its place keeps the words. -/
def popEvent (s : State) : State :=
  match s.coff.events with
  | [] => s
  | e :: rest =>
    let q := 4 * s.coff.evHead.toNat
    let r := mset 0 (mset 0 (mset 0 (mset 0 s.coff.records q e.dw0) (q + 1) e.addr) (q + 2) e.ltime) (q + 3) e.dw3
    { s with coff := { s.coff with events := rest, evHead := s.coff.evHead + 1, records := r } }

def cofferdamRead (s : State) (o : Nat) : Word :=
  let f := s.coff
  match o with
  | 0x0000 => cfStat s
  | 0x0008 => put f.evDrop 0
  | 0x0010 => put f.defCore 0
  | 0x0018 => lptStat s
  | 0x0020 => cfSpare s
  | 0x0028 => put f.evHead 0
  | _ =>
    if 0x0100 ≤ o && o < 0x0200 then
      let c : CoreId := ⟨(o - 0x100) / 8 % 32, Nat.mod_lt _ (by decide)⟩
      if s.present c then put (s.phys c) 0 ||| flag (s.offline c) 6 else 0
    else if 0x0400 ≤ o && o < 0x0500 then (s.core ⟨(o - 0x400) / 8 % 32, Nat.mod_lt _ (by decide)⟩).note
    else if 0x1000 ≤ o && o < 0x3000 then lptEntry s ((o - 0x1000) / 8)
    else if 0x4000 ≤ o && o < 0x4218 then gateRead s ((o - 0x4000) / 8)
    else if 0x6000 ≤ o && o < 0x8000 then
      match eventAt s ((o - 0x6000) / 0x20) with
      | some e => match o % 0x20 with | 0 => e.dw0 | 8 => e.addr | 16 => e.ltime | _ => e.dw3
      | none => mget 0 f.records ((o - 0x6000) / 8)
    else 0

def sbStat (s : State) : Word :=
  let used (i : Fin 3) (m : Bool) : Bool := let p := s.side.pins[i.val]; if p.masked then m else p.filt
  flag (used 0 true) 0 ||| flag (used 1 false && !(s.side.pins[1]).stuck) 1 ||| flag (s.side.pins[0]).masked 2 |||
    flag ((s.side.pins[1]).masked || (s.side.pins[1]).stuck) 3 ||| flag s.side.faultLow 4 ||| flag s.side.beatLow 5

def powerRead (s : State) (o : Nat) : Word :=
  let p := s.power
  match o with
  | 0x0000 => flag p.rootLock 0 ||| put p.stackLock 1 ||| put p.doorLock 5
  | 0x0008 => pwStat s
  | 0x0010 => put p.limit 0
  | 0x0018 => put p.power 0
  | 0x0020 => pwDoor s
  | 0x0028 => put p.quiet 0
  | 0x0030 => put p.tThrottle 0 ||| put p.tCritical 8
  | 0x0040 => put p.rstCause 0
  | 0x0200 => sbStat s
  | 0x0208 => put s.side.log 0
  | 0x0210 => put s.side.storms[0] 0 ||| put s.side.storms[1] 16 ||| put s.side.storms[2] 32
  | 0x0218 => put s.side.shorts 0
  | _ => if 0x0100 ≤ o && o < 0x0200 then put (s.core ⟨(o - 0x100) / 8 % 32, Nat.mod_lt _ (by decide)⟩).tol 0 else 0

def telemRead (s : State) (o : Nat) : Word :=
  let t := s.telem
  match o with
  | 0x0000 => flag t.running 0 ||| flag t.stopped 1
  | 0x0008 => t.base
  | 0x0010 => put t.log2 0 ||| put t.interval 32
  | 0x0018 => put t.seq 0
  | _ => if h : 0x0100 ≤ o ∧ o < 0x0400 then put (s.power.sensors[(o - 0x100) / 8]'(by omega)) 0 else 0

def ctrlRead (s : State) (k : Fin 4) (o : Nat) : Word :=
  let x := s.mem.ctrls[k.val]
  if nStacks s.variant ≤ k.val then 0
  else
    match o with
    | 0x0000 => flag x.present 0 ||| flag x.trained 1 ||| flag x.selfRef 2
    | 0x0008 => put x.cecnt 0
    | 0x0010 => put x.uecnt 0
    | 0x0018 => put x.iecc 0
    | 0x0020 => x.erraddr
    | 0x0030 => x.scrub
    | 0x0040 => x.ppr
    | _ => 0

def doorwayRead (s : State) (n : Fin 8) (o : Nat) : Word :=
  let d := s.doors[n.val]
  match o with
  | 0x0000 =>
    flag d.up 0 ||| flag d.training 1 ||| flag d.l1 2 ||| flag d.lost 3 ||| put d.rate 4 ||| flag d.x32 6 ||| flag d.repaired 7 |||
      put (d.peer.getD 0) 8 ||| flag d.coherent 11 ||| flag d.idle 12
  | 0x0008 => d.ctl
  | 0x0010 => put d.crcerr 0
  | 0x0018 => put d.replay 0
  | 0x0020 => put d.retrains 0
  | 0x0028 => d.txflit
  | 0x0030 => d.rxflit
  | 0x0038 => put d.credits[0] 0 ||| put d.credits[1] 16 ||| put d.credits[2] 32 ||| put d.credits[3] 48
  | 0x0040 => put d.fgdrop 0
  | _ => 0

def thRoute (s : State) : Word :=
  (List.range 8).foldl (fun w k => (s.doorSet k).foldl (fun w n => w ||| flag true (8 * k + n.val)) w) 0

def threshRead (s : State) (o : Nat) : Word :=
  let t := s.th
  match o with
  | 0x0000 => match t.node with | some d => put (BitVec.ofNat 3 d.val) 0 ||| flag true 3 | none => 0
  | 0x0008 => thRoute s
  | 0x0010 => put t.lost 0
  | 0x0018 => flag t.lock 0
  | 0x0020 => put t.miss 0
  | _ =>
    if h : 0x0100 ≤ o ∧ o < 0x0300 then
      let w := t.windows[(o - 0x100) / 0x20]'(by omega)
      match o % 0x20 with
      | 0x00 => w.base
      | 0x08 => w.ctl
      | 0x10 => w.xlat
      | _ => 0
    else 0

def idRead (s : State) (o : Nat) : Word :=
  match o with
  | 0x0000 => featVariant s
  | 0x0008 => feat0 s.variant
  | 0x0010 => feat1 s.variant
  | 0x0018 => Config.dieId
  | _ => 0

/-- The doubleword at an 8-byte aligned offset of this die's control space, as a load with this tag sees it. -/
def ctlRead (s : State) (off : Nat) (tag : BitVec 12) (trusted : Bool) : Word :=
  if off < 0x010000 then idRead s off
  else if off < 0x020000 then porchRead s (off - 0x010000)
  else if off < 0x040000 then pumpRead s (off - 0x020000)
  else if off < 0x080000 then routerRead s (off - 0x040000)
  else if off < 0x100000 then
    wingRead s ⟨(off - 0x080000) / 0x20000 % 4, Nat.mod_lt _ (by decide)⟩ (off % 0x20000)
  else if off < 0x300000 then
    coreBlockRead s ⟨(off - 0x100000) / 0x10000 % 32, Nat.mod_lt _ (by decide)⟩ (off % 0x10000)
  else if off < 0x400000 then sluiceRead s (off - 0x300000)
  else if off < 0x440000 then leveeRead s (off - 0x400000) tag trusted
  else if off < 0x480000 then cofferdamRead s (off - 0x440000)
  else if off < 0x4C0000 then powerRead s (off - 0x480000)
  else if off < 0x500000 then telemRead s (off - 0x4C0000)
  else if off < 0x600000 then ctrlRead s ⟨(off - 0x500000) / 0x40000 % 4, Nat.mod_lt _ (by decide)⟩ (off % 0x40000)
  else if off < 0x680000 then doorwayRead s ⟨(off - 0x600000) / 0x10000 % 8, Nat.mod_lt _ (by decide)⟩ (off % 0x10000)
  else if off < 0x690000 then threshRead s (off - 0x680000)
  else 0

/-- Offsets that a register of ch22 holds are told from unassigned ones (R17, R548 through ctlAssigned). -/
def bellRead (s : State) (q off n : Nat) (tag : BitVec 12) (trusted : Bool) : Word :=
  match s.qp q with
  | none => 0
  | some x =>
    if n ≠ 8 || (!trusted && tag ≠ x.polder) then 0
    else
      match off with
      | 0x040 => put x.sqCi 0
      | 0x048 => put x.rqCi 0
      | 0x050 => put x.scnt 0
      | 0x058 => put x.rcnt 0
      | 0x060 => qpstat x
      | _ => 0

/-- The bytes that a naturally aligned load of n bytes returns (R578); step pages accept 8-byte loads only (R433). -/
def ctlLoad (s : State) (off n : Nat) (tag : BitVec 12) (trusted : Bool) : Nat :=
  if 0x410000 ≤ off && off < 0x420000 && n ≠ 8 then 0
  else (ctlRead s (off / 8 * 8) tag trusted).toNat / 256 ^ (off % 8) % 256 ^ n

end Machine
end Sys2Proof
end

