-- ==== Sys2Proof/Machine/Idle.lean ====
section
/-! DEFINITION. Door states of a core and the spill of a Sealed core (R493, R511 to R517). -/

namespace Sys2Proof
namespace Machine

/-- The deepest door state that a tolerance in ns allows: 0 Open, 1 Ajar, 2 Shut, 3 Sealed (R493, R513). -/
def tolDoor (tol : BitVec 32) : BitVec 2 :=
  let n := tol.toNat
  if n < 60 then 0 else if n < 4000 then 1 else if n < 60000 then 2 else 3

/-- The core is idle: in `sleep`, or held paused (R513). -/
def Core.idle (k : Core) : Bool := k.asleep || k.paused || k.armPaused

/-- A line of free values (log entry 3). -/
def State.freeLine (s : State) : BitVec 512 × State :=
  (BitVec.ofNat 512 ((List.range 8).foldr (fun i n => (Config.free (s.fresh + i)).toNat + n * 2 ^ 64) 0), { s with fresh := s.fresh + 8 })

/-- Write one line of the spill area into the wing cache in state M under tag 0; its layout is not architectural (R515). -/
def spillLine (w : Fin 4) (n : Nat) (s : State) : State :=
  let (x, s) := (soil 0 n (dropCopies n (unspoil n s))).freeLine
  wingFill w ⟨n, .m, 0⟩ (pokeLine n x s)

/-- The first unsaved granule that the spill area touches, in memory of this die (R515: the levee holds the spill as any other write). -/
def spillHeld (c : CoreId) (s : State) : Option Nat :=
  let a := (s.core c).spill.toNat
  [a, a + 196607].find? (fun b => s.ownMem b && s.unsaved b) |>.map granOf

/-- A core enters Sealed: every L2 line is offered to the wing cache, then 192 KiB are spilled (R515). -/
def sealCore (c : CoreId) (s : State) : State :=
  let k := s.core c
  let s := s.setCore c { k with l1i := [], l1d := [], l2 := [] }
  let s := (linesOf k.l2).foldl (fun t e => offerVictim (wingOf c) e.2 t) s
  (List.range 3072).foldl (fun t i => spillLine (wingOf c) (k.spill.toNat / 64 + i) t) s

/-- Units gate in every door state other than Open (R517). -/
def Core.atDoor (k : Core) (d : BitVec 2) : Core :=
  let shut : Bool := d ≠ 0 || k.forced
  { k with door := d, mxGated := k.mxGated || shut, vuGated := k.vuGated || shut }

/-- A core goes on to Sealed; while the levee holds its spill it stays in Shut (R418, R515). -/
def enterSealed (c : CoreId) (s : State) : State :=
  match spillHeld c s with
  | some g => (holdWrite (.spill c g) g s).modCore c (·.atDoor 2)
  | none => (sealCore c s).modCore c (·.atDoor 3)

/-- A core that wakes spills nothing. -/
def dropSpill (c : CoreId) (s : State) : State :=
  let own (e : Word × HeldWrite) : Bool := match e.2 with | .spill d _ => decide (d = c) | _ => false
  { s with levee := { s.levee with heldWrites := s.levee.heldWrites.filter fun e => !own e } }

/-- Bring a core's door state in line with what it does (R513, R516): an idle core that is Open enters the deepest state allowed; a
core that is not idle is Open. What the critical temperature forces comes on top (R511). -/
def settleDoor (c : CoreId) (s : State) : State :=
  let k := s.core c
  if !s.present c then s
  else if k.idle then
    if k.door ≠ 0 then s
    else if tolDoor k.tol = 3 then enterSealed c s
    else s.modCore c (·.atDoor (tolDoor k.tol))
  else dropSpill c (s.setCore c (k.atDoor 0))

def settleDoors (s : State) : State := allCores.foldl (fun t c => settleDoor c t) s

end Machine
end Sys2Proof
end

