-- ==== Sys2Proof/Machine/LeveeBase.lean ====
section
/-! DEFINITION. Parts of the levee that other units use: releasing held writes, ending a checkpoint, triggers and the step pages
(R412, R413, R416, R418, R427, R433). -/

namespace Sys2Proof
namespace Machine

def State.shard (s : State) (i : Fin 16) : Shard := s.levee.shards[i.val]
def State.setShard (s : State) (i : Fin 16) (x : Shard) : State := { s with levee := { s.levee with shards := s.levee.shards.set i.val x } }

/-- Fabric cycles of a hold that began at LTIME t (16 per tick), at most 0xFFFF. -/
def holdCycles (s : State) (t : Word) : BitVec 16 :=
  let n := (s.ltime - t).toNat * 16
  if n < 0x10000 then BitVec.ofNat 16 n else 0xFFFF

def HeldWrite.gran : HeldWrite → Nat
  | .req _ n => granOf (64 * n)
  | .salvage n _ _ => granOf (64 * n)
  | .spill _ g => g

/-- A granule is saved, or no longer to be saved: its bit is clear and the writes held for it go on (R418, R420). A salvaged line
is written now, unless its page is lost meanwhile (R438); a core whose spill was held goes on to Sealed; a request is made again by its unit. -/
def releaseGran (g : Nat) (s : State) : State :=
  let l := s.levee
  let mine := l.heldWrites.filter fun e => e.2.gran = g
  let longest := mine.foldl (fun m e => let h := holdCycles s e.1; if m.ult h then h else m) l.holdmax
  let s := { s with levee := { l with
    unsaved := l.unsaved.filter (· ≠ g)
    heldWrites := l.heldWrites.filter fun e => e.2.gran ≠ g
    prio := l.prio.filter (· ≠ g)
    holdmax := longest } }
  let goOn (t : State) (e : Word × HeldWrite) : State :=
    match e.2 with
    | .salvage n d tag => if t.lost (64 * n) then t else storeLine tag n (pokeLine n d t)
    | .spill c _ => if (t.core c).idle && (t.core c).door = 2 then enterSealed c t else t
    | .req _ _ => t
  mine.foldl goOn s

/-- The reply of LEVEE_CHECKPOINT, when the cores resume (R415; ch18, opcode 0x52). -/
def replyCheckpoint (i : Fin 16) (s : State) : State :=
  match s.porch.direct with
  | some b =>
    if b.opcode = 0x52 && b.obj = i.val then
      let s := { s with porch := { s.porch with direct := none } }
      if b.quiet then s else notify ⟨b.tag, 0, 0, 0x52, (s.shard i).seq, 0, 0⟩ s
    else s
  | none => s

/-- A core leaves the pause of a shard's arm, if it is one of `m`, and its STEP store for the shard is complete. -/
def Core.unarm (k : Core) (i : Fin 16) (inMask : Bool) : Core :=
  { k with
    armPaused := k.armPaused && !inMask
    armPausing := k.armPausing && !inMask
    stepOut := k.stepOut.filter (· ≠ i) }

/-- The cores that an arm has paused run again, but for those that another shard's arm holds, and an outstanding STEP store of the
shard is complete (R415 step 5, R416). The levee tells the pumphouse with a unit message (R475; log entry 117). -/
def resumeShard (i : Fin 16) (s : State) : State :=
  let others := (List.finRange 16).filter fun j => j ≠ i && decide ((s.shard j).state = .arming)
  let free (n : Nat) : Bool := (s.shard i).cores.getLsbD n && others.all fun j => !(s.shard j).cores.getLsbD n
  let s := match (s.shard i).stepFar with
    | some m => respondCmp m 0 (s.setShard i { s.shard i with stepFar := none })
    | none => s
  replyCheckpoint i (setEvent 6 <| settleDoors { s with cores := s.cores.mapIdx fun n k => k.unarm i (free n) })

def insertNat (a : Nat) : List Nat → List Nat
  | [] => [a]
  | b :: l => if a < b then a :: b :: l else if a = b then b :: l else b :: insertNat a l

/-! ## Work requests of the levee, and the end of a checkpoint (R425, R427) -/

/-- Bytes of a granule. -/
def granBytes : Nat := 2 ^ 18

def QueuePair.mtuBytes (x : QueuePair) : Nat := 1024 * 2 ^ x.mtu.toNat

/-- Packets and PSNs of a message of n bytes. -/
def packetsOf (mtu n : Nat) : Nat := Nat.max 1 ((n + mtu - 1) / mtu)

/-- Request packets that a work request sends, and PSNs that it consumes (R390). -/
def wrPackets (mtu : Nat) (w : WorkReq) : Nat :=
  match w.op.toNat with
  | 1 | 3 => packetsOf mtu w.len.toNat
  | 2 | 4 | 5 | 6 => 1
  | _ => 0
def wrPsns (mtu : Nat) (w : WorkReq) : Nat := if w.op = 2 then packetsOf mtu w.len.toNat else wrPackets mtu w

/-! ## Contexts on the die (R378, R380) -/

/-- Mark a context used (R380). -/
def touchQp (q : Nat) (s : State) : State :=
  match s.qp q with
  | none => s
  | some x =>
    let s := { s with sluice := { s.sluice with clock := s.sluice.clock + 1 } }
    s.setQp q { x with used := s.sluice.clock }

/-- An evictable context: nothing in transmission, no response outstanding, not pinned (R380). -/
def evictable (x : QueuePair) : Bool := x.onDie && !x.pin && (x.opens.isEmpty || x.held.isSome) && x.unacked.isEmpty

/-- The least recently used evictable context, with its use. -/
def leastUsed (l : Table (Option QueuePair)) : Option (Nat × Nat) :=
  l.foldl (fun b e => match e.2 with
    | some y => if evictable y then (match b with | some (_, u) => if y.used < u then some (e.1, y.used) else b | none => some (e.1, y.used)) else b
    | none => b) none

/-- Bring a context onto the die, evicting the least recently used evictable one when 16,384 are there; where none is evictable, it waits. -/
def bringQp (q : Nat) (s : State) : State :=
  match s.qp q with
  | none => s
  | some x =>
    let come (s : State) : State := touchQp q (s.setQp q { x with onDie := true })
    if x.onDie then touchQp q s
    else if qpCount s (·.onDie) < 16384 then come s
    else
      match leastUsed s.sluice.qps with
      | some (w, _) => match s.qp w with | some y => come (s.setQp w { y with onDie := false }) | none => s
      | none => s

def countMiss (s : State) : State := { s with sluice := { s.sluice with ctxmiss := satInc s.sluice.ctxmiss } }

def qpOnDie (s : State) (q : Nat) : Bool := match s.qp q with | some x => x.onDie | none => false

/-- Use a context: one that is not on the die is fetched and counted, where it finds a place (R378). -/
def fetchQp (q : Nat) (s : State) : State :=
  if qpOnDie s q then touchQp q s
  else
    let t := bringQp q s
    if qpOnDie t q then countMiss t else s

/-- Put a work request in progress. -/
def pushOpen (q : Nat) (x : QueuePair) (o : OpenWr) (s : State) : State :=
  touchQp q (s.setQp q { x with opens := x.opens ++ [o], nextPsn := x.nextPsn + BitVec.ofNat 24 o.npsn })

/-- Put a work request of the levee on its queue pair. -/
def pushLevee (i : Fin 16) (q : Nat) (w : WorkReq) (s : State) : State :=
  let s := fetchQp q s
  match s.qp q with
  | some x => pushOpen q x ⟨w, x.nextPsn, wrPsns x.mtuBytes w, 0, 0, none, some i⟩ s
  | none => s

/-- A work request of the levee: its operation, staging address, length and remote address. -/
def leveeWr (op : BitVec 8) (x : Shard) (laddr len raddr : Nat) : WorkReq :=
  ⟨op, false, false, false, false, false, 0, 0, BitVec.ofNat 64 laddr, 0, BitVec.ofNat 32 len, BitVec.ofNat 64 raddr, x.rkey, 0, 0, false⟩

/-- Granules of the staging ring; the last four are the reserve of priority copies (R425). -/
def Shard.stgSlots (x : Shard) : Nat := x.stgLen / granBytes
def Shard.stgAddr (x : Shard) (k : Nat) : Nat := x.stgBase + k * granBytes

/-- A WRITE that has not completed uses part of the staging granule. -/
def Shard.inUse (x : Shard) (k : Nat) : Bool :=
  x.staged.any fun a => decide (a < x.stgAddr k + granBytes) && decide (x.stgAddr k < a + granBytes)

/-- A free staging granule for a background or a priority copy. -/
def freeSlot (x : Shard) (prio : Bool) : Option Nat :=
  ((List.range x.stgSlots).filter fun k => (decide (x.stgSlots - 4 ≤ k) == prio)).find? fun k => !x.inUse k

/-- An aborted checkpoint leaves the slot it was writing without a valid record (R427). The old record still stands before the copy begins,
and the new one may stand once it is on its way: then zeros go over it, with remote slots by a WRITE behind all others of the levee. A remote
slot whose queue pair has failed keeps what it has (log entry 122). -/
def spoilRecord (i : Fin 16) (s : State) : State :=
  let x := s.shard i
  let stands := if x.state = .committing then x.phase = 2 else x.phase = 0
  let zeros : List Byte := List.replicate 64 0
  if !stands || !(s.gate 0x41).open_ || s.coff.dieStop then s
  else if !x.remote then taggedWrite 0x41 false x.polder (x.slot x.next) zeros s
  else
    match (match s.qp x.qpn with | some q => if q.state = 3 then freeSlot x false else none | none => none) with
    | none => s
    | some k =>
      let s := taggedWrite 0x41 false x.polder (x.stgAddr k) zeros s
      pushLevee i x.qpn (leveeWr 1 x (x.stgAddr k) 64 (x.slot x.next)) (s.setShard i { x with staged := insertNat (x.stgAddr k) x.staged })

/-- End the checkpoint of a shard without a commit (R427). The requests that waited for its granules are made again. Staging granules stay in
use until their WRITEs complete (R425). -/
def abortCheckpoint (i : Fin 16) (last : BitVec 8) (s : State) : State :=
  let s := (shardGranules s (s.shard i)).foldl (fun t a => releaseGran (granOf a) t) s
  let s := if (s.shard i).state = .arming then resumeShard i s else s
  let s := spoilRecord i s
  irteMessage (s.shard i).irte (s.setShard i { s.shard i with state := .idle, last := last, armed := false, toDown := [], phase := 0 })

def Shard.busy (x : Shard) : Bool := x.state = .arming || x.state = .copying || x.state = .committing

/-- A STEP store of the core is outstanding, at this die's levee or another's (R416). -/
def State.stepWait (s : State) (c : CoreId) : Bool :=
  let far (r : Req) : Bool := match r.unit with | .step d _ => d = c | _ => false
  !(s.core c).stepOut.isEmpty || s.th.reqs.any far

/-- A core asked to pause is at a boundary unless it waits for a device access, an atomic or a `syswr`, or enters a handler; one that
waits for a STEP store is at the boundary before (R295, R297, R415 step 1, R416, R513). -/
def canPause (s : State) (c : CoreId) : Bool := !deviceWait (.core c) s && (!(s.core c).begun || s.stepWait c) && (s.core c).entering.isNone

/-- The pause that an arm asks of one core, through the pumphouse (R415, R475). Absent and offline cores, and cores held in reset, count as paused. -/
def armPause (c : CoreId) (s : State) : State :=
  if canPause s c then settleDoor c (setEvent 5 (s.modCore c fun k => { k with armPaused := true, armPausing := false }))
  else s.modCore c fun k => { k with armPausing := true }

/-- A trigger of a shard: 0 timer, 1 step, 2 command (R412, R413, R415). True where a checkpoint starts; in every other state than IDLE,
DISABLED among them, it is a skip. The levee asks the pumphouse for
the pause with a unit message (R475; log entry 117). -/
def trigger (i : Fin 16) (trig : BitVec 2) (s : State) : Bool × State :=
  let x := s.shard i
  if x.state = .idle then
    let x := { x with state := .arming, seq := x.seq + 1, trig := trig, lstep := x.step, tmrStart := s.ltime }
    let s := s.setShard i x
    (true, setEvent 6 (allCores.foldl (fun t c => if x.cores.getLsbD c.val then armPause c t else t) s))
  else
    let x := { x with skip := satInc x.skip, tmrStart := if trig = 0 then s.ltime else x.tmrStart }
    (false, s.setShard i x)

/-- A store to a step page under a tag other than the shard's is ignored, whatever its offset and size, and counted (R433). -/
def stepRefused (i : Fin 16) (tag : BitVec 12) (trusted : Bool) (s : State) : Bool := !trusted && tag ≠ (s.shard i).polder
def countRefused (s : State) : State := { s with levee := { s.levee with tagdrop := satInc s.levee.tagdrop } }

/-- A store that reaches STEP of a shard (R412, R416, R433). `c` is the storing core, if a core stores. -/
def stepStore (i : Fin 16) (c : Option CoreId) (size : Nat) (v : Word) (tag : BitVec 12) (trusted : Bool) (s : State) : State :=
  let x := s.shard i
  if stepRefused i tag trusted s then countRefused s
  else if size ≠ 8 then s
  else
    let s := s.setShard i { x with step := v }
    if x.steps ≠ 0 && v.toNat % x.steps.toNat = 0 && v ≠ x.lstep then
      let (started, s) := trigger i 1 s
      if started then
        let s := s.setShard i { s.shard i with stepCore := c }
        match c with
        | some c => s.modCore c fun k => { k with stepOut := k.stepOut ++ [i] }
        | none => s
      else s
    else s

/-- LEVEE_TMR, with its start point (R412). -/
def leveeTmr (i : Fin 16) (v : Word) (s : State) : State :=
  s.setShard i { s.shard i with tmr := fld v 0 32, tmrStart := s.ltime }

end Machine
end Sys2Proof
end

