-- ==== Sys2Proof/Machine/Operands.lean ====
section
/-! DEFINITION. Operand forms: immediates, offsets and the pure functions of the scalar integer unit and of atomics (R47 to R49, R60). -/

namespace Sys2Proof
namespace Machine

/-- A sign-extended immediate or byte offset. -/
def sx {n : Nat} (x : BitVec n) : Word := x.signExtend 64
/-- A sign-extended word offset, times 4 (R47). -/
def sx4 {n : Nat} (x : BitVec n) : Word := x.signExtend 64 <<< 2
def b2w (b : Bool) : Word := if b then 1 else 0

/-- Shift amount: the low 6 bits (R48). -/
def sh6 (x : Word) : Nat := (fld x 0 6).toNat
def sh5 (x : Word) : Nat := (fld x 0 5).toNat
def lo32 (x : Word) : BitVec 32 := fld x 0 32

def smin (a b : Word) : Word := if a.slt b then a else b
def smax (a b : Word) : Word := if a.slt b then b else a
def umin (a b : Word) : Word := if a.ult b then a else b
def umax (a b : Word) : Word := if a.ult b then b else a

/-- The zeros above the leading one of n bits. -/
def leadZeros (x : Word) : Nat := if x = 0 then 64 else 63 - Nat.log2 x.toNat
/-- Zeros below the lowest one, looking at `fuel` bits from bit i. -/
def trailZerosFrom (x : Word) : Nat → Nat → Nat
  | 0, i => i
  | fuel + 1, i => if bit x i then i else trailZerosFrom x fuel (i + 1)
def trailZeros (x : Word) : Nat := trailZerosFrom x 64 0
def popCount (x : Word) : Nat := ((List.range 64).filter fun i => bit x i).length
/-- Bytes in reverse order. -/
def byteRev (x : Word) : Word := BitVec.ofNat 64 (fromLe (toLe 8 x.toNat).reverse)

/-- High 64 bits of a product of integers. -/
def mulHigh (a b : Int) : Word := BitVec.ofInt 64 (a * b / 2 ^ 64)

/-- Signed quotient, rounded toward zero; division by zero and -2^63 / -1 saturate (R49). -/
def divS (a b : Word) : Word :=
  if b = 0 then (if a.slt 0 then BitVec.intMin 64 else BitVec.intMax 64)
  else if a = BitVec.intMin 64 && b = BitVec.allOnes 64 then BitVec.intMax 64
  else a.sdiv b
def divU (a b : Word) : Word := if b = 0 then BitVec.allOnes 64 else a / b
/-- Remainder with the sign of the dividend; by zero it is the dividend (R49). -/
def remS (a b : Word) : Word := if b = 0 then a else a.srem b
def remU (a b : Word) : Word := if b = 0 then a else a % b

/-- What an atomic stores: the old memory value, the operand and the compare value, each of the access width; none where a `cas`
does not store (R58). -/
def amo {w : Nat} (op : Nat) (old x cmp : BitVec w) : Option (BitVec w) :=
  match op with
  | 0 => some x
  | 1 => some (old + x)
  | 2 => some (old &&& x)
  | 3 => some (old ||| x)
  | 4 => some (old ^^^ x)
  | 5 => some (if old.slt x then old else x)
  | 6 => some (if old.slt x then x else old)
  | 7 => some (if old.ult x then old else x)
  | 8 => some (if old.ult x then x else old)
  | _ => if old = cmp then some x else none

/-- An atomic of 4 or 8 bytes: the bytes to store, if any. Wider operand bits are ignored (R60). -/
def amoBytes (op : Nat) (dbl : Bool) (old x cmp : Word) : Option (List Byte) :=
  if dbl then (amo op old x cmp).map fun v => toLe 8 v.toNat
  else (amo op (lo32 old) (lo32 x) (lo32 cmp)).map fun v => toLe 4 v.toNat

/-- A loaded value of n bytes, sign- or zero-extended. -/
def extend (n : Nat) (signed : Bool) (v : Nat) : Word :=
  if signed then
    match n with
    | 1 => (BitVec.ofNat 8 v).signExtend 64
    | 2 => (BitVec.ofNat 16 v).signExtend 64
    | 4 => (BitVec.ofNat 32 v).signExtend 64
    | _ => BitVec.ofNat 64 v
  else BitVec.ofNat 64 (v % 256 ^ n)

end Machine
end Sys2Proof
end

