-- ==== Sys2Proof/Machine/Translate.lean ====
section
/-! DEFINITION. The two-stage translation of PL0 and PL1 (R336, R337, R583). -/

namespace Sys2Proof
namespace Machine

/-- What an access needs of a page. -/
structure Need where
  r : Bool
  w : Bool
  x : Bool
  deriving DecidableEq, Repr

def needR : Need := ⟨true, false, false⟩
def needW : Need := ⟨false, true, false⟩
def needX : Need := ⟨false, false, true⟩
/-- An atomic needs both read and write permission (R60). -/
def needRW : Need := ⟨true, true, false⟩

/-- The result of a translation: physical address, polder tag, and the memory kind. -/
structure Leaf where
  pa : Nat
  tag : BitVec 12
  dev : Bool
  nc : Bool
  deriving DecidableEq, Repr

/-- The entry grants what the access needs. -/
def grants (e : Word) (n : Need) : Bool := (!n.r || bit e 1) && (!n.w || bit e 2) && (!n.x || bit e 3)

def anyRwx (e : Word) : Bool := bit e 1 || bit e 2 || bit e 3

/-- The output address field of an entry. -/
def entryAddr (e : Word) : Nat := (fld e 12 40).toNat * 4096

/-- The bytes that an entry at a level maps. -/
def levelSize (level : Nat) : Nat := 2 ^ (39 - 9 * level)

/-- An entry is invalid at its level (R336); `guest` chooses the reserved fields. -/
def invalidEntry (guest : Bool) (level : Nat) (e : Word) : Bool :=
  let leaf := decide (level = 3) || (decide (level ≠ 0) && anyRwx e)
  !bit e 0 || fld e 6 6 ≠ 0 || (guest && (bit e 5 || fld e 52 12 ≠ 0)) ||
    (!guest && !leaf && fld e 52 12 ≠ 0) || (decide (level = 0) && anyRwx e) || (decide (level = 3) && !anyRwx e) ||
    (leaf && decide (entryAddr e % levelSize level ≠ 0))

/-- Walk down from `level` with `fuel` levels to go: the leaf entry and its level, none where an entry is invalid. -/
def walkDown (rd : Nat → M Word) (guest : Bool) (ia : Nat) : Nat → Nat → Nat → M (Option (Word × Nat))
  | 0, _, _ => pure none
  | fuel + 1, level, table => do
    let e ← rd (table + 8 * (ia / levelSize level % 512))
    if invalidEntry guest level e then pure none
    else if level = 3 || anyRwx e then pure (some (e, level))
    else walkDown rd guest ia fuel (level + 1) (entryAddr e)

/-- Bits [63:48] of an input address all equal bit 47. -/
def canonical (a : Word) : Bool := fld a 47 17 = 0 || fld a 47 17 = BitVec.allOnes 17

/-- The infrastructure stage: steps 3 to 5 of R337. `va` is the address that a fault names; without a polder the tag is not compared; `sub`
is what an input address out of range raises: 0, or 1 where GPTB.EN is 0 (R336). -/
def infra (rd : Nat → BitVec 12 → M Word) (polder : Option (BitVec 12)) (iptb : Word) (va : Word) (sub : BitVec 4) (ia : Word) (need : Need) : M Leaf := do
  if !canonical ia then raise 4 sub (some va)
  else
    match ← walkDown (fun a => rd a 0) false ia.toNat 4 0 (entryAddr iptb) with
    | none => raise 4 1 (some va)
    | some (e, level) =>
      if polder.any fun p => fld e 52 12 ≠ p then raise 5 1 (some va)
      else if !grants e need then raise 4 1 (some va)
      else pure ⟨entryAddr e + ia.toNat % levelSize level, fld e 52 12, bit e 4, bit e 5⟩

/-- Both stages (R337). `user`: the access is at PL0. -/
def translate (rd : Nat → BitVec 12 → M Word) (polder : Option (BitVec 12)) (gptb iptb : Word) (user : Bool) (va : Word) (need : Need) : M Leaf := do
  if !bit gptb 0 then infra rd polder iptb va 1 va need
  else if !canonical va then raise 4 0 (some va)
  else
    let grd (ia : Nat) : M Word := do
      let l ← infra rd polder iptb va 0 (BitVec.ofNat 64 ia) needR
      rd l.pa l.tag
    match ← walkDown grd true va.toNat 4 0 (entryAddr gptb) with
    | none => raise 4 0 (some va)
    | some (e, level) =>
      if !grants e need || (user && !bit e 4) then raise 5 0 (some va)
      else infra rd polder iptb va 0 (BitVec.ofNat 64 (entryAddr e + va.toNat % levelSize level)) need

end Machine
end Sys2Proof
end

