-- ==== Sys2Proof/Machine/Scullery.lean ====
section
/-! DEFINITION. The scullery: the capture of a request and the operations on its lines (R317, R319 to R321). -/

namespace Sys2Proof
namespace Machine

def State.slot (s : State) (w n : Fin 4) : Slot := (s.wings[w.val]).slots[n.val]
def State.setSlot (s : State) (w n : Fin 4) (x : Slot) : State := s.modWing w fun g => { g with slots := g.slots.set n.val x }

/-- RANGE_STAT fields. -/
def statLines (v : Word) : BitVec 32 := fld v 16 32
def setLines (v : Word) (n : BitVec 32) : Word := setFld v 16 n

/-- The result of a slot whose line operations have all been performed. -/
def resDone : BitVec 4 := 15

def Slot.opCode (x : Slot) : Nat := (fld x.op 0 3).toNat

/-- The physical address and tag of the line at address v of a request, or the ERRKIND that stops it (R319). -/
def slotLine (w : Fin 4) (x : Slot) (v : Nat) : M (Except (BitVec 4) (Nat × BitVec 12)) := fun s =>
  if bit x.op 3 then .ok (.ok (v, x.polder)) s
  else if x.phys || x.far then .ok (.error 2) s
  else
    let low := x.pl.ult 2
    let need : Need := if !low then ⟨false, false, false⟩ else if x.opCode = 1 || x.opCode = 2 || x.opCode = 3 then needW else needR
    let rd (a : Nat) (tag : BitVec 12) : M Word := do
      let r ← agentRead (.scullery w) tag false a 8
      if r.1 ≠ 0 then raise 3 1 (some (BitVec.ofNat 64 v)) else pure (BitVec.ofNat 64 (fromLe r.2))
    match translate rd (if low then some x.polder else none) x.gptb x.iptb (x.pl = 0) (BitVec.ofNat 64 v) need s with
    | .ok l s => .ok (.ok (l.pa, l.tag)) s
    | .error (.exc e) s => .ok (.error (if e.cause = 5 then 3 else 2)) s
    | .error e s => .error e s

/-- Take copies of a line out of the caches of one wing's cores. -/
def dropWingCores (w : Fin 4) (n : Nat) (s : State) : State :=
  { s with cores := s.cores.mapIdx fun i k => if i / 8 = w.val then k.dropLine n else k }

/-- The entries that the cores of the wing hold for a line. -/
def wingCoreEntries (s : State) (w : Fin 4) (n : Nat) : List CLine :=
  (List.range 8).filterMap fun i => ((s.cores.toList)[8 * w.val + i]?).bind fun k => (find l2Geo k.l2 n).map (·.2)

/-- The entry that stands for them all: the dirty copy where one is. -/
def wingCoreEntry (s : State) (w : Fin 4) (n : Nat) : Option CLine :=
  let es := wingCoreEntries s w n
  (es.find? (·.st.dirty)).orElse fun _ => es.head?

/-- Demote: copies in the wing's cores move to the wing cache with their state (R319). -/
def demoteLine (w : Fin 4) (n : Nat) (s : State) : State :=
  match wingCoreEntry s w n with
  | some e => wingFill w e (dropWingCores w n s)
  | none => s

/-- Write a dirty line back and keep its copies clean; false where it is uncorrectable and so lost (R321). -/
def cleanLine (w : Fin 4) (n : Nat) (tag : BitVec 12) (s : State) : Bool × State :=
  let s := meetHeld n s
  if !s.isDirty n then (true, s)
  else
    let tag := (heldTag s n).getD tag
    if s.spoilt n || s.lost (64 * n) then (false, dropCopies n (writeBack w tag n s))
    else (true, cleanCopies n (writeBack w tag n s))

/-- Line operation on a line of this die's memory, all other dies having given it up. The answer is ERRKIND or 0. -/
def localOp (w : Fin 4) (op : Nat) (keepDirty : Bool) (n : Nat) (tag : BitVec 12) (s : State) : BitVec 4 × State :=
  match op with
  | 0 => let (ok, s) := cleanLine w n tag s; (if ok then 0 else 5, s)
  | 1 =>
    if keepDirty then
      let (ok, s) := cleanLine w n tag s
      (if ok then 0 else 5, dropCopies n s)
    else (0, dropCopies n (unspoil n (discardLine n s)))
  | 2 =>
    let (ok, s) := cleanLine w n tag s
    (if ok then 0 else 5, dropCopies n s)
  | _ =>
    -- zero-fill: the stack's copy stays behind the line that the wing cache now holds in M
    let old : Stale := (mget none s.mem.stale n).getD ⟨lineData s n, s.storedKey n⟩
    let s := pokeLine n 0 (dropCopies n s)
    let s := { s with mem := { s.mem with stale := mset none s.mem.stale n (some old), badDirty := mset none s.mem.badDirty n none } }
    (0, wingFill w ⟨n, .m, tag⟩ s)

/-- A prefetch that meets uncorrectable data, or a lost page, drops the line: KIND 0x04 (R321, R438). -/
def prefetchDrop (w : Fin 4) (n : Nat) (tag : BitVec 12) (s : State) : State :=
  record 0x04 (0x28 + w.val) tag 1 0 (BitVec.ofNat 64 (64 * n)) s

/-- A line fetched for a prefetch: E where no other cache holds it, else S (R319 OP 5). -/
def prefetchLocal (w : Fin 4) (n : Nat) (tag : BitVec 12) : M (BitVec 4) := fun s =>
  let s := meetHeld n s
  let tag := (heldTag s n).getD tag
  if (wingCoreEntry s w n).isSome || (wingHolds s.wings[w.val] n).isSome then .ok 0 s
  else if s.lost (64 * n) || s.spoilt n then .ok 0 (prefetchDrop w n tag s)
  else
    match supplied (.scullery w) n s with
    | some x => .ok 0 (wingFill w ⟨n, .s, tag⟩ (pokeLine n x (soil tag n s)))
    | none =>
      -- what the stack and its directory deliver is read here: an error drops the prefetch, and the line is not lost (R321)
      let (entry, t) := readDir n tag s
      match homeReady (.scullery w) tag n false true false t with
      | .error e s => .error e s
      | .ok r s =>
        let held := !(holdings s n).isEmpty
        let (good, s) := if r ≠ 0 || held then (true, s) else if entry then readStack n tag s else (false, s)
        if r ≠ 0 || !good then .ok 0 (prefetchDrop w n tag s)
        else
          let alone := !held && dirOf s n = DirEntry.none && !s.unsaved (64 * n)
          .ok 0 (wingFill w ⟨n, if alone then .e else .s, tag⟩ (shareCopies n (adopt tag n s)))

/-- Clean a line of this die's memory: a dirty copy on another die gives its value and stays valid there, shared (R319; log entry 45). -/
def cleanHome (unit : Requester) (w : Fin 4) (n : Nat) (tag : BitVec 12) : M (BitVec 4) := fun s =>
  if s.lost (64 * n) then let (ok, s) := cleanLine w n tag s; .ok (if ok then 0 else 5) s
  else
    match supplied unit n s with
    | some x => .ok 0 (storeLine tag n (pokeLine n x s))
    | none =>
      if (dirOf s n).owner.isNone then let (ok, s) := cleanLine w n tag s; .ok (if ok then 0 else 5) s
      else
        match homeReady unit tag n false false false s with
        | .error e s => .error e s
        | .ok r s => if r ≠ 0 then .ok 5 s else let (ok, s) := cleanLine w n tag s; .ok (if ok then 0 else 5) s

/-- Invalidate, clean and invalidate, or zero-fill a line of this die's memory: every other die gives it up first. A dirty copy on another die is
written to memory where the operation cleans, and discarded otherwise (R319). -/
def flushHome (unit : Requester) (w : Fin 4) (op : Nat) (keepDirty : Bool) (n : Nat) (tag : BitVec 12) : M (BitVec 4) := fun s =>
  let run (s : State) : EStateM.Result Exit State (BitVec 4) := let (r, s) := localOp w op keepDirty n tag s; .ok r s
  let drop (s : State) : EStateM.Result Exit State (BitVec 4) :=
    if (snoopSet (dirOf s n) true).isEmpty then run s
    else
      match homeReady unit tag n true true false s with
      | .error e s => .error e s
      | .ok r s => if r ≠ 0 then .ok 5 s else run s
  if (op = 2 || (op = 1 && keepDirty)) && (dirOf s n).owner.isSome then
    match cleanHome unit w n tag s with
    | .error e s => .error e s
    | .ok r s => if r ≠ 0 then .ok r s else drop s
  else drop s

/-- One line operation (R320). The answer is ERRKIND or 0. -/
def lineOp (w : Fin 4) (op : Nat) (keepDirty tr : Bool) (a : Nat) (tag : BitVec 12) : M (BitVec 4) := fun s =>
  let n := a / 64
  match place a with
  | .mem d =>
    if s.ownDie d then
      if nStacks s.variant ≤ (stackOf a).val then .ok 0 s
      else if op = 4 then .ok 0 (demoteLine w n s)
      else if op = 5 then prefetchLocal w n tag s
      else if op = 0 then cleanHome (.scullery w) w n tag s
      else if op = 3 && s.lost a then .ok 5 s
      else if s.unsaved a then .error .wait (holdWrite (.req (.scullery w) n) (granOf a) s)
      else flushHome (.scullery w) w op keepDirty n tag s
    else if op = 4 then .ok 0 (demoteLine w n s)
    else if op = 5 then
      let s := meetHeld n s
      if (wingCoreEntry s w n).isSome || (wingHolds s.wings[w.val] n).isSome then .ok 0 s
      else if s.spoilt n then .ok 0 (prefetchDrop w n tag s)
      else if (dieHolds s n).isSome then .ok 0 (wingFill w ⟨n, .s, (heldTag s n).getD tag⟩ (shareCopies n s))
      else
        match ask (.scullery w) d.val 1 (64 * n) { ThMsg.zero with addr := BitVec.ofNat 52 (64 * n), polder := tag, size := 6, tr := tr } none s with
        | .ok r s => .ok 0 (if r.1 = 1 || r.1 = 2 then prefetchDrop w n tag s else s)
        | .error e s => .error e s
    else
      let s := meetHeld n s
      if s.spoilt n && (op = 0 || op = 2 || (op = 1 && keepDirty)) then .ok 5 (loseDirty tag n s)
      else
      let sub : BitVec 4 := if op = 1 && keepDirty then 2 else BitVec.ofNat 4 op
      match ask (.scullery w) d.val 0xA (64 * n)
          { ThMsg.zero with addr := BitVec.ofNat 52 (64 * n), polder := tag, size := 6, tr := tr, subop := sub } none s with
      | .ok r s =>
        if op = 3 && r.1 = 0 then .ok 0 (wingFill w ⟨n, .m, tag⟩ (pokeLine n 0 (dropCopies n (unspoil n s))))
        else .ok (if r.1 = 0 then 0 else 5) s
      | .error e s => .error e s
  | .window =>
    if op = 1 || op = 2 then .ok 0 (forget w n false tag (dropCopies n s)) else .ok 0 s
  | _ => .ok 0 s

/-- Perform up to `fuel` line operations of slot n, from its LINES on; it stops at an error or where it must wait. DESIGN CHOICE: LINES counts the
line that has failed with ERRKIND 5, which the request has come to; R321 says only that it stops after that line (log entry 154). -/
def performLines (w n : Fin 4) : Nat → State → State
  | 0, s => s
  | fuel + 1, s =>
    let x := s.slot w n
    let done := (statLines x.stat).toNat
    if x.res ≠ 0 then s
    else if x.len.toNat ≤ 64 * done then s.setSlot w n { x with res := resDone }
    else
      match slotLine w x (x.base.toNat + 64 * done) s with
      | .error _ t => s.waiting t
      | .ok (.error k) t => t.setSlot w n { x with res := k }
      | .ok (.ok (a, tag)) t =>
        match lineOp w x.opCode (x.pl.ult 2 && !bit x.op 3) (x.phys || !x.pl.ult 2) a tag t with
        | .error _ u => s.waiting u
        | .ok r u =>
          let u := clearAnswers (.scullery w) u
          let x := { x with stat := setLines x.stat (BitVec.ofNat 32 (done + 1)), res := r }
          performLines w n fuel (u.setSlot w n x)

/-- The slot's request has a fault of its own: alignment or length, a reserved OP, or PHYS not allowed. -/
def slotFault (x : Slot) : BitVec 4 :=
  if fld x.base 0 6 ≠ 0 || fld x.len 0 6 ≠ 0 || 2 ^ 38 < x.len.toNat then 1
  else if 6 ≤ x.opCode || (bit x.op 3 && !x.phys && x.pl.ult 2) then 4
  else 0

/-- The wing performs the request at the head of its order (R317). Its requests leave through the wing's floodgate, which drops them while
it is closed (R441, R445). -/
def performHead (w : Fin 4) (s : State) : State :=
  match (s.wings[w.val]).order with
  | [] => s
  | n :: _ =>
    if !(s.gate (0x28 + w.val)).open_ then lateSpeak (0x28 + w.val) 1 s
    else
    let x := s.slot w n
    if x.res = 0 && slotFault x ≠ 0 then s.setSlot w n { x with res := slotFault x }
    else performLines w n (x.len.toNat / 64 + 1) s

/-- What a write to RANGE_OP captures of its writer (R317). DESIGN CHOICE: of the host and the pumphouse PHYS alone is captured, and the lines that
their requests fill have the polder tag 0 (log entry 154). -/
def capture (by_ : Writer) (s : State) (x : Slot) : Slot :=
  match by_ with
  | .core c => let k := s.core c; { x with pl := k.pl, polder := k.polder, gptb := k.gptb, iptb := k.iptb, phys := false, far := false }
  | _ => { x with pl := 3, polder := 0, gptb := 0, iptb := 0, phys := true, far := false }

/-- What it captures of a core on another die, which the request names by polder and trust only: a trusted writer counts as one with PHYS;
any other at PL0, with no tables (log entry 28). -/
def captureFar (tag : BitVec 12) (trusted : Bool) (x : Slot) : Slot :=
  { x with pl := if trusted then 3 else 0, polder := tag, gptb := 0, iptb := 0, phys := trusted, far := !trusted }

/-- A write to RANGE_OP (R317), with its writer's capture. -/
def rangeStart (cap : Slot → Slot) (w n : Fin 4) (v : Word) (s : State) : State :=
  if nWings s.variant ≤ w.val then s
  else
    let x := s.slot w n
    if slotBusy x then s.setSlot w n { x with stat := x.stat ||| 8 }
    else
      let v := v &&& 0xFFDF
      let stat := (x.stat &&& 8) ||| 1
      let y : Slot := cap { x with op := v, stat := stat, res := 0 }
      let s := (s.setSlot w n y).modWing w fun g => { g with order := g.order ++ [n] }
      if (s.wings[w.val]).order = [n] then performHead w s else s

def rangeOp (by_ : Writer) (w n : Fin 4) (v : Word) (s : State) : State := rangeStart (capture by_ s) w n v s

/-- A write to RANGE_BASE or RANGE_LEN: ignored with REJ while BUSY (R317). -/
def rangeSet (w n : Fin 4) (len : Bool) (v : Word) (s : State) : State :=
  if nWings s.variant ≤ w.val then s
  else
    let x := s.slot w n
    if slotBusy x then s.setSlot w n { x with stat := x.stat ||| 8 }
    else s.setSlot w n (if len then { x with len := v } else { x with base := v })

/-- The request at the head finishes (R320): BUSY clears, DONE or ERR is set, its interrupt is sent, and the next one is performed. -/
def rangeFinish (w : Fin 4) (s : State) : State :=
  match (s.wings[w.val]).order with
  | [] => s
  | n :: rest =>
    let s := performHead w s
    let x := s.slot w n
    if x.res = 0 then s
    else
      let stat := if x.res = resDone then (x.stat &&& ~~~(1 : Word)) ||| 2 else (x.stat &&& ~~~(1 : Word)) ||| 4 ||| put x.res 4
      let s := (s.setSlot w n { x with stat := stat, res := 0 }).modWing w fun g => { g with order := rest }
      let s := if bit x.op 4 then wingSends w (irteMessage (fld x.op 6 10).toFin) s else s
      performHead w s

end Machine
end Sys2Proof
end

