-- ==== Sys2Proof/Machine/DoorBase.lean ====
section
/-! DEFINITION. The home agents toward other nodes: requests, snoop answers, the loss of a doorway (R543 to R547, R552 to R556). -/

namespace Sys2Proof
namespace Machine

/-- The die that sent a message, if a compute die did. -/
def srcDie (m : ThMsg) : Option (Fin 4) := if h : m.src.toNat < 4 then some ⟨m.src.toNat, h⟩ else none

/-- The die that sent a message, if it takes part in coherence: its INIT on some doorway carried CAP[0] (R536). -/
def cohDie (s : State) (m : ThMsg) : Option (Fin 4) :=
  match srcDie m with
  | some d => if s.doors.toList.any fun x => x.coherent && x.peer = some m.src then some d else none
  | none => none

/-- Set a bit of a sharer set. -/
def dirShare (d : Fin 4) (n : Nat) (s : State) : State :=
  let e := dirOf s n
  setDir n { e with sharers := e.sharers ||| ((1 : BitVec 4) <<< d.val) } s
def dirOwn (d : Fin 4) (n : Nat) (s : State) : State := setDir n ⟨some d, 0⟩ s

/-- The data that the sender of a write has sent ahead of, or after, its request: class DAT, same TAG and SRC. This die's own request has them
with it. -/
def sentData (n : Fin 8) (m : ThMsg) (s : State) : Option Wire :=
  if s.th.node.isSome && m.src = s.node then some ⟨3, 6, m⟩
  else (s.doors[n.val]).inbox.find? fun w => w.cls = 3 && (w.op = 5 || w.op = 6 || w.op = 7) && w.m.tag = m.tag && w.m.src = m.src
def dropData (n : Fin 8) (m : ThMsg) (s : State) : State :=
  s.modDoor n fun d => { d with inbox := d.inbox.filter fun w => !(w.cls = 3 && w.m.tag = m.tag && w.m.src = m.src) }

/-- Write the enabled bytes of a line. -/
def homeMasked (tag : BitVec 12) (n : Nat) (line : BitVec 512) (mask : BitVec 64) (s : State) : State :=
  let old := viewLine s tag n
  let bs := (List.range 64).map fun i => if mask.getLsbD i then line.extractLsb' (8 * i) 8 else old.extractLsb' (8 * i) 8
  homeWrite tag (64 * n) bs s

/-- An atomic performed at the home: the old value (R60). -/
def homeAtomic (tag : BitVec 12) (op : Nat) (dbl : Bool) (a : Nat) (x cmp : Word) (s : State) : Word × State :=
  let n := if dbl then 8 else 4
  let old : Word := BitVec.ofNat 64 (fromLe (viewBytes s tag a n))
  match amoBytes op dbl old x cmp with
  | some bs => (old, homeWrite tag a bs s)
  | none => (old, s)

/-- Take a die out of the directory for the time of an operation that leaves it alone. -/
def withoutSelf {α : Type} (d : Option (Fin 4)) (n : Nat) (f : M α) : M α := fun s =>
  match d with
  | none => f s
  | some d =>
    let e := dirOf s n
    match f (dirRemove d n s) with
    | .error x t => .error x (setDir n ⟨if e.owner = some d then e.owner else (dirOf t n).owner, (dirOf t n).sharers ||| (e.sharers &&& ((1 : BitVec 4) <<< d.val))⟩ t)
    | r => r

/-- One request for a line of this die, from its arrival to its answer; it waits for snoops, for its data, for a granule, or for the end of
die-quiet (R519, R545). -/
def homeServe (n : Fin 8) (w : Wire) : M Unit := fun s =>
  let m := w.m
  let a := m.addr.toNat
  let ln := a / 64
  let unit := Requester.door n
  let d := cohDie s m
  let held := (dirOf s ln).owner.any (fun o => some o = d) || d.any fun d => (dirOf s ln).sharers.getLsbD d.val
  let ready (write whole cur : Bool) : M (BitVec 4) := homeReady unit m.polder ln write whole cur
  let data (op : BitVec 6) (x : BitVec 512) (s : State) : State := respond m 3 op { ThMsg.zero with line := x } s
  if !s.ownMem a then .ok () (respondCmp m 3 s)
  else if s.power.inQuiet || s.power.rootOff then .error .wait s
  else if d.isNone && (w.op = 1 || w.op = 2 || w.op = 3 || w.op = 7 || w.op = 8) then .ok () (respondCmp m 4 s)
  else
    match w.op.toNat, d with
    | 1, some d =>
      match supplied unit ln s with
      | some x => .ok () (data 1 x (dirShare d ln s))
      | none =>
        match ready false false false s with
        | .error e s => .error e s
        | .ok r s =>
          if r ≠ 0 then .ok () (respondCmp m r s)
          else
            let alone := dirOf s ln = DirEntry.none && (holdings s ln).isEmpty && !s.unsaved a
            let x := viewLine s m.polder ln
            if alone then .ok () (data 2 x (dirOwn d ln s)) else .ok () (data 1 x (dirShare d ln (shareCopies ln s)))
    | 2, some d | 3, some d =>
      match supplied unit ln s with
      | some x => .ok () (data 3 x (dirOwn d ln (dropCopies ln (soil m.polder ln s))))
      | none =>
      match withoutSelf (some d) ln (ready true (w.op = 3 && held) true) s with
      | .error e s => .error e s
      | .ok r s =>
        if r ≠ 0 then .ok () (respondCmp m r s)
        else
          let x := viewLine s m.polder ln
          let s := dirOwn d ln (dropCopies ln (soil m.polder ln s))
          if w.op = 3 && held then .ok () (respond m 1 2 ThMsg.zero s) else .ok () (data 3 x s)
    | 4, _ =>
      match supplied unit ln s with
      | some x => .ok () (data 4 x s)
      | none =>
        match ready false false true s with
        | .error e s => .error e s
        | .ok r s => if r ≠ 0 then .ok () (respondCmp m r s) else .ok () (data 4 (viewLine s m.polder ln) s)
    | 5, _ | 6, _ =>
      match sentData n m s with
      | none => .error .wait s
      | some x =>
        match ready true (w.op = 5) false s with
        | .error e s => .error e s
        | .ok r s =>
          let s := dropData n m s
          if r ≠ 0 then .ok () (respondCmp m r s)
          else .ok () (respondCmp m 0 (homeMasked m.polder ln x.m.line (if w.op = 5 then BitVec.allOnes 64 else x.m.mask) s))
    | 7, some d => if s.th.txns.any fun t => t.line = ln then .error .wait s else .ok () (respondCmp m 0 (dirRemove d ln s))
    | 8, some d =>
      match if s.th.txns.any fun t => t.line = ln then none else sentData n m s with
      | none => .error .wait s
      | some x =>
        let s := dropData n m s
        if s.lost a then .ok () (respondCmp m 2 (dirRemove d ln s))
        else if held then .ok () (respondCmp m 0 (storeLine m.polder ln (pokeLine ln x.m.line (dirRemove d ln s))))
        else .ok () (respondCmp m 0 s)
    | 9, _ =>
      let dbl := m.size = 3
      if 9 < m.subop.toNat || (m.size ≠ 2 && m.size ≠ 3) || a % (if dbl then 8 else 4) ≠ 0 then .ok () (respondCmp m 4 s)
      else
        match ready true false false s with
        | .error e s => .error e s
        | .ok r s =>
          if r ≠ 0 then .ok () (respondCmp m r s)
          else
            let (old, s) := homeAtomic m.polder m.subop.toNat dbl a m.op0 m.op1 s
            .ok () (respond m 1 4 { ThMsg.zero with op0 := old } s)
    | 10, _ =>
      let op := m.subop.toNat
      if 3 < op then .ok () (respondCmp m 4 s)
      else if op = 0 then
        match cleanHome unit 0 ln m.polder s with
        | .error e s => .error e s
        | .ok r s => .ok () (respondCmp m (if r = 0 then 0 else 1) s)
      else if s.unsaved a then .error .wait (holdWrite (.req unit ln) (granOf a) s)
      else if s.lost a then .ok () (respondCmp m 2 s)
      else
        let run (s : State) : EStateM.Result Exit State Unit :=
          match d with
          | some d => .ok () (respondCmp m 0 (dirOwn d ln (dropCopies ln (soil m.polder ln (unspoil ln s)))))
          | none => .ok () (respondCmp m 0 (homeWrite m.polder (64 * ln) (List.replicate 64 0) s))
        if op ≠ 3 then
          match flushHome unit 0 op false ln m.polder s with
          | .error e s => .error e s
          | .ok r s => .ok () (respondCmp m (if r = 0 then 0 else 1) s)
        else if (snoopSet (dirOf s ln) true).isEmpty then run s
        else
          match ready true true false s with
          | .error e s => .error e s
          | .ok r s => if r ≠ 0 then .ok () (respondCmp m r s) else run s
    | _, _ => .ok () (respondCmp m 4 s)

/-- A request for a line has been answered: what another die has supplied for it is used up. -/
def clearSupply (unit : Requester) (n : Nat) (s : State) : State :=
  { s with th := { s.th with reqs := s.th.reqs.filter fun r => !(r.unit = unit && r.addr = 64 * n && r.answer.isSome) } }

/-- Serve the requests that wait at this die's homes, each line's in their order. A write-back or Evict passes a request of its line that waits, but
not one whose snoops are out: it is answered after that transaction (R547). -/
def serveQueue (s : State) : State :=
  s.th.queued.foldl (fun t e =>
    let keep (t : State) : State := { t with th := { t.th with queued := t.th.queued ++ [e] } }
    if e.2.op ≠ 7 && e.2.op ≠ 8 && t.th.queued.any (fun f => f.2.m.addr.toNat / 64 = e.2.m.addr.toNat / 64) then keep t
    else
      match homeServe e.1 e.2 t with
      | .ok _ u => clearSupply (.door e.1) (e.2.m.addr.toNat / 64) u
      | .error _ u => keep (t.waiting u)) { s with th := { s.th with queued := [] } } |> sendInts

/-- A value that a home has for a unit that reads line n of this die without caching it. -/
def supply (unit : Requester) (n : Nat) (x : BitVec 512) (s : State) : State :=
  { s with th := { s.th with reqs := s.th.reqs ++ [⟨unit, s.node, 0, 4, 64 * n, ThMsg.zero, 0xFF, 0, none, some (0, x)⟩] } }

/-- The unit of a transaction has been fenced since, and reopened or not: its floodgate's incarnation is newer than the stamp (R442, R443). -/
def Txn.late (t : Txn) (s : State) : Bool := t.m.port ≠ 0xFF && (s.stamp t.m.port.toNat ≠ t.m.inc || !(s.gate t.m.port.toNat).open_)

/-- A grant that a closed or newer floodgate discards is counted (R442). -/
def countLate (t : Txn) (s : State) : State :=
  let g := mget Gate.closed s.coff.gates t.m.port.toNat
  s.setGate t.m.port.toNat { g with drop := satInc g.drop }

/-- The dirty value of line n that another die has given up reaches memory, unless its page is lost: no agent writes that (R438). -/
def keepValue (t : Txn) (x : BitVec 512) (s : State) : State :=
  if s.lost (64 * t.line) then s else storeLine t.m.polder t.line (pokeLine t.line x s)

/-- The owner of line n on another die has given its value. A core's read brings the line into its caches in S. Ownership goes to a core, or to the
node that asked, with the value, unless the granule is unsaved (R25, R418) or the core has been fenced (R442, R443): then the value waits in
memory. A write of part of the line, and an atomic, find it there; one of the whole line discards it (R545). -/
def supplyTo (t : Txn) (x : BitVec 512) (s : State) : State :=
  let n := t.line
  match t.unit, t.op.toNat with
  | .core c, 1 => if t.late s then countLate t s else fetchLine c none t.m.polder n false (pokeLine n x (soil t.m.polder n s))
  | u, 1 => supply u n x s
  | .core c, 2 =>
    if t.late s then countLate t (keepValue t x s)
    else if s.unsaved (64 * n) then keepValue t x s
    else pokeLine n x (ownLine c none t.m.polder n s)
  | .door k, 2 => if t.move && !s.unsaved (64 * n) then supply (.door k) n x s else keepValue t x s
  | _, 5 => s
  | _, _ => keepValue t x s

/-- The WbLine of this line that has arrived, with its doorway. -/
def wbOf (s : State) (n : Nat) : Option (Fin 8 × Wire) := s.th.queued.find? fun e => e.2.op = 8 && e.2.m.addr.toNat / 64 = n

/-- An Evict of this line has arrived. -/
def evictOf (s : State) (n : Nat) : Bool := s.th.queued.any fun e => e.2.op = 7 && e.2.m.addr.toNat / 64 = n

/-- Every snoop of a transaction has been answered. -/
def finishTxn (t : Txn) (s : State) : State :=
  let n := t.line
  let s := { s with th := { s.th with txns := s.th.txns.filter fun u => !(u.line = n) } }
  match t.data with
  | some x => supplyTo t x s
  | none =>
    if t.op = 1 && (dirOf s n).owner.isSome then
      match readStack n t.m.polder s with
      | (false, s) => loseLine (64 * n) t.m.polder (0x30 + (stackOf (64 * n)).val) (setDir n DirEntry.none s)
      | (true, s) => supply t.unit n (viewLine s t.m.polder n) s
    else s

/-- A transaction whose snoops have all been answered ends. One whose line has a WbLine on its way waits for its data, which is the snoop data;
one whose owner has answered a read with I waits for that WbLine or an Evict (R547). -/
def settleTxn (u : State) (t : Txn) : State :=
  if !t.snoops.isEmpty then u
  else
    match wbOf u t.line with
    | some (k, w) =>
      match sentData k w.m u, srcDie w.m with
      | some x, some d => finishTxn { t with data := t.data.orElse fun _ => some x.m.line } (dirRemove d t.line u)
      | _, _ => u
    | none =>
      if !t.left then finishTxn t u
      else if evictOf u t.line then finishTxn t (setDir t.line { dirOf u t.line with owner := none } u)
      else u

def settleTxns (s : State) : State := s.th.txns.foldl settleTxn s

/-- Serve what waits, and end what has its answers. -/
def settleHome (s : State) : State := serveQueue (settleTxns (serveQueue s))

/-- A WbLine of die d for line n waits for its data; until that has come the die stays recorded (R547). -/
def writesBack (d : Fin 4) (n : Nat) (s : State) : Bool :=
  s.th.queued.any fun e => e.2.op = 8 && e.2.m.addr.toNat / 64 = n && e.2.m.src = BitVec.ofNat 3 d.val

/-- A snoop answer of die `d` to the snoop with this TAG: its holder's state after it, and its data if it held the newest value. -/
def snoopAnswer (d : Fin 4) (tag : BitVec 12) (state : BitVec 3) (x : Option (BitVec 512)) (s : State) : State :=
  let mine (t : Txn) : Bool := t.snoops.any fun p => p.1 = BitVec.ofNat 3 d.val && p.2 = tag
  match s.th.txns.find? mine with
  | none => s
  | some t =>
    let n := t.line
    let owner : Bool := (dirOf s n).owner = some d
    let left : Bool := t.op = 1 && owner && state = 0 && x.isNone
    let s := match state.toNat with
      | 0 => if left || writesBack d n s then s else dirRemove d n s
      | 1 => dirShare d n (dirRemove d n s)
      | _ => s
    let rest := t.snoops.filter fun p => !(p.1 = BitVec.ofNat 3 d.val && p.2 = tag)
    let t := { t with snoops := rest, data := x.orElse fun _ => t.data, left := t.left || left }
    settleHome { s with th := { s.th with txns := (s.th.txns.filter fun u => !(u.line = n)) ++ [t] } }

/-! ## Loss of doorways (R555, R556) -/

/-- Complete the outstanding requests that a test picks with STATUS 5. Those that no unit waits for end. -/
def failReqs (p : Req → Bool) (s : State) : State :=
  let gone (r : Req) : Bool := r.answer.isNone && p r
  let s := s.th.reqs.foldl (fun t r => if gone r then stepEnds r 5 t else t) s
  let rs := s.th.reqs.map fun r => if gone r then { r with answer := some (5, 0) } else r
  sendInts { s with th := { s.th with reqs := rs.filter fun r => !(r.unit.unwaited && r.answer.isSome) } }

/-- A doorway leaves the Active state. -/
def Door.down (d : Door) : Door :=
  { d with up := false, training := false, l1 := false, idle := false, nakOut := false, unacked := [], naks := 0, tx := [], txRest := [], inbox := [], partial_ := [] }

/-- Node k has no doorway left, and was not quiesced (R555). A transaction that waits for k alone ends: with the data that another die has
given, or else from the start. -/
def loseNode (n : Fin 8) (k : Nat) (s : State) : State :=
  let s := record 0x0C (0x38 + n.val) 0 1 (BitVec.ofNat 16 k) 0 s
  let s := { s with th := { s.th with lost := s.th.lost ||| ((1 : BitVec 8) <<< k) } }
  let s := failReqs (fun r => r.node = BitVec.ofNat 3 k) s
  let txns := (s.th.txns.map fun t => { t with snoops := t.snoops.filter fun p => p.1 ≠ BitVec.ofNat 3 k }).filter fun t => !t.snoops.isEmpty || t.data.isSome
  settleHome { s with th := { s.th with txns := txns, queued := s.th.queued.filter fun e => e.2.m.src ≠ BitVec.ofNat 3 k } }

/-- Of three doorways to one node, the highest-numbered idles (R538). -/
def settleIdle (s : State) : State :=
  { s with doors := s.doors.mapIdx fun i d =>
      if !d.up then d
      else
        match d.peer with
        | none => d
        | some k =>
          let set := (List.finRange 8).filter fun n => let e := s.doors[n.val]; e.up && e.peer = some k
          { d with idle := set.length = 3 && (set.getD 2 0).val = i } }

/-- The messages of a lost doorway that are not yet sent go by the other doorways of their node, but for the requests that the loss has completed
and their data (R537, R556). -/
def moveMsgs (k : BitVec 3) (gone : List (BitVec 12)) (ws : List Wire) (s : State) : State :=
  let dead (w : Wire) : Bool :=
    gone.contains w.m.tag && ((w.cls = 0 && w.op ≠ 0x18 && w.op ≠ 0x19) || (w.cls = 3 && (w.op = 5 || w.op = 6 || w.op = 7)))
  (ws.filter fun w => !dead w).foldl (fun t w =>
    let route := if w.cls = 0 then routeAddr w.op w.m.addr.toNat else if w.cls = 2 then some w.m.addr.toNat else none
    sendTo k.toNat route w t) s

/-- A doorway goes down; `lost` where that is a loss under R555 whatever its peer. The messages for a peer that has quiesced wait for it (R554). -/
def doorDown (n : Fin 8) (lost : Bool) (s : State) : State :=
  let d := s.doors[n.val]
  if !d.up then s.setDoor n { d.down with lost := d.lost || lost }
  else
    match d.peer with
    | none => s.setDoor n { d.down with lost := lost }
    | some k =>
      let quiet := s.th.quiesced.contains k
      let isLoss := lost || (k.toNat < 4 && !quiet)
      let down : State := settleIdle (s.setDoor n { d.down with lost := isLoss })
      if !isLoss || quiet then
        settleMoves { down with th := { down.th with held := if quiet then d.tx.map (fun w => (k, (if w.cls = 0 then routeAddr w.op w.m.addr.toNat else none), w)) ++ down.th.held else down.th.held } }
      else
        let mine (r : Req) : Bool := r.node = k && r.via = some n
        let tags := (down.th.reqs.filter fun r => mine r && r.answer.isNone).map (·.tag)
        let gone := settleMoves (moveMsgs k tags d.tx (moveTo k (failReqs mine down)))
        if !(gone.doorSet k.toNat).isEmpty then gone
        else if k = 4 then dieStop gone
        else if k.toNat < 4 then loseNode n k.toNat gone
        else failReqs (fun r => r.node = k) gone

end Machine
end Sys2Proof
end

