-- ==== Sys2Proof/Machine/SluiceBase.lean ====
section
/-! DEFINITION. The sluice's objects: regions and their checks, rings, completions, the error state and doorbells (R348 to R380). -/

namespace Sys2Proof
namespace Machine

/-- Work completion statuses (R367). -/
def stSuccess : BitVec 8 := 0x00
def stLocLen : BitVec 8 := 0x01
def stLocAccess : BitVec 8 := 0x02
def stRemAccess : BitVec 8 := 0x03
def stRemOp : BitVec 8 := 0x04
def stRetryExc : BitVec 8 := 0x05
def stRnrExc : BitVec 8 := 0x06
def stFlushed : BitVec 8 := 0x07
def stMemErr : BitVec 8 := 0x08
def stWaitBroken : BitVec 8 := 0x09
def stBadWr : BitVec 8 := 0x0A
def stNotPresent : BitVec 8 := 0x30

/-! ## Regions (R356 to R358) -/

def State.region (s : State) (i : Nat) : Region := mget Region.none s.sluice.regions i
def State.setRegion (s : State) (i : Nat) (r : Region) : State :=
  { s with sluice := { s.sluice with regions := mset Region.none s.sluice.regions i r } }

def keyIndex (k : BitVec 32) : Nat := (fld k 0 18).toNat
def keyGen (k : BitVec 32) : BitVec 14 := fld k 18 14

/-- The checks of R358 for n bytes at x; `right` is the bit of ACCESS. A message admitted before a revocation began goes on in
REVOKING (R402): `admitted`. -/
def regionOk (s : State) (polder : BitVec 12) (key : BitVec 32) (x n : Nat) (right : Nat) (admitted : Bool) : Bool :=
  let r := s.region (keyIndex key)
  (r.state = .valid || (admitted && r.state = .revoking)) && r.gen = keyGen key && r.polder = polder &&
    decide (r.base.toNat ≤ x) && decide (x + n ≤ r.base.toNat + r.len.toNat) && r.access.getLsbD right

/-- log2 of a region's page size. -/
def pageLog (r : Region) : Nat := match r.pgsz.toNat with | 0 => 12 | 1 => 21 | _ => 30

/-- The physical address of byte x of a region, from its page list (R357); the list is read under tag 0 (log entry 17). -/
def regionAddr (unit : Requester) (r : Region) (x : Nat) : M (BitVec 4 × Nat) := do
  let pg := 2 ^ pageLog r
  let b0 := r.base.toNat / pg * pg
  let e ← agentRead unit 0 true (r.plist.toNat + 8 * ((x - b0) / pg)) 8
  pure (e.1, fromLe e.2 / pg * pg + (x - b0) % pg)

/-- STATUS of an access, with 15, which no answer holds, for memory of a stack that the die lacks: a request there meets an access NAK (R9). -/
def statusAt (st : BitVec 4) (a : Nat) : BitVec 4 :=
  match place a with
  | .mem _ => if st = 3 && decide (0x3000000000 ≤ a % 0x4000000000) then 15 else st
  | _ => st

/-- Split [x, x + n) at page borders. -/
def pageSplit (pg : Nat) : Nat → Nat → Nat → List (Nat × Nat)
  | 0, _, _ => []
  | fuel + 1, x, n =>
    if n = 0 then []
    else
      let k := Nat.min n (pg - x % pg)
      (x, k) :: pageSplit pg fuel (x + k) (n - k)

/-- Read n bytes of a region at x; STATUS other than 0 is an error of memory. -/
def regionRead (unit : Requester) (r : Region) (x n : Nat) : M (BitVec 4 × List Byte) :=
  (pageSplit (2 ^ pageLog r) (n / 2 ^ pageLog r + 2) x n).foldlM (fun acc p => do
    if acc.1 ≠ 0 then pure acc
    else
      let a ← regionAddr unit r p.1
      if a.1 ≠ 0 then pure (a.1, [])
      else
        let d ← agentRead unit r.polder false a.2 p.2
        pure (statusAt d.1 a.2, acc.2 ++ d.2)) (0, [])

/-- The region's lines may be stashed into its wing (R387). -/
def stashWing (s : State) (r : Region) (n : Nat) : Option (Fin 4) :=
  if r.stash = 0 || 4 < r.stash.toNat then none
  else
    let w : Fin 4 := ⟨(r.stash.toNat - 1) % 4, Nat.mod_lt _ (by decide)⟩
    let x := s.wings[w.val]
    let pq := wingPq x r.polder
    let full := bit x.vpol 10 && decide ((fld pq 0 15).toNat ≤ wingLines x r.polder / 16)
    let set := (cset wingGeo x.cache n).ways
    let blocked := (List.range 16).all fun i =>
      wayOff x i || set.any fun p => p.1 = i && p.2.st.dirty && p.2.tag ≠ r.polder
    if nWings s.variant ≤ w.val || full || blocked then none else some w

/-- A line of a region is placed into the wing cache in state M; every other copy goes, and memory is not written (R387). -/
def stashLine (w : Fin 4) (tag : BitVec 12) (a : Nat) (bs : List Byte) (s : State) : State :=
  let n := a / 64
  let s := if s.ownMem a then soil tag n s else s
  let s := wingFill w ⟨n, .m, tag⟩ (dropCopies n s)
  pokeBytes a bs { s with mem := { s.mem with badDirty := mset none s.mem.badDirty n none } }

/-- A line that another die is home of, made this die's own for a placement into a wing cache: STATUS. -/
def ownFar (q : Nat) (w : Fin 4) (tag : BitVec 12) (a : Nat) : M (BitVec 4) := fun s =>
  let n := a / 64
  let on := dieHolds s n
  let unit := Requester.stash q w
  if on = some .m || on = some .e then .ok 0 (clearAnswers unit s)
  else
    match place a with
    | .mem d =>
      let rq := { ThMsg.zero with addr := BitVec.ofNat 52 (64 * n), polder := tag, size := 6 }
      let op : BitVec 6 := if on.isSome then 3 else 2
      match ask unit d.val op (64 * n) rq none s with
      | .ok r s => if r.1 ≠ 0 then .ok r.1 (clearAnswers unit s) else .error .wait (sendReq unit d.val op (64 * n) rq none (clearAnswers unit s))
      | .error e s => .error e s
    | _ => .ok 3 s

/-- Place bytes within one line of a region: into the wing cache, or in memory (R387). -/
def placeLine (unit : Requester) (r : Region) (a : Nat) (bs : List Byte) : M (BitVec 4) := fun s =>
  match stashWing s r (a / 64) with
  | some w =>
    if s.ownMem a then
      match homeReady unit r.polder (a / 64) true (bs.length = 64) false s with
      | .ok st s => if st = 0 then .ok 0 (stashLine w r.polder a bs s) else .ok st s
      | .error e s => .error e s
    else
      match place a, unit with
      | .mem d, .sluice q =>
        if s.ownDie d then .ok 3 (missed s)
        else
          match ownFar q w r.polder a s with
          | .ok st s => if st = 0 then .ok 0 (stashLine w r.polder a bs s) else .ok st s
          | .error e s => .error e s
      | _, _ => agentPut unit r.polder false a bs s
  | none => agentPut unit r.polder false a bs s

/-- Write bytes of a region at x, line by line. -/
def regionWrite (unit : Requester) (r : Region) (x : Nat) (bs : List Byte) : M (BitVec 4) :=
  (pageSplit (2 ^ pageLog r) (bs.length / 2 ^ pageLog r + 2) x bs.length).foldlM (fun acc p => do
    if acc ≠ 0 then pure acc
    else
      let a ← regionAddr unit r p.1
      if a.1 ≠ 0 then pure a.1
      else
        (splitLines a.2 p.2).foldlM (fun acc l => do
          if acc ≠ 0 then pure acc
          else
            let st ← placeLine unit r l.1 ((bs.drop (p.1 - x + (l.1 - a.2))).take l.2)
            pure (statusAt st l.1)) 0) 0

/-- Bring a region entry onto the die (R378); of more than 32,768 the one with the lowest index leaves (log entry 18). -/
def bringRegion (i : Nat) (s : State) : State :=
  let r := s.region i
  if r.onDie || r.state = .free then s
  else
    let s := countMiss s
    let on := s.sluice.regions.filter fun e => e.2.onDie
    let s := match decide (32768 ≤ on.length), on with
      | true, e :: _ => s.setRegion e.1 { e.2 with onDie := false }
      | _, _ => s
    s.setRegion i { r with onDie := true }

/-! ## Rings and completions (R349, R366 to R370) -/

def ringSize (log : BitVec 5) : Nat := 2 ^ log.toNat

/-- Read an entry of a ring: its bytes, or the status that fails the queue pair. -/
def ringRead (q : Nat) (x : QueuePair) (key : BitVec 32) (base : Word) (log : BitVec 5) (i : BitVec 32) (size : Nat) :
    M (Except (BitVec 8) (List Byte)) := do
  let a := base.toNat + i.toNat % ringSize log * size
  modify (bringRegion (keyIndex key))
  let s ← get
  if !regionOk s x.polder key a size 0 false then pure (.error stLocAccess)
  else
    let d ← regionRead (.sluice q) (s.region (keyIndex key)) a size
    pure (if d.1 = 0 then .ok d.2 else .error stMemErr)

/-- A completion entry's four doublewords (R366). -/
def cqeWords (q : Nat) (x : QueuePair) (wrid : Word) (status op : BitVec 8) (rx : Bool) (bytes imm : BitVec 32) : List Word :=
  [wrid,
   put status 0 ||| put op 8 ||| flag rx 16 ||| put (BitVec.ofNat 20 q) 32,
   put bytes 0 ||| put imm 32,
   put x.peer 0 ||| put x.peerQpn 16 ||| flag (x.cqPi.toNat / ringSize x.cqLog % 2 = 0) 63]

/-- Write one completion entry; the answer is 0, or the status with which the queue pair fails (R366, R370). -/
def putCqe (q : Nat) (wrid : Word) (status op : BitVec 8) (rx : Bool) (bytes imm : BitVec 32) : M (BitVec 8) := do
  modify fun s => match s.qp q with | some x => bringRegion (keyIndex x.cqKey) s | none => s
  let s ← get
  match s.qp q with
  | none => pure 0
  | some x =>
    let a := x.cqAddr.toNat + x.cqPi.toNat % ringSize x.cqLog * 32
    if !regionOk s x.polder x.cqKey a 32 1 false then
      modify (irteMessage x.irte.toFin)
      pure stLocAccess
    else
      let bs := (cqeWords q x wrid status op rx bytes imm).flatMap fun w => toLe 8 w.toNat
      let st ← regionWrite (.sluice q) (s.region (keyIndex x.cqKey)) a bs
      if st ≠ 0 then
        modify (irteMessage x.irte.toFin)
        pure stMemErr
      else
        modify fun s =>
          let s := s.setQp q { x with cqPi := x.cqPi + 1, arm := false }
          if x.arm then irteMessage x.irte.toFin s else s
        pure 0

/-- A free value inside an operation. -/
def takeFree : M Word := fun s => .ok s.free.1 s.free.2

/-- Complete the posted work requests or receive descriptors of a ring with FLUSHED, `n` of them (R377 steps 3 and 4). A WRID
that cannot be read, and the OP of a descriptor that no message reached, are not stated: free values. -/
def flushRing (q : Nat) (rx : Bool) : Nat → M Unit
  | 0 => pure ()
  | n + 1 => do
    let s ← get
    match s.qp q with
    | none => pure ()
    | some x =>
      let e ← if rx then ringRead q x x.rqKey x.rqAddr x.rqLog x.rqCi 32 else ringRead q x x.sqKey x.sqAddr x.sqLog x.sqCi 64
      let f ← takeFree
      let (wrid, op) := match e with
        | .ok bs =>
          if rx then (BitVec.ofNat 64 (fromLe (bs.take 8)), fld f 0 8)
          else (BitVec.ofNat 64 (fromLe ((bs.drop 8).take 8)), bs.getD 0 0)
        | .error _ => (f, 0)
      let _ ← putCqe q wrid stFlushed op rx 0 0
      modify fun s => match s.qp q with
        | some x => s.setQp q (if rx then { x with rqCi := x.rqCi + 1 } else { x with sqCi := x.sqCi + 1 })
        | none => s
      flushRing q rx n

/-- Bytes that a work request had moved when it failed: of a READ, what it placed. How much of a WRITE or SEND under way has reached its target
is not stated: a free value up to what was sent (log entry 130). -/
def bytesMoved (mtu : Nat) (o : OpenWr) (f : Word) : Nat :=
  match o.wr.op.toNat with
  | 1 | 3 => f.toNat % (Nat.min (o.sent * mtu) o.wr.len.toNat + 1)
  | _ => o.got

/-- The completion of a work request that is not the levee's. -/
def flushOpen (q mtu : Nat) (o : OpenWr) (status : BitVec 8) : M Unit := do
  match o.levee with
  | some _ => pure ()
  | none =>
    let f ← takeFree
    let _ ← putCqe q o.wr.wrid status o.wr.op false (BitVec.ofNat 32 (bytesMoved mtu o f)) 0
    pure ()

/-- The receive entry of a message, where it has one: a SEND or a WRITE with NOTIFY (R366, R368). -/
def putRxCqe (q : Nat) (m : RxMsg) (status : BitVec 8) : M (BitVec 8) :=
  if m.typ = 2 || m.notify then putCqe q m.wrid status (if m.typ = 2 then 3 else 1) true (BitVec.ofNat 32 m.got) m.imm
  else pure 0

/-- The regions forget the messages of a queue pair (R403). -/
def closeMessages (q : Nat) (s : State) : State :=
  { s with sluice := { s.sluice with regions := s.sluice.regions.map fun e => (e.1, { e.2 with open_ := e.2.open_.filter fun m => m.1 ≠ q }) } }

/-- Shards with remote slots on a queue pair that fails abort their checkpoint, or meet a fault of their restore (R427, R431). Its WRITEs are
all at an end, and with them the use of the staging granules. -/
def abortRemote (q : Nat) (s : State) : State :=
  (List.finRange 16).foldl (fun t i =>
    let x := t.shard i
    if !x.remote || x.qpn ≠ q then t
    else
    let x := { x with staged := [] }
    let t := t.setShard i x
    if x.busy then abortCheckpoint i 0x02 t
    else if x.state = .restoring then t.setShard i { x with phase := 2 }
    else t) s

/-- The WAIT that a queue pair's send queue has reached and that is not satisfied: its place among the open work requests (R372). -/
def waitAt (x : QueuePair) : Option Nat := x.opens.findIdx? fun o => o.wr.op = 7 && o.done.isNone

/-- Queue pairs whose held WAIT names q. -/
def waitersOn (q : Nat) (s : State) : List Nat :=
  s.sluice.qps.filterMap fun e => match e.2 with
    | some y => match y.held with
      | some (w, _, _) => if w = q && e.1 ≠ q then some e.1 else none
      | none => none
    | none => none

/-- One queue pair enters ERROR (R377); `cause` is the open work request that failed. Its context is fetched for it (R378, R380). The queue
pairs whose WAIT breaks by it are returned (R373). -/
def failOne (q : Nat) (status : BitVec 8) (cause : Option Nat) : M (List Nat) := do
  modify (fetchQp q)
  let s ← get
  match s.qp q with
  | none => pure []
  | some x =>
    if x.state = 4 then pure []
    else
      let opens := x.opens
      let inRx := x.rx.toList ++ x.early
      set (closeMessages q (s.setQp q { x with state := 4, err := status, unacked := [], opens := [], held := none, backoff := none, rx := none, early := [], ahead := [] }))
      match cause with
      | some i => match opens[i]? with
        | some o => flushOpen q x.mtuBytes o status
        | none => pure ()
      | none => pure ()
      let rest := (List.range opens.length).filter fun i => some i ≠ cause
      rest.forM fun i => match opens[i]? with
        | some o => flushOpen q x.mtuBytes o stFlushed
        | none => pure ()
      let s ← get
      match s.qp q with
      | none => pure []
      | some x =>
        flushRing q false (x.sqPi - x.sqCi).toNat
        inRx.forM fun m => do
          let _ ← putRxCqe q m stFlushed
          pure ()
        let s ← get
        let x := (s.qp q).getD x
        flushRing q true (x.rqPi - x.rqCi).toNat
        modify (abortRemote q)
        let s ← get
        pure (waitersOn q s)

/-- Queue pairs enter ERROR one after the other, each breaking the WAITs that name it (R373, R377). -/
def failMany : Nat → List (Nat × BitVec 8 × Option Nat) → M Unit
  | 0, _ => pure ()
  | _ + 1, [] => pure ()
  | fuel + 1, (q, st, cause) :: rest => do
    let more ← failOne q st cause
    let s ← get
    failMany fuel (rest ++ more.map fun w => (w, stWaitBroken, (s.qp w).bind waitAt))

def failQp (q : Nat) (status : BitVec 8) (cause : Option Nat) : M Unit := do
  let s ← get
  failMany (2 * s.sluice.qps.length + 2) [(q, status, cause)]

/-- The WAITs on a queue pair that leaves INIT for RESET break: its counters can advance no longer (R367, R373; log entry 145). -/
def breakWaits (q : Nat) : M Unit := do
  let s ← get
  failMany (2 * s.sluice.qps.length + 2) ((waitersOn q s).map fun w => (w, stWaitBroken, (s.qp w).bind waitAt))

/-- Write a completion entry; a failure of the ring fails the queue pair (R370). -/
def complete (q : Nat) (wrid : Word) (status op : BitVec 8) (rx : Bool) (bytes imm : BitVec 32) : M Unit := do
  let st ← putCqe q wrid status op rx bytes imm
  if st ≠ 0 then failQp q st none else pure ()

/-! ## Doorbells (R351 to R354, R376) -/

/-- A doorbell value v against a ring of N entries: R353. The answer is the new index, none when v is behind, or BAD_WR. -/
def ringDoorbell (v pi ci : BitVec 32) (n : Nat) : Except Unit (Option (BitVec 32)) :=
  if 2 ^ 31 ≤ (v - pi).toNat then .ok none
  else if n < (v - ci).toNat then .error ()
  else .ok (some v)

/-- A store to SQ_PI or RQ_PI of an existing queue pair, compared and accepted. -/
def doorbell (q : Nat) (rx : Bool) (v : BitVec 32) : M Unit := do
  let s ← get
  match s.qp q with
  | none => pure ()
  | some x =>
    if x.state = 0 then pure ()
    else
      modify (fetchQp q)
      let s ← get
      let x := (s.qp q).getD x
      let (pi, ci, n) := if rx then (x.rqPi, x.rqCi, ringSize x.rqLog) else (x.sqPi, x.sqCi, ringSize x.sqLog)
      match ringDoorbell v pi ci n with
      | .ok none => pure ()
      | .error () => failQp q stBadWr none
      | .ok (some v) =>
        modify fun s => s.setQp q (if rx then { x with rqPi := v } else { x with sqPi := v })
        if x.state = 4 then flushRing q rx (v - ci).toNat

/-- A store to the doorbell page of queue pair q (R352). DESIGN CHOICE: a store of ARM = 0 to CQ_ARM disarms; R370 tells what a store of 1
does alone (log entry 146). -/
def bellStore (q off size : Nat) (v : Word) (tag : BitVec 12) (trusted : Bool) : M Unit := do
  let s ← get
  match s.qp q with
  | none => pure ()
  | some x =>
    if size ≠ 8 || (!trusted && tag ≠ x.polder) then
      set { s with sluice := { s.sluice with dbdrop := satInc s.sluice.dbdrop } }
    else if off ≠ 0 && off ≠ 8 && off ≠ 0x10 then pure ()
    else if off = 0 then doorbell q false (fld v 0 32)
    else if off = 8 then doorbell q true (fld v 0 32)
    else if x.state = 0 then pure ()
    else set (s.setQp q { x with arm := bit v 0 })

end Machine
end Sys2Proof
end

