-- ==== Sys2Proof/Machine/Regs.lean ====
section
/-! DEFINITION. Writes to control space and to doorbell pages, by a core, the host, the pumphouse's hatch or another die (R16 to R18,
R340, R470, R578, R579 and the register tables). -/

namespace Sys2Proof
namespace Machine

/-! ## Interrupt router -/

/-- A write to IRTEn (R304, R305). -/
def irteStore (n : Fin 1024) (v : Word) : M Unit := fun s =>
  let old := s.irte n
  let new := irteFields v ||| (old &&& ~~~(irteFields (BitVec.allOnes 64)))
  if irteBad s new then .error (.stop 304) s
  else if irtePend old then
    if irteEn new then .ok () (irteDeliver n new s) else .ok () (s.setIrte n (irteCounted (setFld new 1 (0 : BitVec 1))))
  else .ok () (s.setIrte n new)

/-- A write to ISWI of a core (R304): it is excepted from R18. -/
def iswiStore (c : CoreId) (v : Word) (s : State) : State :=
  if !s.present c || s.offline c || (fld v 0 8).ult 0x28 || fld v 8 2 = 0 then s
  else pendIrq c (fld v 0 8) (fld v 8 2) 0 s

/-! ## Wings -/

/-- A way is disabled: its lines are written back when dirty and dropped, and it is never filled again (R311). -/
def disableWay (w : Fin 4) (way : Nat) (s : State) : State :=
  let x := s.wings[w.val]
  if wayOff x way then s
  else
    let es := x.cache.filterMap fun e => (e.2.ways.find? fun p => p.1 = way).map (·.2)
    let s := es.foldl (fun t e => let t := if e.st.dirty then meetArray (.wing w) e.line t else t; wingEvict w e (t.modWing w (·.dropLine e.line))) s
    s.modWing w fun x => { x with waydis := x.waydis ||| ((1 : BitVec 16) <<< way) }

/-- WING_WAYDIS as the pumphouse writes it: bits that it sets disable ways. One way stays enabled (R311): DESIGN CHOICE: a store that would
disable every way is ignored whole (log entry 151). -/
def wayDisStore (w : Fin 4) (v : BitVec 16) (s : State) : State :=
  if (s.wings[w.val]).waydis ||| v = BitVec.allOnes 16 then s else (List.range 16).foldl (fun t i => if v.getLsbD i then disableWay w i t else t) s

def pqStore (w : Fin 4) (p : Nat) (v : BitVec 32) (s : State) : State :=
  s.modWing w fun x => { x with pq := mset 0x4000 x.pq p (v &&& 0xFFFF) }

/-! ## Porch -/

/-- Replies that wait are written while the reply ring has room (R486). -/
def porchResume : Nat → State → State
  | 0, s => s
  | fuel + 1, s =>
    match s.porch.waiting with
    | r :: rest => if s.rfull then s else porchResume fuel (writeReply r { s with porch := { s.porch with waiting := rest } })
    | [] => s

/-- PO_RPLCI: replies consumed by the host. -/
def rplciStore (v : BitVec 32) (s : State) : State :=
  let s := { s with porch := { s.porch with rplCi := v } }
  if s.coff.dieStop then s else porchResume s.porch.waiting.length s

/-- PO_CMDPI, with its unchecked errors (R501), and the pumphouse's event 0 (R475). -/
def cmdpiStore (v : BitVec 32) : M Unit := fun s =>
  let p := s.porch
  if 256 < (v - p.cmdCi).toNat || 2 ^ 31 ≤ (v - p.cmdPi).toNat then .error (.stop 501) s
  else .ok () (setEvent 0 { s with porch := { p with cmdPi := v } })

/-- Bytes of a command slot; a slot that PO_CMDCI has not passed must not be written (R501). -/
def slotStore (o n : Nat) (v : Word) : M Unit := fun s =>
  let p := s.porch
  let slot := o / 64
  let ahead := (slot + 256 - p.cmdCi.toNat % 256) % 256
  if ahead < (p.cmdPi - p.cmdCi).toNat then .error (.stop 501) s
  else
    let i := o / 8
    let old := (mget 0 p.slots i).toNat
    let lo := 256 ^ (o % 8)
    let new := old % lo + (v.toNat % 256 ^ n) * lo + old / (lo * 256 ^ n) * (lo * 256 ^ n)
    .ok () { s with porch := { p with slots := mset 0 p.slots i (BitVec.ofNat 64 new) } }

def replySlotStore (i : Nat) (v : Word) (s : State) : State :=
  { s with porch := { s.porch with replies := mset 0 s.porch.replies i v } }

/-! ## Threshold windows (R549) -/

def winBase (x : Window) : Nat := x.base.toNat
def winSize (x : Window) : Nat := 2 ^ (fld x.ctl 0 6).toNat

/-- An enabled window breaks a rule of R549. -/
def winBad (ws : List Window) : Bool :=
  let on := ws.filter fun x => bit x.ctl 6
  on.any (fun x =>
    let l := (fld x.ctl 0 6).toNat
    l < 20 || 48 < l || winBase x % winSize x ≠ 0 || winBase x < 0x1000000000000 || 0x2000000000000 < winBase x + winSize x ||
      (fld x.ctl 9 3).ult 4) ||
  (List.range on.length).any fun i => (List.range on.length).any fun j =>
    match on[i]?, on[j]? with
    | some a, some b => i < j && winBase a < winBase b + winSize b && winBase b < winBase a + winSize a
    | _, _ => false

def windowStore (w : Fin 16) (o : Nat) (v : Word) : M Unit := fun s =>
  if s.th.lock then .ok () s
  else
    let x := s.th.windows[w.val]
    let y : Window := match o with
      | 0 => { x with base := v &&& 0xFFFFFFFF00000 }
      | 8 => { x with ctl := v &&& 0xFFF }
      | 16 => { x with xlat := v }
      | _ => x
    let ws := s.th.windows.set w.val y
    if o = 8 && fld y.ctl 7 2 = 3 then .error (.stop 18) s
    else if winBad ws.toList then .error (.stop 549) s else .ok () { s with th := { s.th with windows := ws } }

/-! ## Doorways -/

/-- DW_CTL without its RETRAIN bit (R530, "Registers"): clearing EN takes the doorway down. -/
def dwCtlStore (n : Fin 8) (v : Word) (s : State) : State :=
  let s := s.modDoor n fun d => { d with ctl := v &&& 0x1D }
  let b : BitVec 8 := (1 : BitVec 8) <<< n.val
  if bit v 0 then { s with power := { s.power with doorLock := s.power.doorLock ||| b } }
  else doorDown n false { s with power := { s.power with doorLock := s.power.doorLock &&& ~~~b } }

/-! ## Pumphouse SRAM (R457, R468) -/

/-- These bytes have been written afresh: their check bits are good. -/
def Pump.freshCheck (p : Pump) (a n : Nat) : Pump :=
  let out (x : Nat) : Bool := !(decide (a ≤ x) && decide (x < a + n))
  { p with badSram := p.badSram.filter out, softSram := p.softSram.filter out }

/-- A store to the view of data SRAM, which accepts every aligned size (R578; log entry 150). -/
def viewStore (o n : Nat) (v : Word) (s : State) : State :=
  let p := s.pump.freshCheck (0xA000 + o) n
  { s with pump := { p with data := wrBytes p.data o (toLe n v.toNat) } }

/-! ## Registers that the pumphouse writes through the hatch (R470, R579) -/

/-- An event record: of one in the queue its fields, of another the words that its place holds. -/
def eventStore (q o : Nat) (v : Word) (s : State) : State :=
  let i := (q + 256 - s.coff.evHead.toNat) % 256
  if s.coff.events.length ≤ i then { s with coff := { s.coff with records := mset 0 s.coff.records (4 * q + o / 8) v } }
  else
  { s with coff := { s.coff with events := s.coff.events.mapIdx fun j e =>
      if j ≠ i then e
      else
        match o with
        | 0 => { e with kind := fld v 0 8, port := fld v 8 8, inc := fld v 16 8, polder := fld v 24 12, sev := fld v 36 2, detail := fld v 48 16 }
        | 8 => { e with addr := v }
        | 16 => { e with ltime := v }
        | _ => { e with seq := fld v 0 32, rep := fld v 32 32 } } }

/-- CF_EVHEAD: the records before the new head have been dealt with. -/
def evHeadStore (h : BitVec 8) (s : State) : State :=
  let k := (h - s.coff.evHead).toNat
  if s.coff.events.length < k then s else (List.range k).foldl (fun t _ => popEvent t) s

def lptStore (i : Nat) (v : Word) (s : State) : State :=
  let e : Option LostPage := if bit v 0 then some ⟨fld v 12 40, fld v 52 12, bit v 1⟩ else none
  { s with coff := { s.coff with lpt := mset none s.coff.lpt i e } }

/-- The cofferdam block. The counts of CF_STAT and LPT_STAT, and FULL, follow the queue and the entries; a die stop lasts until a reset (R454; log
entry 148). -/
def hatchCofferdam (o : Nat) (v : Word) (s : State) : State :=
  let f := s.coff
  match o with
  | 0x0000 => (if bit v 0 && !f.dieStop then dieStop else id) { s with coff := { f with recovering := bit v 1 } }
  | 0x0018 => { s with coff := { f with lptHigh := bit v 16 } }
  | 0x0020 => { s with coff := { f with spareFree := fld v 0 2, nFenced := fld v 8 8 } }
  | 0x0028 => evHeadStore (fld v 0 8) s
  | _ =>
    if 0x0100 ≤ o && o < 0x0200 then
      { s with coff := { f with cmap := f.cmap.set ((o - 0x100) / 8 % 32) (fld v 0 6, bit v 6) (Nat.mod_lt _ (by decide)) } }
    else if 0x1000 ≤ o && o < 0x3000 then lptStore ((o - 0x1000) / 8) v s
    else if 0x4000 ≤ o && o < 0x4218 then s.setGate ((o - 0x4000) / 8) ⟨fld v 0 8, bit v 8, fld v 32 32⟩
    else if 0x6000 ≤ o && o < 0x8000 then eventStore ((o - 0x6000) / 0x20) (o % 0x20) v s
    else s

/-- SB_STAT: the filtered inputs, their masks, and the outputs that it shows. -/
def hatchSide (v : Word) (s : State) : State :=
  let b := s.side
  let p0 : Pin := { b.pins[0] with filt := bit v 0, masked := bit v 2 }
  let p1 : Pin := { b.pins[1] with filt := bit v 1, masked := bit v 3, stuck := b.pins[1].stuck && bit v 3 }
  { s with side := { b with pins := (b.pins.set 0 p0).set 1 p1, faultLow := bit v 4, beatLow := bit v 5 } }

/-- The clocks and power block. -/
def hatchPower (o : Nat) (v : Word) (s : State) : State :=
  let p := s.power
  match o with
  | 0x0000 => { s with power := { p with rootLock := bit v 0, stackLock := fld v 1 4, doorLock := fld v 5 8 } }
  | 0x0008 => { s with power := { p with pwStep := fld v 4 4, thStep := fld v 8 4, alert := bit v 12, critical := bit v 13, inQuiet := bit v 15 } }
  | 0x0010 => { s with power := { p with limit := fld v 0 16 } }
  | 0x0018 => { s with power := { p with power := fld v 0 32 } }
  | 0x0020 => { s with cores := s.cores.mapIdx fun i k => { k with door := fld v (2 * i) 2 } }
  | 0x0028 => { s with power := { p with quiet := fld v 0 32 } }
  | 0x0030 => { s with power := { p with tThrottle := fld v 0 8, tCritical := fld v 8 8 } }
  | 0x0040 => { s with power := { p with rstCause := fld v 0 3 } }
  | 0x0200 => hatchSide v s
  | _ => if 0x0100 ≤ o && o < 0x0200 then s.modCore ⟨(o - 0x100) / 8 % 32, Nat.mod_lt _ (by decide)⟩ fun k => { k with tol := fld v 0 32 } else s

/-- The pumphouse block. LOCK stays set until a reset, and BOOTROM does not come back (R469; log entry 148). -/
def hatchPump (o : Nat) (v : Word) (s : State) : State :=
  let p := s.pump
  match o with
  | 0x0000 =>
    { s with pump := { p with
        run := bit v 0, halt := bit v 1, lock := p.lock || bit v 2, bootrom := p.bootrom && bit v 3, hcause := fld v 8 4, haltPc := fld v 16 16 } }
  | 0x0008 => { s with pump := { p with fwid := v &&& 0xFFFFFFFF } }
  | 0x0018 => { s with pump := { p with mboxr := v } }
  | 0x0040 => { s with pump := { p with mvAddr := v &&& 0xFFFFFFFFFFFFF } }
  | 0x0048 => { s with pump := { p with mvSram := v &&& 0xFFFF } }
  | _ => s

/-- PH_MVCTL: a write with GO starts a move unless BUSY is 1; GO reads as it was written, and BUSY and ERR are the mover's (R474).
The move itself is performed by MOVER_DONE. -/
def mvctlStore (v : Word) (s : State) : State :=
  let p := s.pump
  if bit p.mvCtl 18 then s
  else
    let w := v &&& 0xFFF00031FFF
    if !bit v 17 then { s with pump := { p with mvCtl := w } }
    else
      let n := (fld v 0 13).toNat
      let a := p.mvSram.toNat
      let data := 0xA000 ≤ a && a + n ≤ 0xE000
      let code := a + n ≤ 0xA000 && !p.lock
      if n = 0 || 4096 < n || !(data || code) then setEvent 4 { s with pump := { p with mvCtl := w ||| flag true 19 } }
      else { s with pump := { p with mvCtl := w ||| flag true 18 } }

/-- A hatch store to a register that is RO for every other writer (R470). -/
def hatchStore (off : Nat) (v : Word) (s : State) : State :=
  if 0x10000 ≤ off && off < 0x20000 then
    let o := off - 0x10000
    let p := s.porch
    match o with
    | 0x0000 => { s with porch := { p with ready := bit v 0, fwOnly := bit v 1, down := bit v 3 } }
    | 0x0010 => { s with porch := { p with cmdCi := fld v 0 32 } }
    | 0x0018 => { s with porch := { p with rplPi := fld v 0 32 } }
    | _ => if 0xC000 ≤ o && o < 0xE000 then replySlotStore ((o - 0xC000) / 8) v s else s
  else if 0x20000 ≤ off && off < 0x40000 then if off = 0x20050 then mvctlStore v s else hatchPump (off - 0x20000) v s
  else if 0x80000 ≤ off && off < 0x100000 && off % 0x20000 = 8 then
    wayDisStore ⟨(off - 0x80000) / 0x20000 % 4, Nat.mod_lt _ (by decide)⟩ (fld v 0 16) s
  else if 0x440000 ≤ off && off < 0x480000 then hatchCofferdam (off - 0x440000) v s
  else if 0x480000 ≤ off && off < 0x4C0000 then hatchPower (off - 0x480000) v s
  else if 0x4C0000 ≤ off && off < 0x500000 then
    let t := { s.telem with inFlight := [] }
    match off - 0x4C0000 with
    | 0x0000 => { s with telem := { t with running := bit v 0, stopped := bit v 1 } }
    | 0x0008 => { s with telem := { t with base := v &&& 0xFFFFFFFFFFE00 } }
    | 0x0010 => { s with telem := { t with log2 := fld v 0 5, interval := fld v 32 32 } }
    | 0x0018 => { s with telem := { t with seq := fld v 0 32 } }
    | o =>
      if h : 0x0100 ≤ o ∧ o < 0x0400 then
        { s with power := { s.power with sensors := s.power.sensors.set ((o - 0x100) / 8) (fld v 0 16) (by omega) } }
      else s
  else if 0x500000 ≤ off && off < 0x600000 && off % 0x40000 = 0x40 then
    let k : Fin 4 := ⟨(off - 0x500000) / 0x40000 % 4, Nat.mod_lt _ (by decide)⟩
    setCtrl k { s.mem.ctrls[k.val] with ppr := v } { s with asked := s.asked ++ [(off, v)] }
  else s

/-! ## Registers that every writer may write -/

def sluiceStore (o : Nat) (v : Word) (s : State) : State :=
  let x := s.sluice
  let n : BitVec 32 := fld v 0 32
  match o with
  | 0x0010 => { s with sluice := { x with dbdrop := n } }
  | 0x0030 => { s with sluice := { x with ctxmiss := n } }
  | 0x0040 => { s with sluice := { x with revdrop := n } }
  | 0x0048 => { s with sluice := { x with rxdrop := n } }
  | 0x0058 => { s with sluice := { x with retx := n } }
  | 0x0060 => { s with sluice := { x with cemark := n } }
  | _ => s

def leveeStore (o : Nat) (v : Word) (s : State) : State :=
  let l := s.levee
  match o with
  | 0x0008 => { s with levee := { l with holds := fld v 0 32 } }
  | 0x0010 => { s with levee := { l with holdmax := fld v 0 16 } }
  | 0x0018 => { s with levee := { l with tagdrop := fld v 0 32 } }
  | _ =>
    if 0x0400 ≤ o && o < 0x0800 then
      let i : Fin 16 := ⟨o / 0x40 % 16, Nat.mod_lt _ (by decide)⟩
      match o % 0x40 with
      | 0x08 => leveeTmr i v s
      | 0x10 => s.setShard i { s.shard i with steps := fld v 0 32 }
      | 0x28 => s.setShard i { s.shard i with skip := fld v 0 32 }
      | _ => s
    else s

def cofferdamStore (o : Nat) (v : Word) (s : State) : State :=
  match o with
  | 0x0008 => { s with coff := { s.coff with evDrop := fld v 0 32 } }
  | 0x0010 => { s with coff := { s.coff with defCore := fld v 0 5 } }
  | _ =>
    if 0x0400 ≤ o && o < 0x0500 then s.modCore ⟨(o - 0x400) / 8 % 32, Nat.mod_lt _ (by decide)⟩ fun k => { k with note := k.note &&& ~~~v }
    else s

def sideStore (o : Nat) (v : Word) (s : State) : State :=
  let b := s.side
  match o with
  | 0x0208 => { s with side := { b with log := b.log &&& ~~~(fld v 0 6) } }
  | 0x0210 => { s with side := { b with storms := #v[fld v 0 16, fld v 16 16, fld v 32 16] } }
  | 0x0218 => { s with side := { b with shorts := fld v 0 16 } }
  | 0x0038 => if fld v 0 16 = 0x5752 then { s with asked := s.asked ++ [(0x480038, v)] } else s
  | _ => s

def ctrlStore (k : Fin 4) (o : Nat) (v : Word) : M Unit := fun s =>
  let x := s.mem.ctrls[k.val]
  if nStacks s.variant ≤ k.val then .ok () s
  else
    match o with
    | 0x0008 => .ok () (setCtrl k { x with cecnt := fld v 0 32 } s)
    | 0x0010 => .ok () (setCtrl k { x with uecnt := fld v 0 32 } s)
    | 0x0018 => .ok () (setCtrl k { x with iecc := fld v 0 32 } s)
    | 0x0030 => if fld v 0 16 = 0 then .error (.stop 333) s else .ok () (setCtrl k { x with scrub := v &&& 0x1FFFF } s)
    | _ => .ok () s

def doorStore (n : Fin 8) (o : Nat) (v : Word) (s : State) : State :=
  match o with
  | 0x0008 =>
    if bit v 1 then { s with asked := s.asked ++ [(0x600008 + 0x10000 * n.val, v)] } else dwCtlStore n v s
  | 0x0010 => s.modDoor n fun d => { d with crcerr := fld v 0 32 }
  | 0x0018 => s.modDoor n fun d => { d with replay := fld v 0 32 }
  | 0x0020 => s.modDoor n fun d => { d with retrains := fld v 0 16 }
  | 0x0040 => s.modDoor n fun d => { d with fgdrop := fld v 0 32 }
  | _ => s

def threshStore (o : Nat) (v : Word) : M Unit := fun s =>
  match o with
  | 0x0018 => .ok () { s with th := { s.th with lock := s.th.lock || bit v 0 } }
  | 0x0020 => .ok () { s with th := { s.th with miss := fld v 0 32 } }
  | _ =>
    if 0x0100 ≤ o && o < 0x0300 then windowStore ⟨(o - 0x100) / 0x20 % 16, Nat.mod_lt _ (by decide)⟩ (o % 0x20) v s else .ok () s

/-- A write of 8 bytes at an aligned offset. -/
def regWrite8 (by_ : Writer) (off : Nat) (v : Word) : M Unit := fun s =>
  if off < 0x010000 then .ok () s
  else if off < 0x020000 then
    match off - 0x010000 with
    | 0x0008 => cmdpiStore (fld v 0 32) s
    | 0x0020 => .ok () (rplciStore (fld v 0 32) s)
    | 0x0028 => .ok () { s with porch := { s.porch with mirror := v &&& 0xFFFFFFFFFE001 } }
    | 0x0030 => .ok () { s with porch := { s.porch with hostIrq := v &&& 0xFFFF0001 } }
    | _ => .ok () s
  else if off < 0x040000 then
    let p := s.pump
    match off - 0x020000 with
    | 0x0010 => .ok () (setEvent 3 { s with pump := { p with mbox := v } })
    | 0x0020 => .ok () { s with pump := { p with ecc := fld v 0 16 } }
    | 0x0028 => .ok () { s with pump := { p with hatchErr := fld v 0 16, codeErr := fld v 16 16 } }
    | _ => .ok () s
  else if off < 0x080000 then
    let o := off - 0x040000
    if h : o / 8 < 1024 then irteStore ⟨o / 8, h⟩ v s
    else if 0x8000 ≤ o && o < 0x8800 then
      let c : CoreId := ⟨(o - 0x8000) / 0x40 % 32, Nat.mod_lt _ (by decide)⟩
      if !s.present c then .ok () s
      else
        match o % 0x40 with
        | 0x20 => .ok () (s.modCore c fun k => { k with timecmp := v })
        | 0x28 => .ok () (iswiStore c v s)
        | _ => .ok () s
    else .ok () s
  else if off < 0x100000 then
    let w : Fin 4 := ⟨(off - 0x080000) / 0x20000 % 4, Nat.mod_lt _ (by decide)⟩
    let o := off % 0x20000
    if nWings s.variant ≤ w.val then .ok () s
    else if o = 0 then .ok () (s.modWing w fun x => { x with vpol := v &&& 0x7FF })
    else if 0x1000 ≤ o && o < 0x5000 then
      let n : Fin 4 := ⟨(o / 0x1000 - 1) % 4, Nat.mod_lt _ (by decide)⟩
      match o % 0x1000 with
      | 0x00 => .ok () (rangeSet w n false v s)
      | 0x08 => .ok () (rangeSet w n true v s)
      | 0x10 => .ok () (rangeOp by_ w n v s)
      | 0x18 => .ok () (s.setSlot w n { s.slot w n with stat := (s.slot w n).stat &&& ~~~(v &&& 0xE) })
      | _ => .ok () s
    else if 0x10000 ≤ o && o < 0x14000 then
      .ok () (pqStore w ((o - 0x10000) / 4 + 1) (fld v 32 32) (pqStore w ((o - 0x10000) / 4) (fld v 0 32) s))
    else .ok () s
  else if off < 0x300000 then
    let c : CoreId := ⟨(off - 0x100000) / 0x10000 % 32, Nat.mod_lt _ (by decide)⟩
    if !s.present c || s.offline c then .ok () s
    else
      match off % 0x10000 with
      | 0x0008 => .ok () (s.modCore c fun k => { k with rvec := v &&& 0xFFFFFFFFFFFFC })
      | 0x0200 =>
        if 256 < (fld v 0 8).toNat + (fld v 8 9).toNat then .error (.stop 271) s
        else .ok () (s.modCore c fun k => { k with srwin := v &&& 0x1FFFF })
      | _ => .ok () s
  else if off < 0x400000 then .ok () (sluiceStore (off - 0x300000) v s)
  else if off < 0x440000 then .ok () (leveeStore (off - 0x400000) v s)
  else if off < 0x480000 then .ok () (cofferdamStore (off - 0x440000) v s)
  else if off < 0x4C0000 then .ok () (sideStore (off - 0x480000) v s)
  else if off < 0x500000 then .ok () s
  else if off < 0x600000 then ctrlStore ⟨(off - 0x500000) / 0x40000 % 4, Nat.mod_lt _ (by decide)⟩ (off % 0x40000) v s
  else if off < 0x680000 then .ok () (doorStore ⟨(off - 0x600000) / 0x10000 % 8, Nat.mod_lt _ (by decide)⟩ (off % 0x10000) v s)
  else if off < 0x690000 then threshStore (off - 0x680000) v s
  else .ok () s

/-- The offset lies in a step page (R433). -/
def isStepPage (off : Nat) : Bool := 0x410000 ≤ off && off < 0x420000

/-- A naturally aligned store of n bytes to a register of this die. -/
def regStore (by_ : Writer) (off n : Nat) (v : Word) (tag : BitVec 12) (trusted : Bool) : M Unit := fun s =>
  if isStepPage off then
    let i : Fin 16 := ⟨(off - 0x410000) / 0x1000 % 16, Nat.mod_lt _ (by decide)⟩
    if off % 0x1000 = 0 then .ok () (stepStore i (match by_ with | .core c => some c | _ => none) n v tag trusted s)
    else .ok () (if stepRefused i tag trusted s then countRefused s else s)
  else if 0x24000 ≤ off && off < 0x28000 then .ok () (viewStore (off - 0x24000) n v s)
  else if 0x18000 ≤ off && off < 0x1C000 then slotStore (off - 0x18000) n v s
  else if n = 4 && 0x080000 ≤ off && off < 0x100000 && 0x10000 ≤ off % 0x20000 && off % 0x20000 < 0x14000 then
    let w : Fin 4 := ⟨(off - 0x080000) / 0x20000 % 4, Nat.mod_lt _ (by decide)⟩
    if nWings s.variant ≤ w.val then .ok () s else .ok () (pqStore w ((off % 0x20000 - 0x10000) / 4) (fld v 0 32) s)
  else if n ≠ 8 then .ok () s
  else if by_ = .hatch then
    match regWrite8 by_ off v s with
    | .ok _ t => .ok () (hatchStore off v t)
    | .error e t => .error e t
  else regWrite8 by_ off v s

/-- Only the host, PL2, PL3 and the pumphouse's firmware can make a store's outcome undefined (R7, R8): a tenant's store that would is ignored
(log entry 111). -/
def asWriter (trusted : Bool) (m : M Unit) : M Unit := fun s =>
  match m s with
  | .error (.stop r) t => if trusted then .error (.stop r) t else .ok () s
  | r => r

/-- The writer is the host, the hatch, or a core at PL2 or PL3. -/
def writerTrusted (w : Writer) (s : State) : Bool := match w with | .core c => decide (2 ≤ (s.pl c).toNat) | _ => true

def writerTag (w : Writer) (s : State) : BitVec 12 := match w with | .core c => (s.core c).polder | _ => 0

/-- A naturally aligned store of n bytes to this die's control space. The tag and the trust are those of R340. -/
def regWrite (by_ : Writer) (off n : Nat) (v : Word) (tag : BitVec 12) (trusted : Bool) : M Unit :=
  asWriter trusted (regStore by_ off n v tag trusted)

/-- The offset holds a register of R579; the rest is unassigned (R17). -/
def ctlAssigned (off : Nat) : Bool :=
  if off < 0x010000 then off < 0x20
  else if off < 0x020000 then
    let o := off - 0x010000
    o < 0x38 || (0x8000 ≤ o && o < 0xE000)
  else if off < 0x040000 then
    let o := off - 0x020000
    o < 0x30 || (0x40 ≤ o && o < 0x58) || (0x4000 ≤ o && o < 0x8000)
  else if off < 0x080000 then
    let o := off - 0x040000
    o < 0x2000 || (0x8000 ≤ o && o < 0x8800 && o % 0x40 < 0x30)
  else if off < 0x100000 then
    let o := off % 0x20000
    o < 0x18 || (0x100 ≤ o && o < 0x108) || (0x1000 ≤ o && o < 0x5000 && o % 0x1000 < 0x20) || (0x10000 ≤ o && o < 0x14000)
  else if off < 0x300000 then
    let o := off % 0x10000
    o < 0x18 || (0x200 ≤ o && o < 0x208)
  else if off < 0x400000 then off - 0x300000 < 0x68
  else if off < 0x440000 then
    let o := off - 0x400000
    o < 0x20 || (0x400 ≤ o && o < 0x800 && o % 0x40 < 0x30) || (0x800 ≤ o && o < 0xC00) || (0x2000 ≤ o && o < 0x3000) ||
      (0x10000 ≤ o && o < 0x20000)
  else if off < 0x480000 then
    let o := off - 0x440000
    o < 0x30 || (0x100 ≤ o && o < 0x200) || (0x400 ≤ o && o < 0x500) || (0x1000 ≤ o && o < 0x3000) || (0x4000 ≤ o && o < 0x4218) ||
      (0x6000 ≤ o && o < 0x8000)
  else if off < 0x4C0000 then
    let o := off - 0x480000
    o < 0x48 || (0x100 ≤ o && o < 0x220)
  else if off < 0x500000 then
    let o := off - 0x4C0000
    o < 0x20 || (0x100 ≤ o && o < 0x400)
  else if off < 0x600000 then
    let o := off % 0x40000
    o < 0x28 || (0x30 ≤ o && o < 0x38) || (0x40 ≤ o && o < 0x48)
  else if off < 0x680000 then off % 0x10000 < 0x48
  else if off < 0x690000 then
    let o := off - 0x680000
    o < 0x28 || (0x100 ≤ o && o < 0x300 && o % 0x20 < 0x18)
  else false

end Machine
end Sys2Proof
end

