-- ==== Sys2Proof/Machine/Access.lean ====
section
/-! DEFINITION. A core's accesses to memory and to devices: checks, loads, stores, atomics, deferred store errors (R58 to R64, R72,
R269 to R271, R278, R288, R337, R338, R436, R438, R543 to R552). -/

namespace Sys2Proof
namespace Machine

/-! ## Bus errors -/

/-- SUB of cause 0x03 for the STATUS that a load has met (R552). -/
def busSub (st : BitVec 4) : BitVec 4 :=
  match st.toNat with | 1 => 1 | 2 => 3 | _ => 4

/-! ## Pieces of an access -/

inductive PieceKind where
  /-- Normal memory through the caches. -/
  | norm
  /-- Normal non-cacheable memory, windows, and memory that a leaf marks DEV. -/
  | direct
  | ctl (die : Fin 4) (off : Nat)
  | bell (die : Fin 4) (q : Nat) (off : Nat)
  | sram (off : Nat)
  | nothing
  deriving DecidableEq, Repr

/-- A part of an access that lies in one line. -/
structure Piece where
  va : Nat
  pa : Nat
  n : Nat
  tag : BitVec 12
  kind : PieceKind
  /-- Device memory (R72): control space, doorbell pages, DEV leaves and DEV windows. -/
  dev : Bool
  deriving DecidableEq, Repr

/-- The address is device memory whatever the leaf says (R72, R549). -/
def devPlace (s : State) (pa : Nat) : Bool :=
  match place pa with
  | .ctl _ _ => true
  | .bell _ _ _ => true
  | .window => match s.window pa with | some (_, w) => fld w 7 2 = 0 | none => false
  | _ => false

/-- The strongroom window of PL0 and PL1 allows these bytes of the SRAM (R271). -/
def Core.srwinOk (k : Core) (off n : Nat) : Bool :=
  let b := (fld k.srwin 0 8).toNat * 1024
  let e := b + (fld k.srwin 8 9).toNat * 1024
  !k.pl.ult 2 || (b ≤ off && off + n ≤ e)

/-- The lowest of n SRAM bytes that the level may not reach. -/
def Core.srwinFault (k : Core) (off n : Nat) : Nat :=
  ((List.range n).find? fun i => !k.srwinOk (off + i) 1).getD 0

def trustedPl (k : Core) : Bool := !k.pl.ult 2

/-- SUB of a translation or permission fault, for data or for a fetch. -/
def fsub (fetch : Bool) (sub : BitVec 4) : BitVec 4 := if fetch then sub + 8 else sub

/-- A read of a page-table line by a core: a normal cacheable access (R583). DESIGN CHOICE: a table that lies in the strongroom SRAM, which no cache
holds (R309), or in control space raises cause 0x03 with SUB 2, and one in no range SUB 4 (R271, R583; log entry 143). -/
def coreWalk (c : CoreId) (fetch : Bool) (va : Word) (a : Nat) (tag : BitVec 12) : M Word := do
  match place a with
  | .mem _ =>
    let st ← acquire c tag (a / 64) false
    if st ≠ 0 then raise 3 (if fetch && st = 1 then 0 else busSub st) (some va)
    else
      let s ← get
      pure (BitVec.ofNat 64 (fromLe (viewBytes s tag a 8)))
  | .window =>
    let s ← get
    if gateShut s c then
      set (lateSpeak (s.corePort c) 1 s)
      await
    else
    let r ← agentRead (.core c) tag false a 8
    if r.1 ≠ 0 then raise 3 (busSub r.1) (some va) else pure (BitVec.ofNat 64 (fromLe r.2))
  | .nothing => do
    modify missed
    raise 3 4 (some va)
  | _ => raise 3 2 (some va)

/-- Translate a page for a core at PL0 or PL1. -/
def coreTranslate (c : CoreId) (fetch : Bool) (va : Word) (need : Need) : M Leaf := fun s =>
  let k := s.core c
  match translate (coreWalk c fetch va) (some k.polder) (if fetch then k.fetchGptb else k.gptb) (if fetch then k.fetchIptb else k.iptb) (k.pl = 0) va need s with
  | .error (.exc e) t => .error (.exc (if e.cause = 4 || e.cause = 5 then { e with sub := fsub fetch e.sub } else e)) t
  | r => r

/-- What a physical address is to a core. -/
def kindOf (pa : Nat) (direct : Bool) : PieceKind :=
  match place pa with
  | .mem _ => if direct then .direct else .norm
  | .window => .direct
  | .ctl d o => .ctl d o
  | .bell d q o => .bell d q o
  | .sram o => .sram o
  | .nothing => .nothing

/-- Check the part of an access that lies in one line and find where it goes (R278, R337, R338, R271). -/
def checkPiece (c : CoreId) (fetch : Bool) (need : Need) (va n : Nat) : M Piece := do
  let s ← get
  let k := s.core c
  if k.srm then
    match place va with
    | .sram o =>
      if k.srwinOk o n then pure ⟨va, va, n, 0, .sram o, false⟩
      else raise 5 (fsub fetch 3) (some (BitVec.ofNat 64 (va + k.srwinFault o n)))
    | _ => raise 5 (fsub fetch 3) (some (BitVec.ofNat 64 va))
  else
    let l ← if k.pl.ult 2 then coreTranslate c fetch (BitVec.ofNat 64 va) need else pure ⟨va, k.polder, false, false⟩
    let kind := kindOf l.pa (l.dev || l.nc)
    if k.pl.ult 2 && 0xFFC0000040000 ≤ l.pa then raise 5 (fsub fetch 3) (some (BitVec.ofNat 64 va))
    else
    match kind with
    | .sram o =>
      if k.srwinOk o n then pure ⟨va, l.pa, n, l.tag, kind, false⟩
      else raise 5 (fsub fetch 3) (some (BitVec.ofNat 64 (va + k.srwinFault o n)))
    | _ => pure ⟨va, l.pa, n, l.tag, kind, l.dev || devPlace s l.pa⟩

/-- Check a whole access before any of it is performed: its pieces in address order (R63). Addresses wrap at 2^64. -/
def checkAll (c : CoreId) (need : Need) (va n : Nat) : M (List Piece) :=
  (splitLines va n).mapM fun p => checkPiece c false need (p.1 % 2 ^ 64) p.2

/-! ## Bytes whose value is unpredictable (R253, R299; log entry 3) -/

/-- A byte that a store may have written holds a free value, where this die's caches or its memory alone hold it. -/
def unsettleByte (c : CoreId) (s : State) (a : Nat) : State :=
  let (v, s) := s.free
  let n := a / 64
  if s.isDirty n then pokeBytes a [fld v 0 8] s
  else if s.ownMem a && !s.lost a && !s.unsaved a && dirOf s n = DirEntry.none then homeWrite (s.core c).polder a [fld v 0 8] s
  else s

/-- The bytes of a piece, in normal memory or in the strongroom SRAM. -/
def unsettlePiece (c : CoreId) (s : State) (p : Piece) : State :=
  match p.kind with
  | .norm => ((List.range p.n).map (p.pa + ·)).foldl (unsettleByte c) s
  | .sram o => (List.range p.n).foldl (fun t i => let (v, t) := t.free; t.modCore c fun k => { k with sram := wrBytes k.sram (o + i) [fld v 0 8] }) s
  | _ => s

/-! ## Device accesses (R72, R548) -/

/-- A device load of n bytes: STATUS and the value. -/
def devLoad (c : CoreId) (p : Piece) : M (BitVec 4 × Nat) := fun s =>
  let tr := trustedPl (s.core c)
  let rq := { ThMsg.zero with addr := BitVec.ofNat 52 p.pa, polder := p.tag, size := BitVec.ofNat 3 (log2 p.n), tr := tr }
  let far (d : Fin 4) : EStateM.Result Exit State (BitVec 4 × Nat) :=
    match ask (.core c) d.val 0x10 p.pa rq none s with
    | .ok r t => .ok (r.1, r.2.toNat % 256 ^ p.n) t
    | .error e t => .error e t
  if gateShut s c then .error .wait (lateSpeak (s.corePort c) 1 s)
  else
    match p.kind with
    | .ctl d o => if s.ownDie d then .ok (0, ctlLoad s o p.n p.tag tr) s else far d
    | .bell d q o =>
      if s.ownDie d then .ok (0, (bellRead s q (o / 8 * 8) p.n p.tag tr).toNat / 256 ^ (o % 8) % 256 ^ p.n) s else far d
    | _ => .ok (3, 0) s

/-- The store reaches STEP of a shard (R416, R433). -/
def isStep (o n : Nat) : Bool := isStepPage o && o % 0x1000 = 0 && n = 8

/-- Send a request that the core does not wait for: STATUS. -/
def postReq (unit : Requester) (k : Nat) (op : BitVec 6) (a : Nat) (m : ThMsg) : M (BitVec 4) := fun s =>
  if s.nodeLost k then .ok 5 s
  else if s.quiescedTo k then .error .wait s
  else if (s.doorSet k).isEmpty then let (st, s) := noRoute k op s; .ok st s
  else .ok 0 (sendReq unit k op a m none s)

/-- A device store of n bytes: STATUS. A STEP store to another die stays outstanding outside the store buffer (R416). -/
def devStore (c : CoreId) (p : Piece) (v : Word) : M (BitVec 4) := fun s =>
  let tr := trustedPl (s.core c)
  let rq := { ThMsg.zero with addr := BitVec.ofNat 52 p.pa, polder := p.tag, size := BitVec.ofNat 3 (log2 p.n), tr := tr, op0 := v }
  let far (d : Fin 4) : EStateM.Result Exit State (BitVec 4) :=
    match ask (.core c) d.val 0x11 p.pa rq none s with
    | .ok r t => .ok r.1 t
    | .error e t => .error e t
  let near (m : M Unit) : EStateM.Result Exit State (BitVec 4) :=
    match m s with | .ok _ t => .ok 0 t | .error e t => .error e t
  if gateShut s c then .ok 15 (lateSpeak (s.corePort c) 1 s)
  else
    match p.kind with
    | .ctl d o =>
      if s.ownDie d then near (regWrite (.core c) o p.n v p.tag tr)
      else if isStep o p.n then
        let k := s.core c
        postReq (.step c ⟨BitVec.ofNat 64 p.va, 3, 0, k.pl, k.polder, 0⟩) d.val 0x11 p.pa rq s
      else far d
    | .bell d q o => if s.ownDie d then near (bellStore q o p.n v p.tag tr) else far d
    | _ => .ok 3 s

/-! ## Reads and writes of pieces -/

/-- The lowest of n SRAM bytes that is uncorrectable (R63, R269). -/
def Core.sramFault (k : Core) (off n : Nat) : Option Nat := (List.range n).find? fun i => k.sramBad.contains (off + i)

/-- An uncorrectable byte of the strongroom SRAM is met: its data is delivered to no requester (R434, R435; log entry 141). -/
def sramEvent (c : CoreId) (o : Nat) (s : State) : State :=
  record 0x03 (s.corePort c) (s.core c).polder 1 0 (BitVec.ofNat 64 ((0xFFC0000000000 + o) / 64 * 64)) s

/-- An access to device memory that waits has been sent to the fabric, and completes before an interrupt (R295). -/
def sentDevice {α : Type} (c : CoreId) (dev : Bool) (m : M α) : M α := if dev then markWait c (fun k => { k with begun := true }) m else m

/-- Read one piece: STATUS and its bytes. A device piece is read as a device; an uncorrectable byte of the SRAM is named. -/
def readPiece (c : CoreId) (p : Piece) : M (BitVec 4 × List Byte) := do
  match p.kind with
  | .norm =>
    let st ← acquire c p.tag (p.pa / 64) false
    let s ← get
    pure (st, if st = 0 then viewBytes s p.tag p.pa p.n else [])
  | .direct =>
    let s ← get
    if gateShut s c then
      set (lateSpeak (s.corePort c) 1 s)
      await
    else sentDevice c p.dev (agentRead (.core c) p.tag (trustedPl (s.core c)) p.pa p.n)
  | .sram o =>
    let s ← get
    let k := s.core c
    match k.sramFault o p.n with
    | some i =>
      modify (sramEvent c (o + i))
      raise 3 1 (some (BitVec.ofNat 64 (p.va + i)))
    | none => pure (0, rdBytes k.sram o p.n)
  | .nothing => do
    modify missed
    pure (3, [])
  | _ =>
    let r ← devLoad c p
    pure (r.1, toLe p.n r.2)

/-- Read checked pieces; the first that meets a bus error raises cause 0x03 (R552). -/
def readPieces (c : CoreId) (ps : List Piece) : M (List Byte) :=
  ps.foldlM (fun acc p => do
    let r ← readPiece c p
    if r.1 ≠ 0 then raise 3 (busSub r.1) (some (BitVec.ofNat 64 p.va)) else pure (acc ++ r.2)) []

/-- Make a piece ready to be written: STATUS. Normal memory needs the line in M (R316). -/
def preparePiece (c : CoreId) (p : Piece) : M (BitVec 4) :=
  match p.kind with
  | .norm => acquire c p.tag (p.pa / 64) true
  | _ => pure 0

/-- Write a prepared piece: STATUS. `keep`: a store that has left its instruction, so that it is performed once (R137, R288). -/
def writePiece (c : CoreId) (keep : Bool) (p : Piece) (bs : List Byte) : M (BitVec 4) := do
  match p.kind with
  | .norm =>
    modify (pokeBytes p.pa bs)
    pure 0
  | .direct =>
    let s ← get
    if gateShut s c then
      set (lateSpeak (s.corePort c) 1 s)
      pure 15
    else sentDevice c (p.dev || keep) (agentWrite (.core c) p.tag (trustedPl (s.core c)) p.pa bs)
  | .sram o =>
    modify fun s => s.modCore c fun k =>
      { k with sram := wrBytes k.sram o bs, sramBad := k.sramBad.filter fun x => x < o || o + bs.length ≤ x }
    pure 0
  | .nothing => do
    modify missed
    pure 3
  | _ => devStore c p (BitVec.ofNat 64 (fromLe bs))

/-- Write a store's bytes over its checked pieces, all made ready first. A piece that meets a bus error leaves its bytes unwritten;
the first such error becomes the store's deferred store error (R288). `src` is DSE_INFO.SRC. -/
def writePieces (c : CoreId) (src : BitVec 2) (va : Nat) (ps : List Piece) (bs : List Byte) : M Unit := do
  let ready ← ps.mapM fun p => do
    let st ← preparePiece c p
    pure (p, st)
  let st ← ready.foldlM (fun (acc : BitVec 4 × List Byte) (e : Piece × BitVec 4) => do
    let (p, st) := e
    let mine := acc.2.take p.n
    let st ← if st ≠ 0 then pure st else writePiece c (src ≠ 1) p mine
    pure (if acc.1 ≠ 0 then acc.1 else st, acc.2.drop p.n)) (0, bs)
  if st.1 ≠ 0 then
    modify fun s =>
      let k := s.core c
      pushDse c ⟨BitVec.ofNat 64 va, BitVec.ofNat 4 (log2 bs.length), dseKind st.1, k.pl, k.polder, src⟩ s
  else pure ()

/-! ## Scalar loads and stores (R58, R62 to R64, R278) -/

/-- A misaligned scalar access that must not be completed raises cause 0x02 at once (R62, R278). -/
def alignCheck (c : CoreId) (a n : Nat) : M Unit := do
  let s ← get
  let k := s.core c
  if a % n ≠ 0 && (!k.mal || k.srm) then raise 2 0 (some (BitVec.ofNat 64 a)) else pure ()

/-- Device memory never completes a misaligned access (R63, R64). -/
def deviceAlign (a n : Nat) (ps : List Piece) : M Unit :=
  if a % n ≠ 0 && ps.any (·.dev) then raise 2 0 (some (BitVec.ofNat 64 a)) else pure ()

/-- A scalar load of n bytes from address a: its value. -/
def loadScalar (c : CoreId) (a : Word) (n : Nat) : M Nat := do
  alignCheck c a.toNat n
  let ps ← checkAll c needR a.toNat n
  deviceAlign a.toNat n ps
  let bs ← readPieces c ps
  pure (fromLe bs)

/-- A scalar store of the low n bytes of a value to address a. -/
def storeScalar (c : CoreId) (a : Word) (n : Nat) (v : Word) : M Unit := do
  alignCheck c a.toNat n
  let ps ← checkAll c needW a.toNat n
  deviceAlign a.toNat n ps
  writePieces c 0 a.toNat ps (toLe n v.toNat)

/-! ## Atomics (R60, R61, R64) -/

/-- An atomic of 4 or 8 bytes: the old value. -/
def atomicAccess (c : CoreId) (op : Nat) (dbl : Bool) (a x cmp : Word) : M Word := do
  let n := if dbl then 8 else 4
  let ad := a.toNat
  if ad % n ≠ 0 then raise 2 0 (some a)
  else
    let p ← checkPiece c false needRW ad n
    let fail (st : BitVec 4) : M Word := raise 3 (busSub st) (some a)
    match p.kind with
    | .ctl _ _ | .bell _ _ _ => raise 3 2 (some a)
    | .nothing => do
      modify missed
      raise 3 4 (some a)
    | .sram o =>
      let s ← get
      let k := s.core c
      match k.sramFault o n with
      | some i =>
        modify (sramEvent c (o + i))
        raise 3 1 (some (a + BitVec.ofNat 64 i))
      | none =>
        let old : Word := BitVec.ofNat 64 (fromLe (rdBytes k.sram o n))
        match amoBytes op dbl old x cmp with
        | some bs => set (s.setCore c { k with sram := wrBytes k.sram o bs })
        | none => pure ()
        pure old
    | .norm =>
      let st ← acquire c p.tag (p.pa / 64) true
      if st = 15 then await
      else if st ≠ 0 then fail st
      else
        let s ← get
        let old : Word := BitVec.ofNat 64 (fromLe (viewBytes s p.tag p.pa n))
        match amoBytes op dbl old x cmp with
        | some bs => set (pokeBytes p.pa bs s)
        | none => pure ()
        pure old
    | .direct =>
      let s ← get
      if gateShut s c then
        set (lateSpeak (s.corePort c) 1 s)
        await
      else
        let rq (na : Nat) : ThMsg := { ThMsg.zero with
          addr := BitVec.ofNat 52 na, polder := p.tag, size := if dbl then 3 else 2, tr := trustedPl (s.core c),
          subop := BitVec.ofNat 4 op, op0 := x, op1 := cmp }
        let far (k na : Nat) : M Word := do
          let r ← ask (.core c) k 9 p.pa (rq na) none
          if r.1 ≠ 0 then fail r.1 else pure (r.2.setWidth 64)
        match place p.pa with
        | .mem d =>
          if s.ownMem p.pa then
            let st ← homeReady (.core c) p.tag (p.pa / 64) true false false
            if st ≠ 0 then fail st
            else
              let s ← get
              let (old, s) := homeAtomic p.tag op dbl p.pa x cmp s
              set s
              pure old
          else if s.ownDie d then fail 3
          else far d.val p.pa
        | .window =>
          match s.window p.pa with
          | some (na, w) => if fld w 7 2 = 2 then do modify missed; fail 3 else far (fld w 9 3).toNat na
          | none => do modify missed; fail 3
        | _ => fail 3

/-! ## Instruction fetch -/

/-- The body of the active loop lies within two aligned lines, and the PC is in it (R257). -/
def Core.buffers (k : Core) : Bool :=
  k.lcount ≠ 0 && decide (k.lstart ≤ k.pc) && decide (k.pc ≤ k.lend) && decide (k.lend.toNat / 64 ≤ k.lstart.toNat / 64 + 1)

/-- A fetched line stays in the fetch line buffer while the core is in such a loop (R257; log entry 144). -/
def bufferLine (c : CoreId) (n : Nat) (s : State) : State :=
  s.modCore c fun k => { k with fetchBuf := if k.buffers then (n :: k.fetchBuf.filter (· ≠ n)).take 2 else [] }

/-- Control space and doorbell pages of a die that no up doorway reaches are no place of a fetch (R577). -/
def fetchDevice (d : Fin 4) (s : State) : BitVec 4 × State :=
  if s.ownDie d || !(s.doorSet d.val).isEmpty || s.quiescedTo d.val then (2, s)
  else if s.nodeLost d.val then (4, s)
  else (4, missed s)

/-- The fetch of one instruction word at an address (R283, R337, R434, R438, R549, R550, R577): its checks, and its line into the L1 instruction
cache, or its bytes read from non-cacheable memory or through a window. A line of the fetch line buffer is not fetched (R257). The word itself
comes with the command (log entry 4). -/
def fetchCheck (c : CoreId) (a : Word) : M Unit := do
  let p ← checkPiece c true needX a.toNat 4
  let s ← get
  let fail (sub : BitVec 4) (i : Nat) : M Unit := raise 3 sub (some (a + BitVec.ofNat 64 i))
  let bus (st : BitVec 4) : M Unit := if st ≠ 0 then fail (if st = 1 then 0 else busSub st) 0 else modify (bufferLine c (p.pa / 64))
  let buffered : Bool := (s.core c).buffers && (s.core c).fetchBuf.contains (p.pa / 64)
  match p.kind with
  | .sram o =>
    match (s.core c).sramFault o 4 with
    | some i =>
      modify (sramEvent c (o + i))
      fail 0 i
    | none => pure ()
  | .ctl d _ | .bell d _ _ =>
    let (sub, s) := fetchDevice d s
    set s
    fail sub 0
  | .nothing =>
    modify missed
    fail 4 0
  | .norm =>
    if buffered then pure ()
    else
      let st ← acquireAs c true p.tag (p.pa / 64) false
      bus st
  | .direct =>
    if buffered then pure ()
    else if gateShut s c then
      set (lateSpeak (s.corePort c) 1 s)
      await
    else
      let r ← sentDevice c p.dev (agentRead (.core c) p.tag (trustedPl (s.core c)) p.pa 4)
      bus r.1

end Machine
end Sys2Proof
end

