-- ==== Sys2Proof/Machine/Exception.lean ====
section
/-! DEFINITION. Core reset, routing, exception entry and return, the double and third fault, and the events of an instruction boundary
(R283 to R306, R521, R523). -/

namespace Sys2Proof
namespace Machine

/-! ## Core reset (R521, R523) -/

/-- A core's caches are given up: dirty lines are written back and clean lines reported (R523 step 2). A closed floodgate drops every one of
these requests, and the lines stay for the salvage of R447 (R443, R445). -/
def cleanCore (c : CoreId) (s : State) : State :=
  let w := wingOf c
  let ls := linesOf (s.core c).l2
  if gateShut s c then (if ls.isEmpty then s else lateSpeak (s.corePort c) ls.length s)
  else
  ls.foldl (fun t e =>
    let e := e.2
    let t := if e.st.dirty then meetArray (.l2 c) e.line (meetArray (.l1d c) e.line t) else t
    wingEvict w e (t.modCore c (·.dropLine e.line))) s

/-- The registers of a core after a core reset: CC_RVEC, CC_SPILL, PW_TOLn, CF_NOTE and the state of its units stay (R516, R521). -/
def Core.cleared (k : Core) : Core :=
  { Core.reset with
    pc := k.rvec, rvec := k.rvec, spill := k.spill, tol := k.tol, note := k.note, vuOn := k.vuOn, vuFailed := k.vuFailed, forced := k.forced,
    mxStopped := k.mxStopped, mxThird := false, held := false, stopped := k.stopped }

/-- A core reset, without the write-back of its caches. The lines of a fenced core stay in them for the salvage (R447, R523). -/
def resetCore (c : CoreId) (held : Bool) (s : State) : State :=
  let shut := gateShut s c
  dropSteps c (abandonReqs (.core c) (s.modCore c fun k =>
    let t := { k.cleared with held := held }
    if shut then { t with l1i := k.l1i, l1d := k.l1d, l2 := k.l2 } else t))

/-! ## Routing (R41, R285, R290) -/

/-- Target level of a synchronous cause, or cause 0x06, at the core's current level. -/
def Core.target (k : Core) (cause : BitVec 8) (sub : BitVec 4) : BitVec 2 :=
  if cause = 8 then (if k.pl = 3 then 3 else k.pl + 1)
  else if !k.pl.ult 2 then k.pl
  else if cause = 5 && (sub = 1 || sub = 9) then 2
  else if bit k.edeleg cause.toNat then 1 else 2

/-- Target level of cause 0x07, from the oldest entry (R290). -/
def Core.dseTarget (k : Core) : BitVec 2 :=
  match k.dse with
  | e :: _ =>
    if e.polder ≠ k.polder || !e.pl.ult 2 then 2
    else if bit k.edeleg 7 then 1 else 2
  | [] => 2

/-! ## Frames (R292, R293) -/

/-- What an entry saves. -/
structure Saved where
  epc : Word
  estatus : Word
  ecause : Word
  eaddr : Word
  deriving DecidableEq, Repr

/-- The 24 doublewords of a frame. -/
def frameWords (k : Core) (x : Saved) : List Word :=
  [x.epc, x.estatus, x.ecause, x.eaddr, k.lstart, k.lend, k.lcount, k.vresume] ++ (List.range 16).map fun n => k.g.toList.getD (n + 1) 0

def frameBytes (k : Core) (x : Saved) : List Byte := (frameWords k x).flatMap fun w => toLe 8 w.toNat

/-- Run an operation with the accesses of a level, and give the level back (R293). -/
def asLevel {α : Type} (c : CoreId) (t : BitVec 2) (f : M α) : M α := fun s =>
  let pl := s.pl c
  let back (u : State) : State := u.modCore c fun k => { k with status := setFld k.status 0 pl }
  match f (s.modCore c fun k => { k with status := setFld k.status 0 t }) with
  | .ok a u => .ok a (back u)
  | .error e u => .error e (back u)

/-- STATUS at a handler's first instruction (R294). -/
def entryStatus (st : Word) (t : BitVec 2) : Word := setFld st 0 (put t 0 |>.setWidth 6)

def Core.setSpx (k : Core) (t : BitVec 2) (v : Word) : Core := { k with spx := k.spx.set t.toNat v t.isLt }
def Core.spxAt (k : Core) (t : BitVec 2) : Word := k.spx[t.toNat]'t.isLt
def Core.vbaseAt (k : Core) (t : BitVec 2) : Word := k.vbase[t.toNat]'t.isLt

/-- The registers that an entry to level t writes (R294). -/
def Core.entered (k : Core) (t : BitVec 2) (frame : Word) (x : Saved) (pc : Word) : Core :=
  { (k.setSpx t frame) with
    epc := x.epc, estatus := x.estatus, ecause := x.ecause, eaddr := x.eaddr, lcount := 0, vresume := 0,
    status := entryStatus k.status t, pc := pc, entering := none, begun := false, imaging := false, storing := [], fetchBuf := [] }

/-- A `trest` in progress is abandoned: every tile, TUSE and TSTAT are zero; TCFG and OCFG stay (R144). -/
def Core.abandonImage (k : Core) : Core :=
  if k.imaging then
    { k with tl := Vector.replicate 8 0, acc := Vector.replicate 8 0, sc := Vector.replicate 8 0, tuse := 0, tstat := Vector.replicate 8 0 }
  else k

/-- The offset of n bytes at an address that lie in the strongroom SRAM. -/
def sramOff (a n : Nat) : Option Nat := match place a with | .sram o => if o + n ≤ 0x40000 then some o else none | _ => none

/-- A third fault (R301): the core is reset and held, and the event names its logical ID and both ECAUSE values. -/
def thirdFault (c : CoreId) (first second : Word) (s : State) : State :=
  let port := s.corePort c
  let polder := (s.core c).polder
  let s := resetCore c true (cleanCore c s)
  record 0x08 port polder 2 (BitVec.ofNat 16 c.val) (put (fld first 0 32) 0 ||| put (fld second 0 32) 32) s

/-- Double-fault entry (R299), or a third fault where it fails (R301). `x` is what the failed entry would have saved, `t` its target
level, `at_` the address whose access failed. DESIGN CHOICE: AVALID is 1 for every cause, since EADDR holds the address whose access failed; R299
does not say whether it stays that of the failed entry's event (log entry 152). -/
def doubleFault (c : CoreId) (x : Saved) (t : BitVec 2) (stp : BitVec 2) (at_ : Word) (s : State) : State :=
  let k := s.core c
  let ec := (x.ecause ||| 0x600) ||| put stp 18 ||| put t 20
  let x' : Saved := { x with ecause := ec, eaddr := at_ }
  let f := k.dfsp - 192
  let bad (o n : Nat) : Bool := (List.range n).any fun i => k.sramBad.contains (o + i)
  match sramOff f.toNat 192, sramOff k.dfvec.toNat 4 with
  | some fo, some vo =>
    if fld k.dfsp 0 6 ≠ 0 || fld k.dfvec 0 2 ≠ 0 || bad fo 192 || bad vo 4 then thirdFault c x.ecause ec s
    else
      s.setCore c { (k.entered 3 f x' k.dfvec) with
        sram := wrBytes k.sram fo (frameBytes k x'), mode := 1, status := entryStatus k.status 3 ||| 0x80 }
  | _, _ => thirdFault c x.ecause ec s

/-! ## Entry (R292 to R297) -/

/-- The address that an entry's failed access names. -/
def excAt (e : Exc) (d : Nat) : Word := e.addr.getD (BitVec.ofNat 64 d)

/-- The frame's bytes are written, each line ready first; a bus error is a fault of the frame (R299). -/
def writeFrame (c : CoreId) (f : Nat) (bs : List Byte) : M Unit := do
  let ps ← checkAll c needW f 192
  let sts ← ps.mapM fun p => do
    let st ← preparePiece c p
    if st ≠ 0 then raise 3 (busSub st) (some (BitVec.ofNat 64 p.va)) else pure p
  let _ ← sts.foldlM (fun (rest : List Byte) p => do
    let st ← writePiece c false p (rest.take p.n)
    if st ≠ 0 then raise 3 (busSub st) (some (BitVec.ofNat 64 p.va)) else pure (rest.drop p.n)) bs

/-- The bytes of a failed frame are unpredictable, as far as the frame can be reached at all (R299). -/
def unsettleFrame (c : CoreId) (t : BitVec 2) (f : Nat) (s : State) : State :=
  match asLevel c t (checkAll c needW f 192) s with
  | .ok ps u => ps.foldl (unsettlePiece c) u
  | .error _ _ => s

/-- The accesses of an entry to level t: the frame, the vector-table entry, the handler's first line. The handler's address, or the
step that failed and its address. DESIGN CHOICE: the core makes them in parallel (ch10, entry pseudocode), and which DFSTEP is told where several fail is not
stated: here the first in this order (log entry 152). -/
def entryAccesses (c : CoreId) (t : BitVec 2) (f : Nat) (bs : List Byte) (vec : Nat) : M (Except (BitVec 2 × Word) Word) := fun s =>
  if f % 64 ≠ 0 then .ok (.error (0, BitVec.ofNat 64 f)) s
  else
    match asLevel c t (writeFrame c f bs) s with
    | .error (.exc e) s => .ok (.error (1, excAt e f)) s
    | .error e s => .error e s
    | .ok _ s =>
      match asLevel c t (do let ps ← checkAll c needR vec 8; readPieces c ps) s with
      | .error (.exc e) s => .ok (.error (2, excAt e vec)) s
      | .error e s => .error e s
      | .ok bs s =>
        let e : Word := BitVec.ofNat 64 (fromLe bs)
        if fld e 0 2 ≠ 0 then .ok (.error (2, e)) s
        else
          match asLevel c t (fetchCheck c e) s with
          | .error (.exc x) s => .ok (.error (3, excAt x e.toNat)) s
          | .error x s => .error x s
          | .ok _ s => .ok (.ok e) s

/-- Enter the handler of a cause at level t, with EPC the core's PC. An entry that waits for an access goes on with what it has recognised
(R297). -/
def enter (c : CoreId) (cause : BitVec 8) (t : BitVec 2) (sub : BitVec 4) (imprec : Bool) (addr : Option Word) (fromPl : BitVec 2) : M Unit := fun s =>
  let k := s.core c
  let x : Saved :=
    { epc := k.pc
      estatus := k.status
      ecause := put cause 0 ||| flag imprec 8 ||| flag addr.isSome 9 ||| put sub 12 ||| put fromPl 16
      eaddr := addr.getD 0 }
  let f := k.spxAt t - 192
  let vec := (k.vbaseAt t &&& 0xFFFFFFFFFFFFF800) + BitVec.ofNat 64 (8 * cause.toNat)
  match entryAccesses c t f.toNat (frameBytes k x) vec.toNat s with
  | .error e s => .error e (s.modCore c fun k => { k with entering := some ⟨cause, t, sub, imprec, addr, fromPl⟩ })
  | .ok (.error (stp, a)) s =>
    let s := if stp = 0 then s else unsettleFrame c t f.toNat s
    .ok () (clearAnswers (.core c) (doubleFault c x t stp a (s.modCore c (·.abandonImage))))
  | .ok (.ok e) s => .ok () (clearAnswers (.core c) (s.modCore c fun k => k.abandonImage.entered t f x e))

/-- Take a precise exception at the core's PC (R284, R285). -/
def takeExc (c : CoreId) (e : Exc) : M Unit := fun s =>
  let k := s.core c
  enter c e.cause (k.target e.cause e.sub) e.sub false e.addr k.pl (s.modCore c fun k => { k with begun := false, imaging := false, storing := [] })

/-! ## Events of a boundary (R287, R291, R306) -/

/-- An interrupt that the core accepts now. -/
def Core.accepts (k : Core) (p : PendIrq) : Bool := k.pl.ult p.lvl || (p.lvl = k.pl && bit k.status 2)

/-- Of two interrupts, the one taken first: level, then priority, then the lower cause. -/
def irqBefore (a b : PendIrq) : Bool :=
  b.lvl.ult a.lvl || (a.lvl = b.lvl && (b.prio.ult a.prio || (a.prio = b.prio && a.cause.ult b.cause)))

def bestIrq : List PendIrq → Option PendIrq
  | [] => none
  | p :: ps => match bestIrq ps with | some q => some (if irqBefore q p then q else p) | none => some p

/-- What the core takes at this boundary. -/
inductive Boundary where
  /-- The entry that it has begun (R297). -/
  | resume (e : Entry)
  | fp (addr : Word) (imprec : Bool)
  | dse
  | irq (p : PendIrq)
  | none
  deriving DecidableEq, Repr

def State.boundary (s : State) (c : CoreId) : Boundary :=
  let k := s.core c
  match k.entering, k.fpPend with
  | some e, _ => .resume e
  | Option.none, some (a, i) => if k.target 6 0 < k.pl then .none else .fp a i
  | Option.none, Option.none =>
    if k.dsePend && !k.dse.isEmpty && !(k.dseTarget < k.pl) then .dse
    else match bestIrq ((s.pendingOf c).filter k.accepts) with | some p => .irq p | Option.none => .none

/-- An interrupt is taken: it stops being pending; cause 0x20 follows its condition (R305). -/
def takeIrq (cause : BitVec 8) (k : Core) : Core := { k with irqs := k.irqs.filter fun p => p.cause ≠ cause }

/-- The instruction at the PC completes before an event of the boundary: a device access sent to the fabric, an atomic, a `syswr` (R295). -/
def State.completesFirst (s : State) (c : CoreId) : Bool := deviceWait (.core c) s || (s.core c).begun

/-- An event is recognised: the instruction at the PC is abandoned, and the handler is entered (R295, R297). -/
def recognise (c : CoreId) (f : Core → Core) (m : M Unit) : M Bool := fun s =>
  match m (abandonReqs (.core c) (s.modCore c f)) with
  | .ok _ t => .ok true t
  | .error e t => .error e t

/-- Take the boundary's event: true where there is one. -/
def takeBoundary (c : CoreId) : M Bool := fun s =>
  let k := s.core c
  match s.boundary c with
  | .resume e =>
    match enter c e.cause e.level e.sub e.imprec e.addr e.fromPl s with
    | .ok _ t => .ok true t
    | .error e t => .error e t
  | .none => .ok false s
  | b =>
    if s.completesFirst c then .ok false s
    else
      match b with
      | .fp a i => recognise c (fun k => { k with fpPend := none }) (enter c 6 (k.target 6 0) 0 i (some a) k.pl) s
      | .dse =>
        let from_ := match k.dse with | e :: _ => e.pl | [] => 0
        recognise c (fun k => { k with dsePend := false }) (enter c 7 k.dseTarget 0 false none from_) s
      | .irq p => recognise c (takeIrq p.cause) (enter c p.cause p.lvl 0 false none k.pl) s
      | _ => .ok false s

/-! ## Return (R298) -/

def Core.restored (k : Core) (f : Word) (ws : List Word) : Core :=
  let w (i : Nat) : Word := ws.getD i 0
  let est := w 1
  let keep : Word := if k.pl = 1 then 0xC0 else 0x80
  let k' := { k with g := Vector.ofFn fun i => if 1 ≤ i.val ∧ i.val ≤ 16 then w (7 + i.val) else k.g[i.val] }
  { (k'.setSpx k.pl (f + 192)) with
    lstart := w 4, lend := w 5, lcount := w 6, vresume := w 7 &&& 0x1FFF, fetchBuf := [],
    status := (est &&& 0xFF &&& ~~~keep) ||| (k.status &&& keep), pc := w 0 }

/-- `eret` from the frame at SPX of the current level. -/
def returnFrom (c : CoreId) : M Unit := do
  let s ← get
  let k := s.core c
  let f := k.spxAt k.pl
  if fld f 0 6 ≠ 0 then raise 2 0 (some f)
  else
    let ps ← checkAll c needR f.toNat 192
    let bs ← readPieces c ps
    let ws := (List.range 24).map fun i => BitVec.ofNat 64 (fromLe ((bs.drop (8 * i)).take 8))
    let est := ws.getD 1 0
    let epc := ws.getD 0 0
    if k.pl < fld est 0 2 then raise 5 2 none
    else if fld epc 0 2 ≠ 0 then raise 2 0 (some epc)
    else modify fun s => s.modCore c fun k => k.restored f ws

end Machine
end Sys2Proof
end

