-- ==== Sys2Proof/Machine/Exec.lean ====
section
/-! DEFINITION. One instruction of a core: its boundary, its fetch, its effect, the next PC and hardware loops (R47, R64 to R69, R284,
R303, R306, R434). -/

namespace Sys2Proof
namespace Machine

/-! ## Instruction words (R47) -/

/-- Class, D, A, B and the 12-bit function or immediate. -/
def wordOf (cls : Nat) (d a b : Reg) (fn : BitVec 12) : BitVec 32 :=
  BitVec.ofNat 32 (cls * 2 ^ 27 + d.val * 2 ^ 22 + a.val * 2 ^ 17 + b.val * 2 ^ 12 + fn.toNat)

/-- Class, D, A and a 17-bit offset. -/
def wordZ (cls : Nat) (d a : Nat) (off : BitVec 17) : BitVec 32 := BitVec.ofNat 32 (cls * 2 ^ 27 + d * 2 ^ 22 + a * 2 ^ 17 + off.toNat)

/-- Class, D and a 22-bit immediate or offset. -/
def wordJ (cls : Nat) (d : Reg) (imm : BitVec 22) : BitVec 32 := BitVec.ofNat 32 (cls * 2 ^ 27 + d.val * 2 ^ 22 + imm.toNat)

/-! ## Completion -/

/-- Where the core goes after an instruction. -/
inductive Next where
  /-- The next instruction in sequence, or the loop's (R66). -/
  | seq
  /-- A taken branch or jump (R68). -/
  | jump (a : Word)
  /-- `loop` itself. -/
  | to (a : Word)
  /-- `eret`: the PC is already set. -/
  | here
  /-- The instruction waits, and what it has done stands (R144, R245). -/
  | stay
  deriving DecidableEq, Repr

/-- A hardware loop is active (R65). -/
def Core.looping (k : Core) : Bool := k.lcount ≠ 0

/-- The PC and the loop count after an instruction (R66, R68). Bits [1:0] of the PC are always zero (R36), whatever LSTART holds in them
(log entry 139). -/
def Core.goTo (k : Core) : Next → Core
  | .seq =>
    if k.looping && k.pc = k.lend then
      let n := k.lcount - 1
      { k with lcount := n, pc := if n = 0 then k.lend + 4 else k.lstart &&& ~~~(3 : Word) }
    else { k with pc := k.pc + 4 }
  | .jump a =>
    if k.looping && !(k.lstart ≤ a && a ≤ k.lend) then { k with pc := a, lcount := 0 } else { k with pc := a }
  | .to a => { k with pc := a }
  | .here => k
  | .stay => k

/-- The instruction is complete (R66, R68). -/
def Core.advance (k : Core) (n : Next) : Core := { k.goTo n with begun := false, imaging := false, storing := [] }

/-- Every line that a cache of the die holds, with the wing it leaves the die through. -/
def dieLines (s : State) : List (Fin 4 × CLine) :=
  (allCores.flatMap fun c => (linesOf (s.core c).l2).map fun e => (wingOf c, e.2)) ++
    (List.finRange 4).flatMap fun w => (linesOf (s.wings[w.val]).cache).map fun e => (w, e.2)

/-- Every dirty line of the die's caches is written back; clean copies of this die's own lines stay (R498, R522). -/
def flushDirty (s : State) : State :=
  (dieLines s).foldl (fun t e => if e.2.st.dirty && (dieHolds t e.2.line).any Moesi.dirty then wingEvict e.1 e.2 (meetHeld e.2.line t) else t) s

/-- Copies of other nodes' lines leave the die; each clean line of another die is reported with Evict (R554). -/
def evictRemote (s : State) : State :=
  (dieLines s).foldl (fun t e =>
    if t.ownMem (64 * e.2.line) || (holdings t e.2.line).isEmpty then t else forget e.1 e.2.line false e.2.tag (dropCopies e.2.line t)) s

/-- The die's own requests are complete, every request is answered, and these doorways have nothing left to send (R554). -/
def quietOut (ns : List (Fin 8)) (s : State) : Bool :=
  s.th.reqs.all (fun r => r.answer.isSome) && s.th.queued.isEmpty && s.th.txns.isEmpty &&
    ns.all fun n => let d := s.doors[n.val]; !d.up || (d.tx.isEmpty && d.unacked.isEmpty)

/-- Send QUIESCE on an up doorway, which then stops; that is no loss (R554, R555). -/
def quiesceDoor (n : Fin 8) (s : State) : State :=
  if (s.doors[n.val]).up then (sendLm n 2 s).modDoor n Door.down else s

/-- D2 to D7. -/
def farDoors : List (Fin 8) := [2, 3, 4, 5, 6, 7]

/-- What SHUTDOWN does once every core is paused (R498): P2[0] at 1 also stops the doorways other than D0 and D1. -/
def shutdownNow (off : Bool) (s : State) : State :=
  let s := flushDirty s
  let s := { s with mem := { s.mem with ctrls := s.mem.ctrls.map fun (x : Ctrl) => if x.present then { x with selfRef := true } else x } }
  let s := if off then
      farDoors.foldl (fun t n => quiesceDoor n t)
        { s with power := { s.power with doorLock := s.power.doorLock &&& 3, rootOff := true } }
    else { s with power := { s.power with inQuiet := true } }
  { s with porch := { s.porch with down := true } }

/-- A direct command's effect is under way. -/
def startDirect (b : Background) (s : State) : State := { s with porch := { s.porch with direct := some b } }

/-- The reply of CORE_PAUSE or SHUTDOWN, once every core that it names has paused or been fenced (R498; ch18, opcode 0x20). -/
def settlePause (s : State) : State :=
  match s.porch.direct with
  | some b =>
    let mask := BitVec.ofNat 32 b.obj
    let cs := allCores.filter fun c => mask.getLsbD c.val
    let waits := cs.any fun c => (s.core c).pausing
    let answer (d : BitVec 16) (r : Word) (s : State) : State :=
      let s := { s with porch := { s.porch with direct := none } }
      if b.quiet then s else notify ⟨b.tag, 0, d, b.opcode, r, 0, 0⟩ s
    if waits then s
    else if b.opcode = 0x20 then answer (BitVec.ofNat 16 (cs.filter fun c => (s.core c).paused).length) b.x s
    else if b.opcode = 0xF0 then
      let off : Bool := b.x ≠ 0
      let s := if b.n = 0 && off then startDirect { b with n := 1 } (evictRemote (flushDirty s)) else s
      if off && !quietOut farDoors s then s else answer 0 0 (shutdownNow off s)
    else s
  | none => s

/-- A core that has been asked to pause pauses at its boundary, and the pumphouse hears of it (R434, R475, R513). -/
def pauseHere (c : CoreId) (s : State) : State :=
  let k := s.core c
  let s := s.setCore c { k with paused := k.paused || k.pausing, pausing := false, armPaused := k.armPaused || k.armPausing, armPausing := false }
  let s := settleDoor c s
  settlePause (if k.pausing || k.armPausing then setEvent 5 s else s)

/-! ## Fences (R443) -/

/-- Every up doorway to a compute node sends IncUpd with a fenced port's new incarnation (R553). -/
def sendIncs (p : Nat) (inc : BitVec 8) (s : State) : State :=
  (upDoors s).foldl (fun t n =>
    match (t.doors[n.val]).peer with
    | some k => if k.toNat < 4 then sendOn n ⟨0, 0x19, { ThMsg.zero with src := t.node, dst := k, port := BitVec.ofNat 8 p, inc := inc }⟩ t else t
    | none => t) s

/-- Close a floodgate; a closed one stays as it is (R443, R452). CF_SPARE counts the fenced cores. -/
def fencePort (p : Nat) (s : State) : State :=
  let g := s.gate p
  if g.open_ then
    let s := s.setGate p { g with inc := nextInc g.inc, open_ := false }
    let n : BitVec 8 := if p < 0x22 then 1 else 0
    sendIncs p (nextInc g.inc) { s with coff := { s.coff with nFenced := s.coff.nFenced + n } }
  else s

/-- Opening a floodgate advances INC once more. -/
def openPort (p : Nat) (s : State) : State := let g := mget Gate.closed s.coff.gates p; s.setGate p { g with inc := nextInc g.inc, open_ := true }

/-- CORE_PAUSE learns of a core that its watchdog has fenced. -/
def notePauseFence (c : CoreId) (s : State) : State :=
  match s.porch.direct with
  | some b => if b.opcode = 0x20 then { s with porch := { s.porch with direct := some { b with x := b.x ||| flag true c.val } } } else s
  | none => s

/-- A fenced core's write that its home holds is discarded (R443). -/
def dropHolds (c : CoreId) (s : State) : State :=
  let own (e : Word × HeldWrite) : Bool := match e.2 with | .req u _ => u = .core c | .salvage _ _ _ => false | .spill d _ => d = c
  { s with levee := { s.levee with heldWrites := s.levee.heldWrites.filter fun e => !own e } }

/-- Fence a logical core's room: its requests are discarded, and a pause that it has not completed counts as complete,
which the pumphouse hears (R443, R475). -/
def fenceCore (c : CoreId) (s : State) : State :=
  let k := s.core c
  let s := dropHolds c (abandonReqs (.core c) (fencePort (s.corePort c) s))
  let s := s.setCore c { k with pausing := false, armPausing := false }
  let s := if k.pausing || k.armPausing then setEvent 5 s else s
  settlePause (if k.pausing then notePauseFence c s else s)

/-- Fences and serialising instructions wait for an outstanding STEP store of their core (R416). -/
def awaitStep (c : CoreId) : M Unit := fun s => if s.stepWait c then .error .wait s else .ok () s

/-- An atomic or a `syswr` that waits completes before an event of the boundary (R295). -/
def completing {α : Type} (c : CoreId) (m : M α) : M α := markWait c (fun k => { k with begun := true }) m

/-- A branch, jump, `loop` or `eret` at LEND of an active loop is illegal (R67). -/
def Core.loopEnd (k : Core) (isBranch : Bool) : Bool := isBranch && k.looping && k.pc = k.lend

/-- The instruction's own part: fetch, then effect. An exception of it carries what it names. -/
def perform (c : CoreId) (w : BitVec 32) (isBranch : Bool) (body : M Next) : M Next := do
  let s ← get
  fetchCheck c (s.pc c)
  if (s.core c).loopEnd isBranch then raise 1 0 (some (w.setWidth 64)) else body

/-- One instruction of a core that is at a boundary and runs. -/
def runInstr (c : CoreId) (w : BitVec 32) (isBranch : Bool) (body : M Next) : M Unit := fun s =>
  match takeBoundary c s with
  | .error e t => .error e t
  | .ok true t => .ok () t
  | .ok false t =>
    match perform c w isBranch body t with
    | .ok .stay u => .ok () u
    | .ok n u => .ok () (clearAnswers (.core c) (u.modCore c (·.advance n)))
    | .error (.exc e) u => takeExc c e u
    | .error e u => .error e u

/-- The core reads a word of its register files: an error is corrected, or fences the core (R434). True where the core goes on. -/
def fileCheck (c : CoreId) (s : State) : Bool × State :=
  let k := s.core c
  match k.fileErr with
  | none => (true, s)
  | some .corrected => (true, recordFile (s.corePort c) k.polder (s.setCore c { k with fileErr := none }))
  | some .uncorrectable =>
    if gateShut s c then (false, s) else (false, contain (fenceCore c) 0x06 (s.corePort c) k.polder 2 0 s)

/-- An instruction command. A core that does not run ignores it (log entry 5); one asked to pause pauses; an event of the boundary is
taken in its place (R306, log entry 6). -/
def instr (c : CoreId) (w : BitVec 32) (isBranch : Bool) (body : M Next) (s : State) : Host.Outcome State Fault Refusal :=
  if !s.runs c then .next s
  else if ((s.core c).pausing || (s.core c).armPausing) && canPause s c then .next (pauseHere c s)
  else
    match fileCheck c s with
    | (true, t) => outcome (runInstr c w isBranch body) t
    | (false, t) => .next t

/-- A reserved encoding or a refused operand raises cause 0x01, which names the word (R47, R283). -/
def illegal {α : Type} (w : BitVec 32) : M α := raise 1 0 (some (w.setWidth 64))

/-- An instruction whose whole effect is on its core's registers. -/
def onCore (c : CoreId) (f : Core → Core) : M Next := fun s => .ok .seq (s.modCore c f)

end Machine
end Sys2Proof
end

