-- ==== Sys2Proof/Machine/Branch.lean ====
section
/-! DEFINITION. Branches, jumps and the hardware loop (R64 to R69). -/

namespace Sys2Proof
namespace Machine

/-- A branch on two registers. -/
def branch2 (cond : Reg) (test : Word → Word → Bool) (c : CoreId) (a b : Reg) (off : BitVec 12) (s : State) : Host.Outcome State Fault Refusal :=
  instr c (wordOf 8 cond a b off) true (fun s =>
    .ok (if test (s.g c a) (s.g c b) then .jump (s.pc c + sx4 off) else .seq) s) s

/-- A branch on one register. -/
def branch1 (cond : Nat) (test : Word → Bool) (c : CoreId) (a : Reg) (off : BitVec 17) (s : State) : Host.Outcome State Fault Refusal :=
  instr c (wordZ 9 cond a.val off) true (fun s =>
    .ok (if test (s.g c a) then .jump (s.pc c + sx4 off) else .seq) s) s

/-- Equal. -/
def execBeq (c : CoreId) (a b : Reg) (off : BitVec 12) (s : State) : Host.Outcome State Fault Refusal := branch2 0 (fun x y => x = y) c a b off s
/-- Not equal. -/
def execBne (c : CoreId) (a b : Reg) (off : BitVec 12) (s : State) : Host.Outcome State Fault Refusal := branch2 1 (fun x y => x ≠ y) c a b off s
/-- Signed less. -/
def execBlt (c : CoreId) (a b : Reg) (off : BitVec 12) (s : State) : Host.Outcome State Fault Refusal := branch2 2 (fun x y => x.slt y) c a b off s
/-- Signed greater or equal. -/
def execBge (c : CoreId) (a b : Reg) (off : BitVec 12) (s : State) : Host.Outcome State Fault Refusal := branch2 3 (fun x y => !x.slt y) c a b off s
/-- Unsigned less. -/
def execBltu (c : CoreId) (a b : Reg) (off : BitVec 12) (s : State) : Host.Outcome State Fault Refusal := branch2 4 (fun x y => x.ult y) c a b off s
/-- Unsigned greater or equal. -/
def execBgeu (c : CoreId) (a b : Reg) (off : BitVec 12) (s : State) : Host.Outcome State Fault Refusal := branch2 5 (fun x y => !x.ult y) c a b off s
/-- Zero. -/
def execBeqz (c : CoreId) (a : Reg) (off : BitVec 17) (s : State) : Host.Outcome State Fault Refusal := branch1 0 (fun x => x = 0) c a off s
/-- Not zero. -/
def execBnez (c : CoreId) (a : Reg) (off : BitVec 17) (s : State) : Host.Outcome State Fault Refusal := branch1 1 (fun x => x ≠ 0) c a off s
/-- Negative. -/
def execBltz (c : CoreId) (a : Reg) (off : BitVec 17) (s : State) : Host.Outcome State Fault Refusal := branch1 2 (fun x => x.slt 0) c a off s
/-- Not negative. -/
def execBgez (c : CoreId) (a : Reg) (off : BitVec 17) (s : State) : Host.Outcome State Fault Refusal := branch1 3 (fun x => !x.slt 0) c a off s
/-- Not positive. -/
def execBlez (c : CoreId) (a : Reg) (off : BitVec 17) (s : State) : Host.Outcome State Fault Refusal := branch1 4 (fun x => !(0 : Word).slt x) c a off s
/-- Positive. -/
def execBgtz (c : CoreId) (a : Reg) (off : BitVec 17) (s : State) : Host.Outcome State Fault Refusal := branch1 5 (fun x => (0 : Word).slt x) c a off s

/-- gD := PC + 4 and a jump; a target with bits [1:0] not zero raises cause 0x02 and nothing is done (R64). -/
def jumpTo (c : CoreId) (d : Reg) (target : Word) : M Next := fun s =>
  if fld target 0 2 ≠ 0 then .error (.exc ⟨2, 0, some target⟩) s else .ok (.jump target) (s.setG c d (s.pc c + 4))

/-- Jump to PC + 4 x offset22. -/
def execJal (c : CoreId) (d : Reg) (off : BitVec 22) (s : State) : Host.Outcome State Fault Refusal :=
  instr c (wordJ 0x0A d off) true (fun s => jumpTo c d (s.pc c + sx4 off) s) s

/-- Jump to gA + imm12, gA as it was before. -/
def execJalr (c : CoreId) (d a : Reg) (imm : BitVec 12) (s : State) : Host.Outcome State Fault Refusal :=
  instr c (wordOf 0x0B d a 0 imm) true (fun s => jumpTo c d (s.g c a + sx imm) s) s

/-- Start a hardware loop over the next n instructions (R65, R67). -/
def execLoop (c : CoreId) (a : Reg) (n : BitVec 12) (s : State) : Host.Outcome State Fault Refusal :=
  let w := wordOf 0x0D 0 a 0 n
  instr c w true (fun s =>
    let k := s.core c
    if n = 0 || k.looping then .error (.exc ⟨1, 0, some (w.setWidth 64)⟩) s
    else
      let count := k.rg a
      let lend := k.pc + BitVec.ofNat 64 (4 * n.toNat)
      let t := s.setCore c { k with lstart := k.pc + 4, lend := lend, lcount := count }
      .ok (if count = 0 then .to (lend + 4) else .to (k.pc + 4)) t) s

end Machine
end Sys2Proof
end

