-- ==== Sys2Proof/Machine/Crc.lean ====
section
/-! DEFINITION. The cyclic codes of the die: CRC-32C of packets and flits (R388, R533), CRC-64 of ECMA-182 for checkpoints (R423). -/

namespace Sys2Proof
namespace Machine

/-- `fuel` shifts of a reflected CRC-32C register. -/
def crc32cBits : Nat → BitVec 32 → BitVec 32
  | 0, x => x
  | n + 1, x => crc32cBits n (if bit x 0 then (x >>> 1) ^^^ 0x82F63B78 else x >>> 1)

/-- CRC-32C (Castagnoli) of bytes: reflected, initial value and final XOR all ones. -/
def crc32c (bs : List Byte) : BitVec 32 :=
  ~~~(bs.foldl (fun x b => crc32cBits 8 (x ^^^ b.setWidth 32)) (BitVec.allOnes 32))

/-- `fuel` shifts of the CRC-64 register of R423. -/
def crc64Bits : Nat → Word → Word
  | 0, x => x
  | n + 1, x => crc64Bits n (if bit x 63 then (x <<< 1) ^^^ 0x42F0E1EBA9EA3693 else x <<< 1)

/-- Go on with the CRC-64 of R423 over bytes. -/
def crc64 (x : Word) (bs : List Byte) : Word := bs.foldl (fun x b => crc64Bits 8 (x ^^^ put b 56)) x

end Machine
end Sys2Proof
end

