-- ==== Sys2Proof/Machine/SluiceNet.lean ====
section
/-! DEFINITION. Sluice packets: their bytes, the checks of an arrival, sending; the end of messages and of work requests (R363, R368,
R371, R385, R388 to R390, R402, R403). -/

namespace Sys2Proof
namespace Machine

def tyWrite : BitVec 8 := 0x01
def tySend : BitVec 8 := 0x02
def tyReadReq : BitVec 8 := 0x03
def tyReadResp : BitVec 8 := 0x04
def tyAtomicReq : BitVec 8 := 0x05
def tyAtomicResp : BitVec 8 := 0x06
def tyFlushReq : BitVec 8 := 0x07
def tyFlushResp : BitVec 8 := 0x08
def tyAck : BitVec 8 := 0x10
def tyNak : BitVec 8 := 0x11
def tyEcho : BitVec 8 := 0x12

/-! ## Bytes of a packet (R388) -/

def flagNat (b : Bool) (i : Nat) : Nat := if b then 2 ^ i else 0

def baseHeader (typ : BitVec 8) (f : Frame) : List Byte :=
  let flags := flagNat f.first 0 + flagNat f.last 1 + flagNat f.ackreq 2 + flagNat f.notify 3 + flagNat f.relax 4 + flagNat f.cswap 5 +
    f.rsv1.toNat * 64
  toLe 1 (f.ver.toNat + 16 * f.rsv0.toNat) ++ toLe 1 typ.toNat ++ toLe 2 flags ++ toLe 2 f.deid.toNat ++ toLe 2 f.seid.toNat ++
    toLe 4 (f.dqpn.toNat + 2 ^ 20 * f.rsv2.toNat) ++ toLe 4 (f.psn.toNat + 2 ^ 24 * f.rsv3.toNat)

def remx (f : Frame) : List Byte := toLe 4 f.rkey.toNat ++ toLe 4 f.len.toNat ++ toLe 8 f.raddr.toNat
def immx (f : Frame) : List Byte := toLe 4 f.imm.toNat
def atmx (f : Frame) : List Byte := toLe 4 f.rkey.toNat ++ toLe 8 f.raddr.toNat ++ toLe 8 f.opnd1.toNat ++ toLe 8 f.opnd2.toNat
def ackx (f : Frame) : List Byte := toLe 4 (f.code.toNat + 256 * f.msn.toNat) ++ toLe 2 f.backoff.toNat ++ toLe 2 f.cecnt.toNat
def selx (f : Frame) : List Byte := toLe 32 f.selx.toNat

/-- Extension headers of a packet type. -/
def extHeaders (typ : BitVec 8) (f : Frame) : List Byte :=
  match typ.toNat with
  | 0x01 => (if f.first then remx f else []) ++ (if f.last && f.notify then immx f else [])
  | 0x02 => if f.last then immx f else []
  | 0x03 => remx f
  | 0x04 => if f.last then ackx f else []
  | 0x05 => atmx f
  | 0x10 => ackx f ++ selx f
  | 0x07 => []
  | _ => ackx f

/-- A TYPE of the packet type table. -/
def knownType (t : BitVec 8) : Bool := (1 ≤ t.toNat && t.toNat ≤ 8) || t = tyAck || t = tyNak || t = tyEcho

/-- The reserved TYPE that a packet carries in place of the row's. -/
def reservedType (f : Frame) : Option (BitVec 8) := f.rtype.filter fun t => !knownType t

def icrcOf (typ : BitVec 8) (f : Frame) : BitVec 32 :=
  crc32c (baseHeader ((reservedType f).getD typ) f ++ extHeaders typ f ++ f.payload)

/-- A packet with every field zero. -/
def Frame.zero : Frame :=
  ⟨0, 0, false, false, false, false, false, false, 0, 0, 0, 0, 0, 0, 0, 0, 0, 0, 0, 0, 0, 0, 0, 0, 0, 0, [], 0, false, 0, none⟩

/-! ## Queue-pair parameters -/

/-- PSN differences, modulo 2^24. -/
def psnDiff (a b : BitVec 24) : Nat := (a - b).toNat
def psnBehind (a b : BitVec 24) : Bool := let d := psnDiff b a; 0 < d && d < 2 ^ 23

/-- The sluice works: enabled, not fenced, its floodgate open. -/
def sluiceUp (s : State) : Bool :=
  s.sluice.enabled && !s.coff.sluiceFenced && (s.gate 0x40).open_ && !s.coff.dieStop && !s.inReset && !s.power.rootOff

def modQp (q : Nat) (f : QueuePair → QueuePair) (s : State) : State :=
  match s.qp q with | some x => s.setQp q (f x) | none => s

/-! ## Sending -/

/-- Bytes of a number in network byte order. -/
def toBe (n v : Nat) : List Byte := (toLe n v).reverse

/-- The sum of 16-bit words in network byte order. -/
def sum16 : List Byte → Nat
  | a :: b :: l => a.toNat * 256 + b.toNat + sum16 l
  | [a] => a.toNat * 256
  | [] => 0

/-- The Internet checksum, 0 being sent as 0xFFFF (RFC 768, RFC 8200). -/
def udpSum (bs : List Byte) : BitVec 16 :=
  let n := sum16 bs
  let v := 0xFFFF - (if n = 0 then 0 else (n - 1) % 0xFFFF + 1)
  if v = 0 then 0xFFFF else BitVec.ofNat 16 v

/-- The UDP checksum of a packet: 0 over IPv4, computed over IPv6 (R388). The die's own address is not stated. -/
def udpChecksum (x : QueuePair) (endpoint sport : BitVec 16) (typ : BitVec 8) (f : Frame) : BitVec 16 :=
  if !x.ipv6 then 0
  else
    let data := baseHeader typ f ++ extHeaders typ f ++ f.payload ++ toLe 4 f.icrc.toNat
    let len := 8 + data.length
    udpSum (toBe 16 (Config.ownIp6 endpoint.toNat).toNat ++ toBe 16 x.ip.toNat ++ toBe 4 len ++ toBe 4 17 ++
      toBe 2 sport.toNat ++ toBe 2 f.dport.toNat ++ toBe 2 len ++ toBe 2 0 ++ data)

/-- The least u with n at most u^4, for n up to 2^160. -/
def fourthRoot (n : Nat) : Nat :=
  if n = 0 then 0
  else ((List.range 40).reverse.foldl (fun r k => if (r + 2 ^ k) ^ 4 < n then r + 2 ^ k else r) 0) + 1

/-- LTIME ticks that n bytes take at the rate R = max(RMAX * 2^(-g/4), 0.1 GB/s): 0.1 GB/s is one byte in each tick of 10 ns (R400). -/
def paceTicks (rmax g n : Nat) : Nat :=
  if rmax = 0 then n else Nat.min n ((fourthRoot (n ^ 4 * 2 ^ g) + rmax - 1) / rmax)

/-- A packet leaves on the wire. -/
def emit (q : Nat) (typ : BitVec 8) (f : Frame) (s : State) : State :=
  let s := touchQp q s
  match s.qp q with
  | none => s
  | some x =>
    let f := { f with ver := 1, deid := x.peer, seid := s.sluice.endpoint, dqpn := x.peerQpn, dport := s.sluice.udpport }
    let f := { f with icrc := icrcOf typ f }
    let sport : BitVec 16 := 0xC000 + (Config.portHash s.sluice.endpoint.toNat q x.peerQpn.toNat).setWidth 16
    let msg := f.last && (typ = tyWrite || typ = tySend || typ = tyReadReq || typ = tyAtomicReq || typ = tyFlushReq)
    let u := s.sluice
    { s with sluice := { u with
        wire := ⟨typ, q, f, x.ipv6, x.ip, x.dscp, sport, udpChecksum x u.endpoint sport typ f, 2, 64, !x.ipv6, 17,
          paceTicks x.rmax.toNat x.rung f.payload.length⟩ :: u.wire
        bytesTx := u.bytesTx + BitVec.ofNat 64 f.payload.length
        msgsTx := if msg then u.msgsTx + 1 else u.msgsTx } }

/-- The selective map: bit i for PSN ePSN + 1 + i. -/
def selMap (x : QueuePair) : BitVec 256 :=
  BitVec.ofNat 256 (x.ahead.foldl (fun n p => let d := psnDiff p x.epsn; if 1 ≤ d && d ≤ 256 then n + 2 ^ (d - 1) else n) 0)

/-- A packet that carries an ACKX reports, and clears, the count of CE marks. -/
def emitAckx (q : Nat) (typ code : BitVec 8) (backoff : BitVec 16) (f : Frame) (s : State) : State :=
  match s.qp q with
  | none => s
  | some x =>
    let s := emit q typ { f with code := code, msn := x.msn, backoff := backoff, cecnt := x.ce } s
    modQp q (fun x => { x with ce := 0 }) s

/-- An ACK (R392): nothing admitted is then unacknowledged. -/
def sendAck (q : Nat) (s : State) : State :=
  match s.qp q with
  | none => s
  | some x => modQp q (fun x => { x with sinceAck := 0, owed := false })
      (emitAckx q tyAck 0 0 { Frame.zero with psn := x.epsn, selx := selMap x } s)

/-- A NAK of a code at the expected PSN. ACCESS and REM_OP stay latched (R398). -/
def sendNak (q : Nat) (code : BitVec 8) (backoff : BitVec 16) (s : State) : State :=
  match s.qp q with
  | none => s
  | some x =>
    let s := emitAckx q tyNak code backoff { Frame.zero with psn := x.epsn } s
    if code = 2 || code = 3 then modQp q (fun x => { x with nak := some code }) s else s

/-! ## The end of messages -/

/-- A region in REVOKING whose messages have all finished becomes FREE, and REGION_REVOKE replies (R403). -/
def settleRegion (i cut dropped : Nat) (s : State) : State :=
  let r := s.region i
  if r.state = .revoking && r.open_.isEmpty then
    let s := s.setRegion i { r with state := .free, onDie := false }
    match s.background 0x42 i with
    | some b => finishBackground b 0 (BitVec.ofNat 16 (Nat.min cut 0xFFFF)) (BitVec.ofNat 64 dropped) 0 0 s
    | none => s
  else s

/-- A message that this die started has ended its work, though it may still wait to complete in order. -/
def finished (s : State) (m : Nat × Nat × Bool) : Bool :=
  m.2.2 && match s.qp m.1 with | some x => x.opens.any fun o => o.psn.toNat = m.2.1 && o.done.isSome && o.npsn ≠ 0 | none => true

/-- A region forgets the messages that have finished. -/
def dropFinished (i : Nat) (s : State) : State :=
  let r := s.region i
  if r.state = .revoking then s.setRegion i { r with open_ := r.open_.filter fun m => !finished s m } else s

/-- Settle every region. -/
def settleRegions (s : State) : State := s.sluice.regions.foldl (fun t e => settleRegion e.1 0 0 (dropFinished e.1 t)) s

/-- A message on a region is admitted, or has finished (R402, R403). -/
def openMessage (i q n : Nat) (isLocal : Bool) (s : State) : State :=
  let r := s.region i
  s.setRegion i { r with open_ := r.open_ ++ [(q, n, isLocal)] }
def closeMessage (i q n : Nat) (isLocal : Bool) (s : State) : State :=
  let r := s.region i
  settleRegion i 0 0 (s.setRegion i { r with open_ := r.open_.filter fun m => m ≠ (q, n, isLocal) })

/-! ## Completion of work requests (R368, R371, R372) -/

/-- The work request names a local region. -/
def WorkReq.useLocal (w : WorkReq) : Bool := (w.op = 1 || w.op = 2 || w.op = 3 || w.op = 4 || w.op = 5) && w.len ≠ 0

/-- A staging granule of the levee is free again when its WRITE completes (R425). -/
def stagingFreed (i : Fin 16) (w : WorkReq) (s : State) : State :=
  let x := s.shard i
  if w.op = 1 then s.setShard i { x with staged := x.staged.filter (· ≠ w.laddr.toNat) } else s

/-- Complete the work requests at the head of a queue pair whose work has ended, in order. Statuses here are SUCCESS and NOT_PRESENT. -/
def completeHead (q : Nat) : Nat → M Unit
  | 0 => pure ()
  | fuel + 1 => do
    let s ← get
    match s.qp q with
    | none => pure ()
    | some x =>
      match x.opens with
      | [] => pure ()
      | o :: rest =>
        match o.done with
        | none => pure ()
        | some st =>
          set (s.setQp q { x with opens := rest, scnt := if st = stSuccess && o.levee.isNone then x.scnt + 1 else x.scnt })
          match o.levee with
          | some i => modify (stagingFreed i o.wr)
          | none => do
            if o.wr.useLocal then modify (closeMessage (keyIndex o.wr.lkey) q o.psn.toNat true)
            if o.wr.sig || st ≠ stSuccess then complete q o.wr.wrid st o.wr.op false (if st = stSuccess then o.wr.len else 0) 0
          completeHead q fuel

/-- Complete what can complete, in order. -/
def completeReady (q : Nat) : M Unit := do
  let s ← get
  match s.qp q with
  | none => pure ()
  | some x => completeHead q x.opens.length

/-- Change the open work request of an index. -/
def modOpen (q i : Nat) (f : OpenWr → OpenWr) (s : State) : State :=
  modQp q (fun x => { x with opens := x.opens.mapIdx fun j o => if j = i then f o else o }) s

/-- The open work request that holds a PSN. -/
def openAt (x : QueuePair) (p : BitVec 24) : Option Nat := x.opens.findIdx? fun o => decide (psnDiff p o.psn < o.npsn)

/-! ## Arrival (R389, R400, R405) -/

def isRequest (typ : BitVec 8) : Bool := typ = tyWrite || typ = tySend || typ = tyReadReq || typ = tyAtomicReq || typ = tyFlushReq
def isResponse (typ : BitVec 8) : Bool := typ = tyReadResp || typ = tyAtomicResp || typ = tyFlushResp

/-- The queue pair of an arriving packet that R389 does not drop. -/
def arrivalQp (typ : BitVec 8) (f : Frame) (s : State) : Option (Nat × QueuePair) :=
  let q := f.dqpn.toNat
  if f.icrc ≠ icrcOf typ f || (reservedType f).isSome || f.ver ≠ 1 || f.rsv0 ≠ 0 || f.rsv1 ≠ 0 || f.rsv2 ≠ 0 || f.rsv3 ≠ 0 || f.deid ≠ s.sluice.endpoint then none
  else
    match s.qp q with
    | some x => if f.seid ≠ x.peer || f.dport ≠ s.sluice.udpport then none else some (q, x)
    | none => none

/-- Count a packet that R389 drops. -/
def dropArrival (s : State) : State := { s with sluice := { s.sluice with rxdrop := satInc s.sluice.rxdrop } }

/-- Count a CE mark of a request or response (R400). -/
def countCe (q : Nat) (typ : BitVec 8) (f : Frame) (s : State) : State :=
  if f.ce && (isRequest typ || isResponse typ) then
    let s := { s with sluice := { s.sluice with cemark := satInc s.sluice.cemark } }
    modQp q (fun x => { x with ce := satInc x.ce }) s
  else s

/-- The count of CE marks that a packet's ACKX reports joins the rate window. An ECHO for a context off the die is dropped (R400). -/
def countCecnt (q : Nat) (typ : BitVec 8) (f : Frame) (s : State) : State :=
  if typ = tyAck || typ = tyNak || typ = tyEcho || typ = tyAtomicResp || typ = tyFlushResp || (typ = tyReadResp && f.last) then
    modQp q (fun x => if typ = tyEcho && !x.onDie then x else { x with winM := x.winM + f.cecnt.toNat }) s
  else s

/-- What a packet has brought (R500). -/
def countRx (typ : BitVec 8) (f : Frame) (s : State) : State :=
  let u := s.sluice
  let msg := f.last && isRequest typ
  { s with sluice := { u with
      bytesRx := u.bytesRx + BitVec.ofNat 64 f.payload.length
      msgsRx := if msg then u.msgsRx + 1 else u.msgsRx } }

end Machine
end Sys2Proof
end

