-- ==== Sys2Proof/Machine/SluiceRun.lean ====
section
/-! DEFINITION. The requester's side of a queue pair: work requests, transmission, acknowledgement, retransmission and pacing (R355, R359
to R363, R372 to R375, R382, R384, R390 to R397, R400). -/

namespace Sys2Proof
namespace Machine

/-! ## Work requests (R359, R360, R362) -/

def parseWr (bs : List Byte) : WorkReq :=
  let w (i : Nat) : Word := BitVec.ofNat 64 (fromLe ((bs.drop (8 * i)).take 8))
  { op := fld (w 0) 0 8, sig := bit (w 0) 8, notify := bit (w 0) 9, frd := bit (w 0) 10, fall := bit (w 0) 11, relax := bit (w 0) 12,
    imm := fld (w 0) 32 32, wrid := w 1, laddr := w 2, lkey := fld (w 3) 0 32, len := fld (w 3) 32 32, raddr := w 4,
    rkey := fld (w 5) 0 32, opnd1 := w 6, opnd2 := w 7, rsv := fld (w 0) 13 19 ≠ 0 || fld (w 5) 32 32 ≠ 0 }

/-- A reserved bit, an unused field that is not zero, a reserved OP, a length out of range or a misaligned atomic. -/
def badWr (w : WorkReq) : Bool :=
  let noL := w.laddr = 0 && w.lkey = 0
  let noR := w.raddr = 0 && w.rkey = 0
  let plain := !w.notify && !w.relax
  let noImm := w.imm = 0
  let noOp := w.opnd1 = 0 && w.opnd2 = 0
  let len := w.len.toNat ≤ 2 ^ 30
  let al := w.laddr.toNat % 8 = 0 && w.raddr.toNat % 8 = 0
  w.rsv || !(match w.op.toNat with
    | 0 => noL && w.len = 0 && noR && noImm && noOp && plain
    | 1 => len && (w.notify || noImm) && noOp
    | 2 => len && noImm && noOp && plain
    | 3 => len && noR && noOp && plain
    | 4 => w.len = 8 && noImm && w.opnd2 = 0 && plain && al
    | 5 => w.len = 8 && noImm && plain && al
    | 6 => noL && w.len = 0 && noR && noImm && noOp && plain
    | 7 => fld w.laddr 21 43 = 0 && w.len = 0 && noR && noImm && noOp && plain
    | _ => false)

def isRead (w : WorkReq) : Bool := w.op = 2 || w.op = 4 || w.op = 5

/-- Every packet of a work request has been sent, or it has none to send and is not held. -/
def OpenWr.allSent (o : OpenWr) (mtu : Nat) : Bool := o.done.isSome || (wrPackets mtu o.wr ≤ o.sent && o.wr.op ≠ 7)

/-- The send queue is about to start its next work request: every earlier one has sent its last packet, and no WAIT holds it (R355, R363). -/
def turnCome (x : QueuePair) : Bool := x.held.isNone && x.opens.all fun o => o.allSent x.mtuBytes

/-- READs and ATOMICs of a queue pair that have not completed are fewer than 16 (R381). -/
def readsFree (x : QueuePair) : Bool := decide ((x.opens.filter fun o => isRead o.wr).length < 16)

/-- The next work request may start: order, fences and limits (R363, R374, R381, R382). -/
def canStart (s : State) (x : QueuePair) (w : WorkReq) : Bool :=
  turnCome x && (!w.frd || x.opens.all fun o => !isRead o.wr) &&
    (!w.fall || x.opens.isEmpty) && (!isRead w || readsFree x) &&
    (w.op ≠ 7 || decide (qpCount s (fun y => y.held.isSome) < 4096))

/-- A WAIT reaches the head of transmission (R372, R373, R375). -/
def startWait (q idx : Nat) (w : WorkReq) : M Unit := do
  let s ← get
  let n := (fld w.laddr 0 20).toNat
  let rcv := bit w.laddr 20
  match s.qp q with
  | none => pure ()
  | some x =>
    if !hasChain s.variant then
      modify (modOpen q idx fun o => { o with done := some stNotPresent })
      completeReady q
    else
      match s.qp n with
      | none => failQp q stWaitBroken (some idx)
      | some y =>
        if y.polder ≠ x.polder || y.state = 0 || y.state = 4 then failQp q stWaitBroken (some idx)
        else if (((if rcv then y.rcnt else y.scnt) - w.lkey).toNat < 2 ^ 31) then
          modify (modOpen q idx fun o => { o with done := some stSuccess })
          completeReady q
        else modify (modQp q fun x => { x with held := some (n, rcv, w.lkey) })

/-- A work request whose slot cannot be read. Its WRID and OP are not stated: free values (log entry 135). -/
def unreadWr (f : Word) (op : BitVec 8) : WorkReq := ⟨op, false, false, false, false, false, 0, f, 0, 0, 0, 0, 0, 0, 0, false⟩

/-- The work request at SQ_CI starts, if it is of the row's operation, or of a reserved one, and may start. -/
def startWr (op : BitVec 8) (q : Nat) : M Unit := do
  let s ← get
  match s.qp q with
  | none => pure ()
  | some x =>
    let t := if x.onDie then s else fetchQp q s
    if !sluiceUp s || x.state ≠ 3 || x.sqPi = x.sqCi || !turnCome x || !qpOnDie t q then pure ()
    else
      set t
      match ← ringRead q x x.sqKey x.sqAddr x.sqLog x.sqCi 64 with
      | .error st => do
        let f ← takeFree
        let s ← get
        let x := (s.qp q).getD x
        set (pushOpen q { x with sqCi := x.sqCi + 1 } ⟨unreadWr f op, x.nextPsn, 0, 0, 0, none, none⟩ s)
        failQp q st (some x.opens.length)
      | .ok bs =>
        let w := parseWr bs
        let s' ← get
        if (w.op ≠ op && w.op.toNat ≤ 7) || !canStart s' x w then set s
        else
          let s := s'
          let x := (s.qp q).getD x
          let idx := x.opens.length
          let o : OpenWr := ⟨w, x.nextPsn, wrPsns x.mtuBytes w, 0, 0, none, none⟩
          set (pushOpen q { x with sqCi := x.sqCi + 1 } o s)
          if badWr w then failQp q stBadWr (some idx)
          else if w.op = 0 then
            modify (modOpen q idx fun o => { o with done := some stSuccess })
            completeReady q
          else if w.op = 7 then startWait q idx w
          else if w.useLocal then
            modify (bringRegion (keyIndex w.lkey))
            let s ← get
            if regionOk s x.polder w.lkey w.laddr.toNat w.len.toNat (if w.op = 1 || w.op = 3 then 0 else 1) false then
              modify (openMessage (keyIndex w.lkey) q o.psn.toNat true)
            else failQp q stLocAccess (some idx)

/-! ## Transmission (R363, R384, R390, R392, R393) -/

/-- The source bytes of a request packet, or the status that fails it (R384, R425, R436). -/
def sourceRead (q : Nat) (x : QueuePair) (o : OpenWr) (off n : Nat) : M (Except (BitVec 8) (List Byte)) := do
  if n = 0 then pure (.ok [])
  else
    match o.levee with
    | some i =>
      let s ← get
      let r ← agentRead (.levee i) (s.shard i).polder false (o.wr.laddr.toNat + off) n
      if r.1 = 0 then pure (.ok r.2)
      else
        modify fun s => if (s.shard i).busy then abortCheckpoint i 0x04 s else s
        pure (.error stMemErr)
    | none =>
      modify (bringRegion (keyIndex o.wr.lkey))
      let s ← get
      if !regionOk s x.polder o.wr.lkey (o.wr.laddr.toNat + off) n 0 true then pure (.error stLocAccess)
      else
        let r ← regionRead (.sluice q) (s.region (keyIndex o.wr.lkey)) (o.wr.laddr.toNat + off) n
        pure (if r.1 = 0 then .ok r.2 else .error stMemErr)

/-- Request packet i of an open work request: its type and fields. -/
def buildPacket (q : Nat) (x : QueuePair) (o : OpenWr) (i : Nat) : M (Except (BitVec 8) (BitVec 8 × Frame)) := do
  let w := o.wr
  let f : Frame := { Frame.zero with psn := o.psn + BitVec.ofNat 24 i, first := true, last := true, ackreq := true }
  match w.op.toNat with
  | 2 => pure (.ok (tyReadReq, { f with rkey := w.rkey, len := w.len, raddr := w.raddr }))
  | 4 | 5 => pure (.ok (tyAtomicReq, { f with rkey := w.rkey, raddr := w.raddr, opnd1 := w.opnd1, opnd2 := w.opnd2, cswap := w.op = 5 }))
  | 6 => pure (.ok (tyFlushReq, f))
  | _ =>
    let mtu := x.mtuBytes
    let off := i * mtu
    let last := i + 1 = packetsOf mtu w.len.toNat
    match ← sourceRead q x o off (Nat.min mtu (w.len.toNat - off)) with
    | .error st => pure (.error st)
    | .ok bs =>
      let f := { f with first := i = 0, last := last, ackreq := last || (i + 1) % 64 = 0, payload := bs }
      if w.op = 3 then pure (.ok (tySend, { f with imm := if last then w.imm else 0 }))
      else
        let f := { f with notify := w.notify, relax := w.relax, imm := if last && w.notify then w.imm else 0 }
        pure (.ok (tyWrite, if i = 0 then { f with rkey := w.rkey, len := w.len, raddr := w.raddr } else f))

/-- The work request whose packet is the next to be sent: none behind a WAIT that is not satisfied (R363). -/
def sendNext (x : QueuePair) : Option Nat :=
  (x.opens.takeWhile fun o => !(o.wr.op = 7 && o.done.isNone)).findIdx? fun o => o.done.isNone && decide (o.sent < wrPackets x.mtuBytes o.wr)

/-- The send engine sends the next request packet of a queue pair. -/
def transmit (q : Nat) : M Unit := do
  let s ← get
  match s.qp q with
  | none => pure ()
  | some x =>
    if !sluiceUp s || x.state ≠ 3 || x.backoff.isSome || 4096 ≤ x.unacked.length then pure ()
    else
      match sendNext x with
      | none => pure ()
      | some i =>
        match x.opens[i]? with
        | none => pure ()
        | some o =>
          match ← buildPacket q x o o.sent with
          | .error st => failQp q st (some i)
          | .ok (typ, f) =>
            modify fun s =>
              let s := modOpen q i (fun o => { o with sent := o.sent + 1 }) (emit q typ f s)
              modQp q (fun x => { x with unacked := x.unacked ++ [f.psn], rtoStart := if x.unacked.isEmpty then s.ltime else x.rtoStart }) s

/-- Send the packet of a PSN again. -/
def resend (q : Nat) (p : BitVec 24) : M Unit := do
  let s ← get
  match s.qp q with
  | none => pure ()
  | some x =>
    match openAt x p with
    | none => pure ()
    | some i =>
      match x.opens[i]? with
      | none => pure ()
      | some o =>
        match ← buildPacket q x o (psnDiff p o.psn) with
        | .error st => failQp q st (some i)
        | .ok (typ, f) => modify fun s =>
          let s := emit q typ f s
          { s with sluice := { s.sluice with retx := satInc s.sluice.retx } }

/-- Send every unacknowledged packet again from a PSN on. -/
def resendFrom (q : Nat) (p : BitVec 24) : M Unit := do
  let s ← get
  match s.qp q with
  | none => pure ()
  | some x => (x.unacked.filter fun a => !psnBehind a p).forM (resend q)

/-! ## Acknowledgements (R385, R393 to R395) -/

/-- The request at a PSN is a WRITE or a SEND: ACKs free its packets. A READ, ATOMIC or FLUSH is freed by its response (R395). -/
def ackFrees (x : QueuePair) (p : BitVec 24) : Bool :=
  match openAt x p with
  | some i => match x.opens[i]? with | some o => o.wr.op = 1 || o.wr.op = 3 | none => true
  | none => true

def selShows (f : Frame) (p : BitVec 24) : Bool := let d := psnDiff p f.psn; 1 ≤ d && d ≤ 256 && f.selx.getLsbD (d - 1)

/-- A WRITE or SEND whose packets are all sent and acknowledged is done. -/
def sentDone (x : QueuePair) (o : OpenWr) : OpenWr :=
  if (o.wr.op = 1 || o.wr.op = 3) && o.done.isNone && decide (wrPackets x.mtuBytes o.wr ≤ o.sent) &&
      x.unacked.all (fun p => !decide (psnDiff p o.psn < o.npsn)) then { o with done := some stSuccess }
  else o

def settleSent (q : Nat) (s : State) : State := modQp q (fun x => { x with opens := x.opens.map (sentDone x) }) s

/-- What a packet shows of ePSN: an advance restarts the retransmission timer and clears the count of timeouts (R396). -/
def showEpsn (e : BitVec 24) (now : Word) (x : QueuePair) : QueuePair :=
  if psnBehind x.peerPsn e then { x with peerPsn := e, rtoStart := now, timeouts := 0 } else x

/-- Free the packets that an ACK shows; count them for the rate window. -/
def takeAck (q : Nat) (f : Frame) (s : State) : State :=
  match s.qp q with
  | none => s
  | some x =>
    let gone (p : BitVec 24) : Bool := ackFrees x p && (psnBehind p f.psn || selShows f p)
    let freed := x.unacked.filter gone
    settleSent q (s.setQp q (showEpsn f.psn s.ltime { x with
      unacked := x.unacked.filter fun p => !gone p
      winA := x.winA + freed.length }))

/-- The packets that an ACK shows missing, with three or more admitted beyond them (R394). While a back-off stops the queue pair, none. -/
def missing (x : QueuePair) (f : Frame) : List (BitVec 24) :=
  if x.backoff.isSome then [] else x.unacked.filter fun p =>
    let d := psnDiff p f.psn
    decide (d < 256) && !selShows f p && decide (3 ≤ ((List.range 256).filter fun i => d ≤ i && f.selx.getLsbD i).length)

/-- An ACK. -/
def ackArrives (q : Nat) (f : Frame) : M Unit := do
  modify (takeAck q f)
  completeReady q
  let s ← get
  match s.qp q with
  | none => pure ()
  | some x =>
    let l := missing x f
    if !l.isEmpty then set (s.setQp q { x with rtoStart := s.ltime })
    l.forM (resend q)

/-- A NAK (R397): a back-off lasts BACKOFF µs. The PSN of an RNR NAK is ePSN (R388); that of a NAK with CODE 0x04 is its packet's (R406). -/
def nakArrives (q : Nat) (f : Frame) : M Unit := do
  let s ← get
  match s.qp q with
  | none => pure ()
  | some x =>
    let at_ := openAt x f.psn
    let until_ := s.ltime + BitVec.ofNat 64 (100 * f.backoff.toNat)
    match f.code.toNat with
    | 1 =>
      let n := if x.rnrPsn = f.psn then x.rnrCount + 1 else 1
      if x.rnrretry ≠ 7 && decide (x.rnrretry.toNat < n) then failQp q stRnrExc at_
      else set (s.setQp q (showEpsn f.psn s.ltime { x with backoff := some (f.psn, until_), rnrPsn := f.psn, rnrCount := n }))
    | 2 => if at_.isSome then failQp q stRemAccess at_ else pure ()
    | 3 => if at_.isSome then failQp q stRemOp at_ else pure ()
    | 4 => set (s.setQp q { x with backoff := some (f.psn, until_) })
    | _ => pure ()

/-! ## Responses at the initiator (R384, R385, R395) -/

/-- The request of an open work request is answered: its packet is acknowledged, and its work is done. -/
def answered (q idx : Nat) : M Unit := do
  modify fun s =>
    match s.qp q with
    | none => s
    | some x =>
      match x.opens[idx]? with
      | none => s
      | some o =>
        modOpen q idx (fun o => { o with done := some stSuccess }) (s.setQp q (showEpsn (o.psn + BitVec.ofNat 24 o.npsn) s.ltime { x with
          unacked := x.unacked.filter (· ≠ o.psn), winA := x.winA + 1 }))
  completeReady q

/-- Bytes of a response placed through the local key, or the status that fails the work request. -/
def placeLocal (q : Nat) (x : QueuePair) (w : WorkReq) (off : Nat) (bs : List Byte) : M (BitVec 8) := do
  if bs.isEmpty then pure 0
  else
    modify (bringRegion (keyIndex w.lkey))
    let s ← get
    if !regionOk s x.polder w.lkey (w.laddr.toNat + off) bs.length 1 true then pure stLocAccess
    else
    let st ← regionWrite (.sluice q) (s.region (keyIndex w.lkey)) (w.laddr.toNat + off) bs
    pure (if st = 0 then 0 else stMemErr)

/-- A READ for the levee places into its staging ring (R425, R430). -/
def placeStaging (i : Fin 16) (w : WorkReq) (off : Nat) (bs : List Byte) : M (BitVec 8) := do
  let s ← get
  let st ← agentWrite (.levee i) (s.shard i).polder false (w.laddr.toNat + off) bs
  pure (if st = 0 then 0 else stMemErr)

/-- The open work request of an operation that a response answers. Responses of READs and ATOMICs are placed in order (R382). -/
def responseFor (x : QueuePair) (f : Frame) (ops : List (BitVec 8)) : Option (Nat × OpenWr) :=
  match openAt x f.psn with
  | none => none
  | some i => match x.opens[i]? with
    | some o =>
      let before := (x.opens.take i).any fun p => isRead p.wr && p.done.isNone
      if ops.contains o.wr.op && o.done.isNone && 1 ≤ o.sent && !(isRead o.wr && before) then some (i, o) else none
    | none => none

/-- A READ response: packets are placed in order; one ahead of the next is dropped, and the READ is sent again in time (R396). -/
def readResponse (q : Nat) (f : Frame) : M Unit := do
  let s ← get
  match s.qp q with
  | none => pure ()
  | some x =>
    match responseFor x f [2] with
    | none => pure ()
    | some (i, o) =>
      let off := psnDiff f.psn o.psn * x.mtuBytes
      let n := Nat.min x.mtuBytes (o.wr.len.toNat - off)
      if off ≠ o.got || f.payload.length ≠ n then pure ()
      else
        let st ← match o.levee with
          | some sh => placeStaging sh o.wr off f.payload
          | none => placeLocal q x o.wr off f.payload
        if st ≠ 0 then failQp q st (some i)
        else
          modify (modOpen q i fun o => { o with got := o.got + n })
          if o.wr.len.toNat ≤ off + n then answered q i

/-- An ATOMIC response: the old value is written at LADDR. -/
def atomicResponse (q : Nat) (f : Frame) : M Unit := do
  let s ← get
  match s.qp q with
  | none => pure ()
  | some x =>
    match responseFor x f [4, 5] with
    | none => pure ()
    | some (i, o) =>
      let st ← placeLocal q x o.wr 0 (f.payload.take 8)
      if st ≠ 0 then failQp q st (some i) else answered q i

/-- A FLUSH response. -/
def flushResponse (q : Nat) (f : Frame) : M Unit := do
  let s ← get
  match s.qp q with
  | none => pure ()
  | some x => match responseFor x f [6] with | some (i, _) => answered q i | none => pure ()

/-! ## Timers and pacing (R396, R397, R400) -/

/-- RTO in LTIME ticks of 10 ns: 2^RTOEXP microseconds, doubled after each consecutive timeout up to 8 times. -/
def rtoTicks (x : QueuePair) : Nat := 100 * 2 ^ x.rtoexp.toNat * 2 ^ Nat.min x.timeouts 3

/-- The retransmission timer expires (log entry 9). During a back-off the queue pair sends nothing. -/
def timeout (q : Nat) : M Unit := do
  let s ← get
  match s.qp q with
  | none => pure ()
  | some x =>
    match x.unacked, x.backoff with
    | [], _ => pure ()
    | _, some _ => pure ()
    | p :: _, none =>
      let due := x.rtoStart + BitVec.ofNat 64 (rtoTicks x)
      let s := if s.ltime.ult due then { s with ltime := due } else s
      set (s.setQp q { x with timeouts := x.timeouts + 1, rtoStart := s.ltime })
      if x.retry.toNat < x.timeouts + 1 then failQp q stRetryExc (openAt x p)
      else x.unacked.forM (resend q)

/-- The back-off ends, at its time (R397; log entry 9). -/
def backoffEnds (q : Nat) : M Unit := do
  let s ← get
  match s.qp q with
  | none => pure ()
  | some x =>
    match x.backoff with
    | none => pure ()
    | some (p, due) =>
      let s := if s.ltime.ult due then { s with ltime := due } else s
      set (s.setQp q { x with backoff := none, rtoStart := s.ltime })
      resendFrom q p

/-- The rung and the clean windows after a window with m marks and a acknowledged packets. -/
def rateStep (g c m a : Nat) : Nat × Nat :=
  if 0 < m then (Nat.min (g + Nat.max 1 ((8 * m + Nat.max a 1 - 1) / Nat.max a 1)) 40, 0)
  else if 0 < a then (if c + 1 = 4 then (g - 1, 0) else (g, c + 1))
  else (g, c)

/-- A 16 µs window closes while packets are unacknowledged. -/
def rateWindow (x : QueuePair) : QueuePair :=
  if x.unacked.isEmpty then x
  else
    let (g, c) := rateStep x.rung x.cleanWin x.winM x.winA
    { x with rung := g, cleanWin := c, winM := 0, winA := 0 }

def rateIdle (x : QueuePair) : QueuePair := if x.unacked.isEmpty then { x with rung := 0, cleanWin := 0 } else x

end Machine
end Sys2Proof
end

