-- ==== Sys2Proof/Machine/SluiceRecv.lean ====
section
/-! DEFINITION. The responder's side of a queue pair: admission, placement, responses, the anteroom (R358, R361, R362, R364, R365, R371,
R376, R382, R386, R389 to R392, R395, R398, R399, R402, R405, R406). -/

namespace Sys2Proof
namespace Machine

/-! ## Messages being received -/

/-- Packets of a message: of a WRITE by its length, of a SEND once its last packet is admitted (`len` then counts them). -/
def RxMsg.npk (mtu : Nat) (m : RxMsg) : Option Nat :=
  if m.typ = tyWrite then some (packetsOf mtu m.len.toNat) else if m.len = 0 then none else some m.len.toNat

/-- A PSN is known to be one of the message's. -/
def RxMsg.covers (mtu : Nat) (m : RxMsg) (p : BitVec 24) : Bool :=
  match m.npk mtu with | some n => decide (psnDiff p m.psn < n) | none => false

/-- Every PSN from ePSN up to p is known to be a WRITE's or a SEND's, so that no READ or ATOMIC lies before p (R382). -/
def gapKnown (x : QueuePair) (p : BitVec 24) : Bool :=
  (List.range (psnDiff p x.epsn)).all fun i =>
    let r := x.epsn + BitVec.ofNat 24 i
    x.ahead.contains r || x.rx.any (fun m => m.covers x.mtuBytes r) || x.early.any fun m => m.covers x.mtuBytes r

/-- A packet of a SEND ahead of ePSN belongs to the SEND at ePSN: its end is known and behind it, or no two packets in a row are
missing before it, so that none of them can have ended one SEND and begun another. -/
def sendBelongs (x : QueuePair) (m : RxMsg) (p : BitVec 24) : Bool :=
  match m.npk x.mtuBytes with
  | some n => decide (psnDiff p m.psn < n)
  | none =>
    let have_ (i : Nat) : Bool := x.ahead.contains (x.epsn + BitVec.ofNat 24 i)
    (List.range (psnDiff p x.epsn - 1)).all fun i => have_ i || have_ (i + 1)

/-- The message of the receiver that a packet with no FIRST, or a later one, belongs to: the one at ePSN, or a relaxed WRITE that is
placed early (R391). True for the one at ePSN. -/
def messageOf (x : QueuePair) (typ : BitVec 8) (p : BitVec 24) : Option (Bool × RxMsg) :=
  let mine (m : RxMsg) : Bool :=
    m.typ = typ && (if typ = tyWrite then m.covers x.mtuBytes p else if p = x.epsn then true else sendBelongs x m p)
  match x.rx with
  | some m => if mine m then some (true, m) else (x.early.find? mine).map fun m => (false, m)
  | none => (x.early.find? mine).map fun m => (false, m)

/-- Replace a message of the receiver by its first PSN. -/
def putMessage (m : RxMsg) (x : QueuePair) : QueuePair :=
  { x with
    rx := match x.rx with | some r => if r.psn = m.psn then some m else some r | none => none
    early := x.early.map fun r => if r.psn = m.psn then m else r }

/-- Name of a received SEND among its region's messages, apart from those this die starts. -/
def sendName (m : RxMsg) : Nat := m.psn.toNat + 2 ^ 24

/-- A message has been placed whole: it ends, and SEND and WRITE with NOTIFY are counted and reported (R368, R371). -/
def finishRx (q : Nat) (m : RxMsg) : M Unit := do
  modify (modQp q fun x => { x with rx := none, msn := x.msn + 1 })
  if m.typ = tyWrite then modify (closeMessage (keyIndex m.rkey) q m.psn.toNat false)
  else modify (closeMessage (keyIndex m.lkey) q (sendName m) true)
  if m.typ = tySend || m.notify then
    let st ← putRxCqe q m stSuccess
    if st ≠ 0 then failQp q st none else modify (modQp q fun x => { x with rcnt := x.rcnt + 1 })

/-- End the messages that ePSN has passed, in order. -/
def settleRx (q : Nat) : Nat → M Unit
  | 0 => pure ()
  | fuel + 1 => do
    let s ← get
    match s.qp q with
    | none => pure ()
    | some x =>
      match x.rx with
      | some m =>
        match m.npk x.mtuBytes with
        | some n => if n ≤ psnDiff x.epsn m.psn && psnDiff x.epsn m.psn < 2 ^ 23 then finishRx q m; settleRx q fuel else pure ()
        | none => pure ()
      | none =>
        match x.early.find? fun m => psnBehind m.psn x.epsn with
        | some m =>
          set (s.setQp q { x with rx := some m, early := x.early.filter fun r => r.psn ≠ m.psn })
          settleRx q fuel
        | none => pure ()

/-- ePSN advances past every admitted packet that has no gap before it. -/
def advance : Nat → BitVec 24 → List (BitVec 24) → BitVec 24 × List (BitVec 24)
  | 0, e, l => (e, l)
  | fuel + 1, e, l => if l.contains e then advance fuel (e + 1) (l.filter (· ≠ e)) else (e, l)

/-- A packet that takes n PSNs is admitted. `owes`: no response acknowledges it (R395). -/
def takeIn (q : Nat) (p : BitVec 24) (n : Nat) (owes : Bool) : M Unit := do
  let s ← get
  match s.qp q with
  | none => pure ()
  | some x =>
    let (e, l) := if p = x.epsn then advance (x.ahead.length + 1) (x.epsn + BitVec.ofNat 24 n) x.ahead else (x.epsn, x.ahead ++ [p])
    set (s.setQp q { x with epsn := e, ahead := l, sinceAck := x.sinceAck + 1, owed := x.owed || owes })
    settleRx q (2 * x.early.length + 4)

/-- The acknowledgement that an admitted packet brings about (R392). -/
def ackAdmitted (q : Nat) (f : Frame) : M Unit := do
  let s ← get
  match s.qp q with
  | none => pure ()
  | some x => if f.ackreq || f.last || 16 ≤ x.sinceAck then modify (sendAck q) else pure ()

/-- The ACK after 16 packets, where a response acknowledges the last of them. -/
def ackCount (q : Nat) : M Unit := do
  let s ← get
  match s.qp q with
  | none => pure ()
  | some x => if 16 ≤ x.sinceAck then modify (sendAck q) else pure ()

/-! ## WRITE and SEND -/

/-- The queue pair fails while it receives, and its peer is told (R365, R367). -/
def failReceive (q : Nat) (st : BitVec 8) : M Unit := do
  failQp q st none
  modify (sendNak q 3 0)

/-- A message is no longer received. -/
def dropMessage (q : Nat) (m : RxMsg) (s : State) : State :=
  let s := modQp q (fun x => { x with rx := x.rx.filter fun r => r.psn ≠ m.psn, early := x.early.filter fun r => r.psn ≠ m.psn }) s
  if m.typ = tyWrite then closeMessage (keyIndex m.rkey) q m.psn.toNat false s else closeMessage (keyIndex m.lkey) q (sendName m) true s

/-- A message fails at its receiver: its receive entry, the error state, the NAK (R365, R367, R368). -/
def failMessage (q : Nat) (m : RxMsg) (st : BitVec 8) : M Unit := do
  modify (dropMessage q m)
  let _ ← putRxCqe q m st
  failReceive q st

/-- A WRITE, or the placement of a SEND into an absent stack, is refused with an access NAK (R9, R358). A SEND and a WRITE with NOTIFY have a
receive entry all the same, with LOC_ACCESS, which moves the queue pair to the error state (R367, R368; log entry 131). -/
def refuseMessage (q : Nat) (m : RxMsg) : M Unit := do
  modify (dropMessage q m)
  if m.typ = tySend || m.notify then
    let _ ← putRxCqe q m stLocAccess
    failQp q stLocAccess none
  modify (sendNak q 2 0)

/-- The payload of a packet has its length by R390. -/
def payloadFits (mtu : Nat) (m : RxMsg) (f : Frame) : Bool :=
  if m.typ = tyWrite then
    let off := psnDiff f.psn m.psn * mtu
    f.payload.length = Nat.min mtu (m.len.toNat - off) && f.last = decide (psnDiff f.psn m.psn + 1 = packetsOf mtu m.len.toNat)
  else f.payload.length ≤ mtu && (f.last || f.payload.length = mtu)

/-- Place a packet of a message and take it in. `head`: it belongs to the message at ePSN; a packet ahead of ePSN that fails its checks is dropped,
and meets them again in its turn. -/
def placePacket (q : Nat) (head : Bool) (m : RxMsg) (f : Frame) : M Unit := do
  let s ← get
  match s.qp q with
  | none => pure ()
  | some x =>
    let off := psnDiff f.psn m.psn * x.mtuBytes
    let n := f.payload.length
    let isWrite : Bool := m.typ = tyWrite
    let (key, base, right) := if isWrite then (m.rkey, m.raddr.toNat, 3) else (m.lkey, m.laddr.toNat, 1)
    let m := { m with imm := if f.last then f.imm else m.imm }
    let later : M Unit := modify fun s => sendAck q (if f.first then dropMessage q m s else s)
    if !isWrite && m.dlen.toNat < off + n then failMessage q m stLocLen
    else if n ≠ 0 && !regionOk s x.polder key (base + off) n right (isWrite || !f.first) then
      if !isWrite then failMessage q m stLocAccess
      else if head then refuseMessage q m
      else later
    else
      let st ← regionWrite (.sluice q) (s.region (keyIndex key)) (base + off) f.payload
      if st = 15 then (if head || !isWrite then refuseMessage q m else later)
      else if st ≠ 0 then failMessage q m stMemErr
      else
        let m := { m with got := m.got + n
                          len := if isWrite || !f.last then m.len else BitVec.ofNat 32 (psnDiff f.psn m.psn + 1) }
        modify (modQp q (putMessage m))
        takeIn q f.psn 1 true
        ackAdmitted q f

/-- The next receive descriptor, as a message: WRID, LADDR, LKEY, LEN; none where a reserved field is not zero or LEN is out of range (R364). -/
def descriptorOf (f : Frame) (bs : List Byte) : Bool × RxMsg :=
  let w (i : Nat) : Word := BitVec.ofNat 64 (fromLe ((bs.drop (8 * i)).take 8))
  let m : RxMsg := ⟨tySend, f.psn, 0, 0, 0, false, 0, 0, w 0, w 1, fld (w 2) 0 32, fld (w 2) 32 32, false⟩
  (w 3 = 0 && decide (m.dlen.toNat ≤ 2 ^ 30), m)

def readDescriptor (q : Nat) (x : QueuePair) : M (Except (BitVec 8) (List Byte)) := ringRead q x x.rqKey x.rqAddr x.rqLog x.rqCi 32

/-- The next receive descriptor is consumed for a SEND (R364, R365). The WRID of one that cannot be read is not stated: a free value. -/
def takeDescriptor (q : Nat) (f : Frame) : M (Option RxMsg) := do
  let s ← get
  match s.qp q with
  | none => pure none
  | some x =>
    if x.rqPi = x.rqCi then
      modify (sendNak q 1 x.rnrt)
      pure none
    else
      let e ← readDescriptor q x
      modify (modQp q fun x => { x with rqCi := x.rqCi + 1 })
      match e with
      | .error st => do
        let v ← takeFree
        failMessage q ⟨tySend, f.psn, 0, 0, 0, false, if f.last then f.imm else 0, 0, v, 0, 0, 0, false⟩ st
        pure none
      | .ok bs =>
        let (good, m) := descriptorOf f bs
        if !good then
          failMessage q { m with imm := if f.last then f.imm else 0 } stBadWr
          pure none
        else
          if f.payload.length ≠ 0 then modify fun s => openMessage (keyIndex m.lkey) q (sendName m) true (bringRegion (keyIndex m.lkey) s)
          pure (some m)

/-- A WRITE message begins: its checks, over the whole message. -/
def beginWrite (q : Nat) (x : QueuePair) (f : Frame) : M (Option RxMsg) := do
  let s ← get
  let m : RxMsg := ⟨tyWrite, f.psn, f.rkey, f.raddr, f.len, f.notify, 0, 0, 0, 0, 0, 0, false⟩
  if f.len ≠ 0 && !regionOk s x.polder f.rkey f.raddr.toNat f.len.toNat 3 false then
    if f.psn = x.epsn then refuseMessage q { m with imm := if f.last then f.imm else 0 } else modify (sendAck q)
    pure none
  else
    if f.len ≠ 0 then modify (openMessage (keyIndex f.rkey) q f.psn.toNat false)
    pure (some m)

/-- A WRITE or SEND packet at or ahead of ePSN (R391). -/
def dataPacket (q : Nat) (typ : BitVec 8) (f : Frame) : M Unit := do
  let s ← get
  match s.qp q with
  | none => pure ()
  | some x =>
    let here : Bool := f.psn = x.epsn
    if f.first then
      let fresh : RxMsg := ⟨typ, f.psn, 0, 0, f.len, false, 0, 0, 0, 0, 0, 0, false⟩
      if !payloadFits x.mtuBytes fresh f then pure ()
      else if here && x.rx.isNone then
        match ← (if typ = tyWrite then beginWrite q x f else takeDescriptor q f) with
        | none => pure ()
        | some m =>
          modify (modQp q fun x => { x with rx := some m })
          placePacket q true m f
      else if !here && typ = tyWrite && f.relax && gapKnown x f.psn then
        match ← beginWrite q x f with
        | none => pure ()
        | some m =>
          modify (modQp q fun x => { x with early := x.early ++ [m] })
          placePacket q false m f
      else modify (sendAck q)
    else
      match messageOf x typ f.psn with
      | some (head, m) => if payloadFits x.mtuBytes m f then placePacket q head m f else pure ()
      | none => modify (sendAck q)

/-! ## READ, ATOMIC and FLUSH -/

/-- The response packets of a READ: packet i carries PSN p + i (R390). -/
def sendReadResp (q : Nat) (mtu : Nat) (p : BitVec 24) (bs : List Byte) (s : State) : State :=
  let n := packetsOf mtu bs.length
  (List.range n).foldl (fun t i =>
    let f := { Frame.zero with psn := p + BitVec.ofNat 24 i, first := i = 0, last := i + 1 = n, payload := (bs.drop (i * mtu)).take mtu }
    if i + 1 = n then emitAckx q tyReadResp 0 0 f t else emit q tyReadResp f t) s

/-- Read the source of a READ and send it; false where the request fails. One that was admitted before is answered in REVOKING too (R402). -/
def answerRead (q : Nat) (x : QueuePair) (f : Frame) (again : Bool) : M Bool := do
  let s ← get
  if f.len ≠ 0 && !regionOk s x.polder f.rkey f.raddr.toNat f.len.toNat 2 again then
    modify (sendNak q 2 0)
    pure false
  else
    let r ← regionRead (.sluice q) (s.region (keyIndex f.rkey)) f.raddr.toNat f.len.toNat
    if r.1 = 15 then
      modify (sendNak q 2 0)
      pure false
    else if r.1 ≠ 0 then
      failReceive q stMemErr
      pure false
    else
      modify (sendReadResp q x.mtuBytes f.psn r.2)
      pure true

/-- Send the old value of an ATOMIC. -/
def sendAtomicResp (q : Nat) (p : BitVec 24) (old : Word) (s : State) : State :=
  emitAckx q tyAtomicResp 0 0 { Frame.zero with psn := p, first := true, last := true, payload := toLe 8 old.toNat } s

/-- Perform an ATOMIC at the home agent of its line (R362): FADD is operation 1, CSWAP operation 9. -/
def performAtomic (q : Nat) (r : Region) (f : Frame) : M (BitVec 4 × Word) := do
  let a ← regionAddr (.sluice q) r f.raddr.toNat
  if a.1 ≠ 0 then pure (a.1, 0)
  else
    let (op, x, c) := if f.cswap then (9, f.opnd2, f.opnd1) else (1, f.opnd1, 0)
    match place a.2 with
    | .mem d =>
      let s ← get
      if s.ownDie d then
        if s.ownMem a.2 then
          let st ← homeReady (.sluice q) r.polder (a.2 / 64) true false false
          if st ≠ 0 then pure (st, 0)
          else
            let s ← get
            let (old, t) := homeAtomic r.polder op true a.2 x c s
            set t
            pure (0, old)
        else pure (statusAt 3 a.2, 0)
      else
        let m := { ThMsg.zero with addr := BitVec.ofNat 52 a.2, polder := r.polder, size := 3, subop := BitVec.ofNat 4 op, op0 := x, op1 := c, tr := false }
        let ans ← ask (.sluice q) d.val 9 a.2 m none
        pure (statusAt ans.1 a.2, ans.2.setWidth 64)
    | _ => pure (3, 0)

/-- An ATOMIC_REQ at ePSN; its result joins the last 16 (R399). -/
def answerAtomic (q : Nat) (x : QueuePair) (f : Frame) : M Unit := do
  let s ← get
  if f.raddr.toNat % 8 ≠ 0 then pure ()
  else if !regionOk s x.polder f.rkey f.raddr.toNat 8 4 false then modify (sendNak q 2 0)
  else
    let r ← performAtomic q (s.region (keyIndex f.rkey)) f
    if r.1 = 15 then modify (sendNak q 2 0)
    else if r.1 ≠ 0 then failReceive q stMemErr
    else
      modify (modQp q fun x => { x with atomics := ((f.psn, r.2) :: x.atomics).take 16, msn := x.msn + 1 })
      takeIn q f.psn 1 false
      modify (sendAtomicResp q f.psn r.2)
      ackCount q

def sendFlushResp (q : Nat) (p : BitVec 24) (s : State) : State :=
  emitAckx q tyFlushResp 0 0 { Frame.zero with psn := p, first := true, last := true } s

/-- A request at ePSN that is answered by a response. Every earlier message is then visible here (R382, R386). -/
def respondHere (q : Nat) (x : QueuePair) (typ : BitVec 8) (f : Frame) : M Unit :=
  match typ.toNat with
  | 0x03 => do
    if ← answerRead q x f false then
      modify (modQp q fun x => { x with msn := x.msn + 1 })
      takeIn q f.psn (packetsOf x.mtuBytes f.len.toNat) false
      ackCount q
  | 0x05 => answerAtomic q x f
  | _ => do
    modify (modQp q fun x => { x with msn := x.msn + 1 })
    takeIn q f.psn 1 false
    modify (sendFlushResp q f.psn)
    ackCount q

/-- A duplicate, behind ePSN (R391, R395, R399). -/
def duplicate (q : Nat) (x : QueuePair) (typ : BitVec 8) (f : Frame) : M Unit :=
  match typ.toNat with
  | 0x03 => do
    let _ ← answerRead q x f true
    pure ()
  | 0x05 =>
    match x.atomics.find? fun e => e.1 = f.psn with
    | some e => modify (sendAtomicResp q f.psn e.2)
    | none => modify (sendAck q)
  | 0x07 => modify (sendFlushResp q f.psn)
  | _ => modify (sendAck q)

/-! ## Requests -/

/-- The packet belongs to a WRITE that a revocation has cut: it is dropped, and answered with an access NAK (R403; log entry 132). -/
def ofCut (x : QueuePair) (typ : BitVec 8) (f : Frame) : Bool :=
  typ = tyWrite && (x.rx.toList ++ x.early).any fun m => m.cut && m.covers x.mtuBytes f.psn

/-- A request packet at the stage of admission. -/
def serve (q : Nat) (typ : BitVec 8) (f : Frame) : M Unit := do
  let s ← get
  match s.qp q with
  | none => pure ()
  | some x =>
    if ofCut x typ f then modify (sendNak q 2 0)
    else
    match x.nak with
    | some code => if f.first then modify (emitAckx q tyNak code 0 { Frame.zero with psn := x.epsn }) else pure ()
    | none =>
      let d := psnDiff f.psn x.epsn
      if x.state ≠ 2 && x.state ≠ 3 then modify (sendNak q 2 0)
      else if psnBehind f.psn x.epsn then duplicate q x typ f
      else if 255 < d || x.ahead.contains f.psn then modify (sendAck q)
      else if typ = tyWrite || typ = tySend then dataPacket q typ f
      else if d = 0 && x.rx.isNone then respondHere q x typ f
      else modify (sendAck q)

/-- The region whose entry a request needs, where its packet or its message names it. -/
def namedRegion (x : QueuePair) (typ : BitVec 8) (f : Frame) : Option Nat :=
  if (typ = tyWrite && f.first && f.len ≠ 0) || (typ = tyReadReq && f.len ≠ 0) || typ = tyAtomicReq then some (keyIndex f.rkey)
  else if (typ = tyWrite || typ = tySend) && !f.first then
    match messageOf x typ f.psn with
    | some (_, m) => if typ = tySend then some (keyIndex m.lkey) else if m.len ≠ 0 then some (keyIndex m.rkey) else none
    | none => none
  else none

def entryAway (s : State) (i : Nat) : Bool := let r := s.region i; r.state ≠ .free && !r.onDie

def regionAway (s : State) (x : QueuePair) (typ : BitVec 8) (f : Frame) : Bool :=
  match namedRegion x typ f with
  | some i => entryAway s i
  | none => false

/-- The first packet of a SEND that is the next of its queue pair, with bytes to place, finds a descriptor. -/
def takesDescriptor (x : QueuePair) (typ : BitVec 8) (f : Frame) : Bool :=
  typ = tySend && f.first && f.psn = x.epsn && x.rx.isNone && x.rqPi ≠ x.rqCi && f.payload.length ≠ 0 && x.nak.isNone && (x.state = 2 || x.state = 3)

/-- The region of a SEND stands in the descriptor that it is about to consume. -/
def sendRegion (q : Nat) (x : QueuePair) (typ : BitVec 8) (f : Frame) : M (Option Nat) :=
  if takesDescriptor x typ f then do
    match ← readDescriptor q x with
    | .ok bs => pure (some (keyIndex (descriptorOf f bs).2.lkey))
    | .error _ => pure none
  else pure none

/-- Park a request in the anteroom, or refuse it with an RNR NAK (R405, R406). -/
def park (q : Nat) (x : QueuePair) (typ : BitVec 8) (f : Frame) (s : State) : State :=
  let n := parkUnits f
  let quota := (mget (16 : BitVec 10) s.sluice.quota x.polder.toNat).toNat
  if quota < antePolder s x.polder + n || 512 < anteUse s + n then
    let s := { s with sluice := { s.sluice with rnrAnte := satInc s.sluice.rnrAnte } }
    modQp q (fun x => { x with anteNak := some f.psn }) (emitAckx q tyNak 4 4 { Frame.zero with psn := f.psn } s)
  else
    let s := if x.onDie || !x.parked.isEmpty then s else countMiss s
    modQp q (fun x => { x with parked := x.parked ++ [(typ, f)] }) s

/-- A request packet arrives. In die-quiet it is parked (R519). -/
def request (q : Nat) (typ : BitVec 8) (f : Frame) : M Unit := do
  let s ← get
  match s.qp q with
  | none => pure ()
  | some x =>
    match x.anteNak with
    | some p => if p ≠ f.psn then pure () else go x { x with anteNak := none }
    | none => go x x
where
  go (old x : QueuePair) : M Unit := do
    if old ≠ x then modify fun s => s.setQp q x
    let s ← get
    if s.power.inQuiet || !x.onDie || !x.parked.isEmpty || regionAway s x typ f then modify (park q x typ f)
    else
      let away ← sendRegion q x typ f
      let s ← get
      if away.any (entryAway s) then modify fun s => park q ((s.qp q).getD x) typ f s
      else
        modify (touchQp q)
        serve q typ f

/-- The parked packets of a queue pair are admitted in their order (R405). -/
def serveParked (q : Nat) : M Unit := do
  let s ← get
  match s.qp q with
  | none => pure ()
  | some x =>
    set (s.setQp q { x with parked := [] })
    x.parked.forM fun e => do
      let s ← get
      match s.qp q with
      | none => pure ()
      | some x =>
        (match namedRegion x e.1 e.2 with | some i => modify (bringRegion i) | none => pure ())
        serve q e.1 e.2

end Machine
end Sys2Proof
end

