-- ==== Sys2Proof/Machine/Sluice.lean ====
section
/-! DEFINITION. The sluice's rows: doorbells, work requests, packets and timers (ch13, ch14). -/

namespace Sys2Proof
namespace Machine

/-- One piece of the sluice's work: the regions whose messages have all finished settle, and the answers it has used are forgotten. -/
def sluiceRun (q : Nat) (m : M Unit) (s : State) : Host.Outcome State Fault Refusal :=
  outcome (do
    m
    modify settleRegions
    modify (clearAnswers (.sluice q))) s

/-! ## Doorbells (R351 to R353) -/

def execSqPi (q : BitVec 20) (st : DevStore) (s : State) : Host.Outcome State Fault Refusal :=
  sluiceRun q.toNat (bellStore q.toNat 0 st.size st.value st.tag st.trusted) s
def execRqPi (q : BitVec 20) (st : DevStore) (s : State) : Host.Outcome State Fault Refusal :=
  sluiceRun q.toNat (bellStore q.toNat 8 st.size st.value st.tag st.trusted) s
def execCqArm (q : BitVec 20) (st : DevStore) (s : State) : Host.Outcome State Fault Refusal :=
  sluiceRun q.toNat (bellStore q.toNat 0x10 st.size st.value st.tag st.trusted) s

/-! ## Work requests (R359 to R375): the one at SQ_CI starts -/

def execNop (q : BitVec 20) (s : State) : Host.Outcome State Fault Refusal := sluiceRun q.toNat (startWr 0 q.toNat) s
def execWrite (q : BitVec 20) (s : State) : Host.Outcome State Fault Refusal := sluiceRun q.toNat (startWr 1 q.toNat) s
def execRead (q : BitVec 20) (s : State) : Host.Outcome State Fault Refusal := sluiceRun q.toNat (startWr 2 q.toNat) s
def execSend (q : BitVec 20) (s : State) : Host.Outcome State Fault Refusal := sluiceRun q.toNat (startWr 3 q.toNat) s
def execAtomicFadd (q : BitVec 20) (s : State) : Host.Outcome State Fault Refusal := sluiceRun q.toNat (startWr 4 q.toNat) s
def execAtomicCswap (q : BitVec 20) (s : State) : Host.Outcome State Fault Refusal := sluiceRun q.toNat (startWr 5 q.toNat) s
def execFlush (q : BitVec 20) (s : State) : Host.Outcome State Fault Refusal := sluiceRun q.toNat (startWr 6 q.toNat) s
def execWait (q : BitVec 20) (s : State) : Host.Outcome State Fault Refusal := sluiceRun q.toNat (startWr 7 q.toNat) s

/-- The counter that a held WAIT names has reached THRESH (R372). -/
def waitReached (s : State) (x : QueuePair) : Bool :=
  match x.held with
  | none => false
  | some (n, rcv, thresh) =>
    match s.qp n with
    | none => false
    | some y => decide (((if rcv then y.rcnt else y.scnt) - thresh).toNat < 2 ^ 31)

/-- A held WAIT is satisfied: the send queue continues, and the WAIT completes in its turn. A context that is not on the die is fetched first,
and the WAIT stays held while no place is free (R374, R378, R380). -/
def waitDone (q : Nat) : M Unit := do
  let s₀ ← get
  let s := fetchQp q s₀
  match s.qp q with
  | none => pure ()
  | some x =>
    if !waitReached s x || !x.onDie then pure ()
    else
      let opens := x.opens.map fun o => if o.wr.op = 7 && o.done.isNone then { o with done := some stSuccess } else o
      set (s.setQp q { x with held := none, opens := opens })
      completeReady q

def execWaitSatisfied (q : BitVec 20) (s : State) : Host.Outcome State Fault Refusal := sluiceRun q.toNat (waitDone q.toNat) s

/-! ## Packets (R388 to R399) -/

def execPacketTransmit (q : BitVec 20) (s : State) : Host.Outcome State Fault Refusal := sluiceRun q.toNat (transmit q.toNat) s

/-- What a response, an acknowledgement or an echo brings uses the context of its queue pair (R380). -/
def usingQp (body : Nat → M Unit) (q : Nat) : M Unit := do
  modify (touchQp q)
  body q

/-- A packet arrives: R389, the counts, then its own effect. -/
def arrive (typ : BitVec 8) (f : Frame) (body : Nat → M Unit) (s : State) : Host.Outcome State Fault Refusal :=
  if !sluiceUp s then .next s
  else
    match arrivalQp typ f s with
    | none => .next (dropArrival s)
    | some (q, _) => sluiceRun q (do
        modify fun s => countCecnt q typ f (countRx typ f (countCe q typ f s))
        body q) s

def execWritePacket (f : Frame) (s : State) : Host.Outcome State Fault Refusal := arrive tyWrite f (request · tyWrite f) s
def execSendPacket (f : Frame) (s : State) : Host.Outcome State Fault Refusal := arrive tySend f (request · tySend f) s
def execReadReq (f : Frame) (s : State) : Host.Outcome State Fault Refusal := arrive tyReadReq f (request · tyReadReq f) s
def execReadResp (f : Frame) (s : State) : Host.Outcome State Fault Refusal := arrive tyReadResp f (usingQp (readResponse · f)) s
def execAtomicReq (f : Frame) (s : State) : Host.Outcome State Fault Refusal := arrive tyAtomicReq f (request · tyAtomicReq f) s
def execAtomicResp (f : Frame) (s : State) : Host.Outcome State Fault Refusal := arrive tyAtomicResp f (usingQp (atomicResponse · f)) s
def execFlushReq (f : Frame) (s : State) : Host.Outcome State Fault Refusal := arrive tyFlushReq f (request · tyFlushReq f) s
def execFlushResp (f : Frame) (s : State) : Host.Outcome State Fault Refusal := arrive tyFlushResp f (usingQp (flushResponse · f)) s
def execAck (f : Frame) (s : State) : Host.Outcome State Fault Refusal := arrive tyAck f (usingQp (ackArrives · f)) s
def execNak (f : Frame) (s : State) : Host.Outcome State Fault Refusal := arrive tyNak f (usingQp (nakArrives · f)) s

/-- An ECHO carries a count of CE marks alone (R400). -/
def execEcho (f : Frame) (s : State) : Host.Outcome State Fault Refusal := arrive tyEcho f (fun _ => pure ()) s

/-! ## Timers and pacing (R392, R396, R397, R400) -/

/-- 4 µs have passed with admitted packets unacknowledged (R392). -/
def ackTimer (q : Nat) (s : State) : State :=
  match s.qp q with
  | some x => if sluiceUp s && x.owed then sendAck q s else s
  | none => s
def execAckTimer (q : BitVec 20) (s : State) : Host.Outcome State Fault Refusal := .next (ackTimer q.toNat s)

/-- CE marks have arrived and no ACKX would leave within 4 µs (R400). -/
def echoTimer (q : Nat) (s : State) : State :=
  match s.qp q with
  | some x => if sluiceUp s && x.ce ≠ 0 then emitAckx q tyEcho 5 0 { Frame.zero with psn := x.epsn } s else s
  | none => s
def execEchoTimer (q : BitVec 20) (s : State) : Host.Outcome State Fault Refusal := .next (echoTimer q.toNat s)

def execRetransmitTimeout (q : BitVec 20) (s : State) : Host.Outcome State Fault Refusal :=
  if sluiceUp s then sluiceRun q.toNat (timeout q.toNat) s else .next s
def execRnrBackoff (q : BitVec 20) (s : State) : Host.Outcome State Fault Refusal :=
  if sluiceUp s then sluiceRun q.toNat (backoffEnds q.toNat) s else .next s
def execRateWindow (q : BitVec 20) (s : State) : Host.Outcome State Fault Refusal := .next (modQp q.toNat rateWindow s)
def execRateIdleReset (q : BitVec 20) (s : State) : Host.Outcome State Fault Refusal := .next (modQp q.toNat rateIdle s)

/-! ## The backing store and revocation (R403, R405, R407) -/

/-- A fetch from the backing store ends: the parked packets are admitted in order, or dropped, and the sender's retransmissions meet an access
NAK (R405, R407). -/
def fetchDone (q : Nat) (ok : Bool) : M Unit := do
  let s ← get
  match s.qp q with
  | none => pure ()
  | some x =>
    if x.onDie && x.parked.isEmpty then pure ()
    else if ok then
      modify (bringQp q)
      let s ← get
      if qpOnDie s q then serveParked q else pure ()
    else
      set (bringQp q (record 0x03 0x40 x.polder 1 0 0 (s.setQp q { x with parked := [] })))
      failQp q stMemErr none
def execContextFetchDone (q : BitVec 20) (ok : Bool) (s : State) : Host.Outcome State Fault Refusal :=
  if sluiceUp s && !s.power.inQuiet then sluiceRun q.toNat (fetchDone q.toNat ok) s else .next s

/-- The packets of a message that has n of them, from its first PSN, that have not been admitted. -/
def notHere (x : QueuePair) (m : RxMsg) (n : Nat) : Nat :=
  let here (i : Nat) : Bool := let p := m.psn + BitVec.ofNat 24 i; psnBehind p x.epsn || x.ahead.contains p
  ((List.range n).filter fun i => !here i).length

/-- The open message that this die started at a PSN; a NOP and a WAIT take no PSN and are none. -/
def localOpen (x : QueuePair) (n : Nat) : Option Nat := x.opens.findIdx? fun o => o.psn.toNat = n && o.npsn ≠ 0

/-- Packets of a cut message that have not been admitted, sent or received. Of a SEND whose last packet has not come the receiver cannot know the
number: a free value from 1 to the 2^20 that the longest message has (log entry 136). -/
def remaining (x : QueuePair) (n : Nat) (isLocal : Bool) : M Nat :=
  if isLocal then
    match (localOpen x n).bind fun i => x.opens[i]? with
    | some o => pure (if o.wr.op = 2 then o.npsn - o.got / x.mtuBytes else o.npsn - Nat.min o.sent o.npsn)
    | none =>
      match x.rx with
      | some m =>
        if m.typ = tySend && sendName m = n then
          match m.npk x.mtuBytes with
          | some k => pure (notHere x m k)
          | none => do
            let f ← takeFree
            pure (1 + f.toNat % 2 ^ 20)
        else pure 0
      | none => pure 0
  else
    match (x.rx.toList ++ x.early).find? fun m => m.psn.toNat = n && m.typ = tyWrite with
    | some m => pure (notHere x m (packetsOf x.mtuBytes m.len.toNat))
    | none => pure 0

/-- Cut one message of a region. A message that this die started, or receives through a descriptor, ends with LOC_ACCESS; later packets of a WRITE
that it receives are answered with an access NAK, and one with NOTIFY has its receive entry (R368, R403; log entry 131). -/
def cutMessage (m : Nat × Nat × Bool) : M Unit := do
  let s ← get
  let (q, n, isLocal) := m
  match s.qp q with
  | none => pure ()
  | some x =>
    let found := (x.rx.toList ++ x.early).find? fun r => if isLocal then r.typ = tySend && sendName r = n else r.typ = tyWrite && r.psn.toNat = n
    match found with
    | some r =>
      if isLocal || r.notify then
        set (dropMessage q r s)
        let _ ← putRxCqe q r stLocAccess
        failQp q stLocAccess none
      else set (s.setQp q (putMessage { r with cut := true } x))
    | none => if isLocal then failQp q stLocAccess (localOpen x n) else pure ()

/-- 64 µs after a revocation began, the messages that have not finished are cut (R403). -/
def revokeCut (i : Nat) : M Unit := do
  modify (dropFinished i)
  let s ← get
  let r := s.region i
  if r.state ≠ .revoking then pure ()
  else
    let dropped ← r.open_.foldlM (fun n m => do
      match s.qp m.1 with
      | some x =>
        let k ← remaining x m.2.1 m.2.2
        pure (n + k)
      | none => pure n) 0
    let s ← get
    let s := s.setRegion i { r with open_ := [] }
    set (settleRegion i r.open_.length dropped { s with sluice := { s.sluice with revdrop := satAdd s.sluice.revdrop dropped } })
    r.open_.forM cutMessage
def execRevokeCut (idx : BitVec 18) (s : State) : Host.Outcome State Fault Refusal := outcome (revokeCut idx.toNat) s

end Machine
end Sys2Proof
end

