-- ==== Sys2Proof/Machine/Levee.lean ====
section
/-! DEFINITION. The levee's rows: triggers, the arm, the copy, the commit and the restore (ch15). -/

namespace Sys2Proof
namespace Machine

/-- The levee works: not fenced, its floodgate open, no die stop, its clock not stopped by SHUTDOWN (R498). -/
def leveeUp (s : State) : Bool := !s.coff.leveeFenced && (s.gate 0x41).open_ && !s.coff.dieStop && !s.inReset && !s.power.rootOff

/-! ## Triggers (R412, R413, R416) -/

def coreOf : Writer → Option CoreId
  | .core c => some c
  | _ => none

/-- A store to the step page of a shard; a trigger may fire. -/
def execStep (sh : Fin 16) (by_ : Writer) (st : DevStore) (s : State) : Host.Outcome State Fault Refusal :=
  .next (if leveeUp s then gated by_ (stepStore sh (coreOf by_) st.size st.value st.tag st.trusted) s else s)

/-- A write of LEVEE_TMR. -/
def execLeveeTmrWrite (by_ : Writer) (sh : Fin 16) (v : Word) (s : State) : Host.Outcome State Fault Refusal :=
  .next (if leveeUp s then gated by_ (leveeTmr sh v) s else s)

/-- LTIME reaches the timer's next moment (log entry 9), and the timer trigger fires. -/
def leveeTimer (i : Fin 16) (s : State) : State :=
  let x := s.shard i
  if x.tmr = 0 then s
  else
    let due := x.tmrStart + x.tmr.setWidth 64 * 100000
    (trigger i 0 (if s.ltime.ult due then { s with ltime := due } else s)).2
def execLeveeTimer (sh : Fin 16) (s : State) : Host.Outcome State Fault Refusal := .next (if leveeUp s then leveeTimer sh s else s)

/-! ## The arm (R415 to R418) -/

/-- The line lies in a region of the shard. -/
def inShard (s : State) (x : Shard) (n : Nat) : Bool :=
  (List.range x.nreg).any fun i => let (b, k) := leveeRegion s (x.first + i); decide (b ≤ 64 * n) && decide (64 * n < b + k * 2 ^ 18)

/-- Every cache of the die downgrades its lines of the shard: M to O, E to S. -/
def downgrade (p : Nat → Bool) (s : State) : State :=
  { s with
    cores := s.cores.map fun k => (linesOf k.l2).foldl (fun k e => if p e.2.line then k.setLine e.2.line e.2.st.shared else k) k
    wings := s.wings.map fun x => (linesOf x.cache).foldl (fun x e => if p e.2.line then x.setLine e.2.line e.2.st.shared else x) x }

/-- A home agent sends SnpDown to the die that may hold a line of the shard in M or E. -/
def snoopDown (i : Fin 16) (tag : BitVec 12) (e : Nat × DirEntry) (s : State) : State :=
  match e.2.owner with
  | some d =>
    if s.nodeLost d.val || s.th.txns.any (fun t => t.line = e.1) then s
    else startTxn e.1 (.levee i) 0 false { ThMsg.zero with polder := tag } 3 [d] s
  | none => s

/-- Every core that the arm asked to pause has paused. -/
def coresPaused (s : State) (x : Shard) : Bool :=
  allCores.all fun c => !(x.cores.getLsbD c.val && s.present c && (s.core c).armPausing)

/-- A transaction of the line is under way. -/
def lineBusy (s : State) (n : Nat) : Bool := s.th.txns.any fun t => t.line = n

/-- Arm steps 2 to 4: writes to the shard's granules are held from here on, and the caches downgrade. A line with a transaction under way is
downgraded on the other dies behind it. -/
def armPoint (i : Fin 16) (s : State) : State :=
  let x := s.shard i
  if x.state ≠ .arming || x.armed || !coresPaused s x then s
  else
    let lines := s.mem.dir.filter fun e => inShard s x e.1
    let later := ((lines.map (·.1)).filter (lineBusy s)) ++ (s.th.txns.map (·.line)).filter fun n => inShard s x n && !(lines.any fun e => e.1 = n)
    let s := downgrade (inShard s x) (s.setShard i { x with armed := true, ta := s.ltime, toDown := later.eraseDups })
    let s := lines.foldl (fun t e => snoopDown i x.polder e t) s
    { s with levee := { s.levee with unsaved := (shardGranules s x).foldr (fun a l => insertNat (granOf a) l) s.levee.unsaved } }
def execArmPoint (sh : Fin 16) (s : State) : Host.Outcome State Fault Refusal := .next (if leveeUp s then armPoint sh s else s)

/-- The downgrades that waited for another transaction of their line go out once it has ended. -/
def lateDown (i : Fin 16) (s : State) : State :=
  let x := s.shard i
  let free := x.toDown.filter fun n => !lineBusy s n
  free.foldl (fun t n => snoopDown i x.polder (n, dirOf t n) t) (s.setShard i { x with toDown := x.toDown.filter (lineBusy s) })

/-- Arm step 5: the downgrades are answered, the cores resume, and the copy begins. -/
def armResume (i : Fin 16) (s : State) : State :=
  if (s.shard i).state ≠ .arming || !(s.shard i).armed then s
  else
    let s := lateDown i s
    let x := s.shard i
    if !x.toDown.isEmpty || s.th.txns.any (fun t => t.unit = .levee i) then s
    else resumeShard i (s.setShard i { x with state := .copying, armed := false, crc := 0, copied := 0, phase := 0 })
def execArmResume (sh : Fin 16) (s : State) : Host.Outcome State Fault Refusal := .next (if leveeUp s then armResume sh s else s)

/-! ## Slots, local and remote (R421 to R426) -/

/-- The levee may put a work request on a queue pair: it runs, and no WAIT holds it. -/
def leveeMay (s : State) (q : Nat) : Bool :=
  match (fetchQp q s).qp q with | some x => x.onDie && x.state = 3 && x.held.isNone | none => false

/-- It may put a READ there: at most 16 READs and ATOMICs are outstanding (R381). -/
def leveeMayRead (s : State) (q : Nat) : Bool := leveeMay s q && match s.qp q with | some x => readsFree x | none => false

/-- The queue pair can carry no more: it is gone, or in ERROR. -/
def qpGone (s : State) (q : Nat) : Bool := match s.qp q with | some x => x.state = 4 | none => true

/-- Requests of a shard that its queue pair has not completed. -/
def leveeOpen (s : State) (i : Fin 16) (q : Nat) : Bool :=
  match s.qp q with | some x => x.opens.any fun o => o.levee = some i | none => false

/-- Write bytes to the slot being written: in place, or through staging granule k and a WRITE. The answer is 0, or LAST of the abort. -/
def slotWrite (i : Fin 16) (k off : Nat) (bs : List Byte) : M (BitVec 8) := do
  let s ← get
  let x := s.shard i
  if !x.remote then
    let st ← agentWrite (.levee i) x.polder false (x.slot x.next + off) bs
    if st ≠ 0 then modify (record 0x03 0x41 x.polder 1 0 (BitVec.ofNat 64 (x.slot x.next + off)))
    pure (if st = 0 then 0 else 0x04)
  else
    let st ← agentWrite (.levee i) x.polder false (x.stgAddr k) bs
    if st ≠ 0 then
      modify (record 0x03 0x41 x.polder 1 0 (BitVec.ofNat 64 (x.stgAddr k)))
      pure 0x04
    else
      modify fun s =>
        let s := s.setShard i { s.shard i with staged := insertNat (x.stgAddr k) x.staged }
        pushLevee i x.qpn (leveeWr 1 x (x.stgAddr k) bs.length (x.slot x.next + off)) s
      pure 0

/-! ## The copy (R419 to R423, R425, R427) -/

/-- The next granule: one with a held write first, else the first unsaved one in table order. True for a priority copy. -/
def nextGranule (s : State) (x : Shard) : Option (Bool × Nat) :=
  let gs := (shardGranules s x).filter fun a => s.unsaved a
  match s.levee.prio.findSome? fun g => gs.find? fun a => granOf a = g with
  | some a => some (true, a)
  | none => gs.head?.map fun a => (false, a)

/-- The part that granule i of n, in slot order, has in the CRC after n granules: the CRC with initial value 0 is linear (R423). -/
def crcPart (i n : Nat) (bs : List Byte) : Word := crc64 (crc64 0 bs) (List.replicate ((n - 1 - i) * granBytes) 0)

/-- Copy one granule into the slot; clear its bit and release its held writes. -/
def copyGranule (i : Fin 16) : M Unit := do
  let s ← get
  let x := s.shard i
  let gs := shardGranules s x
  match nextGranule s x with
  | none => pure ()
  | some (prio, a) =>
    if x.remote && qpGone s x.qpn then modify (abortCheckpoint i 0x02)
    else
      match (if x.remote then freeSlot x prio else some 0) with
      | none => pure ()
      | some k =>
        if x.remote && !leveeMay s x.qpn then pure ()
        else
          let r ← agentRead (.levee i) x.polder false a granBytes
          if r.1 ≠ 0 then modify (abortCheckpoint i 0x01)
          else
            let idx := (gs.findIdx? (· = a)).getD 0
            let st ← slotWrite i k (0x1000 + idx * granBytes) r.2
            if st ≠ 0 then modify (abortCheckpoint i st)
            else modify fun s =>
              let s := releaseGran (granOf a) s
              let y := s.shard i
              let done : Bool := gs.length ≤ y.copied + 1
              s.setShard i { y with
                crc := y.crc ^^^ crcPart idx gs.length r.2
                copied := y.copied + 1
                state := if done then .committing else y.state
                phase := if done then 0 else y.phase }

/-- Before any granule, zeros go over the commit record and the rest of the slot's first 4 KiB (R422). -/
def clearRecord (i : Fin 16) : M Unit := do
  let s ← get
  let x := s.shard i
  if x.state ≠ .copying || x.phase ≠ 0 then pure ()
  else if x.remote && qpGone s x.qpn then modify (abortCheckpoint i 0x02)
  else
    match (if x.remote then freeSlot x false else some 0) with
    | none => pure ()
    | some k =>
      if x.remote && !leveeMay s x.qpn then pure ()
      else
        let st ← slotWrite i k 0 (List.replicate 4096 0)
        if st ≠ 0 then modify (abortCheckpoint i st)
        else modify fun s => s.setShard i { s.shard i with phase := 1 }

/-- One piece of the levee's work. It is done whole, or waits with nothing of it done. -/
def leveePart (i : Fin 16) (m : M Unit) (s : State) : State :=
  match m s with
  | .ok _ t => clearAnswers (.levee i) t
  | .error _ t => s.waiting t

/-- Pieces of the levee's work in turn; the requests that waited for a granule at this die's homes are served again. -/
def leveeRun (i : Fin 16) (ms : List (M Unit)) (s : State) : Host.Outcome State Fault Refusal :=
  .next (if leveeUp s then serveQueue (ms.foldl (fun t m => leveePart i m t) s) else s)

/-- A granule is copied once the record has been cleared. -/
def nextCopy (i : Fin 16) : M Unit := do
  let s ← get
  if (s.shard i).state = .copying && (s.shard i).phase = 1 then copyGranule i

def execGranuleCopy (sh : Fin 16) (s : State) : Host.Outcome State Fault Refusal :=
  leveeRun sh (if (s.shard sh).phase = 0 then [clearRecord sh, nextCopy sh] else [nextCopy sh]) s

/-! ## The commit (R421 to R425) -/

/-- The commit record but for its CRC: doublewords 0 to 6. -/
def recordWords (s : State) (x : Shard) : List Word :=
  let d0 := x.desc[0]
  [0x01 <<< 32 ||| 0x4C564545 ||| flag true 40 ||| flag x.next 41 ||| put x.trig 42, x.seq,
   put (fld d0 0 32) 0 ||| put x.polder 32, BitVec.ofNat 64 (shardGranules s x).length, x.lstep, x.ta, 0]

/-- The 64 bytes of the commit record. -/
def recordBytes (s : State) (x : Shard) : List Byte :=
  let bs := (recordWords s x).flatMap fun w => toLe 8 w.toNat
  bs ++ toLe 8 (crc64 x.crc bs).toNat

/-- The checkpoint is complete (R421, R422, R433). -/
def committed (i : Fin 16) (s : State) : State :=
  let x := s.shard i
  irteMessage x.irte (s.setShard i { x with state := .idle, last := 0, next := !x.next, cstep := x.lstep, phase := 0 })

/-- Write the commit record after every write to the slot is ordered; with remote slots, between two FLUSHes. -/
def commitRecord (i : Fin 16) : M Unit := do
  let s ← get
  let x := s.shard i
  let flush := leveeWr 6 { x with desc := x.desc.set 4 0 } 0 0 0
  if x.state ≠ .committing then pure ()
  else if !x.remote then
    let st ← slotWrite i 0 0 (recordBytes s x)
    modify fun s => if st ≠ 0 then abortCheckpoint i st s else committed i s
  else if qpGone s x.qpn then modify (abortCheckpoint i 0x02)
  else if x.phase = 2 then (if leveeOpen s i x.qpn then pure () else modify (committed i))
  else if !leveeMay s x.qpn then pure ()
  else if x.phase = 0 then
    modify fun s => (pushLevee i x.qpn flush s).setShard i { x with phase := 1 }
  else if leveeOpen s i x.qpn then pure ()
  else
    let st ← slotWrite i 0 0 (recordBytes s x)
    modify fun s =>
      if st ≠ 0 then abortCheckpoint i st s
      else (pushLevee i x.qpn flush s).setShard i { s.shard i with phase := 2 }
def execCommitRecord (sh : Fin 16) (s : State) : Host.Outcome State Fault Refusal := leveeRun sh [commitRecord sh] s

/-! ## The restore (R430, R431) -/

/-- A record is valid for a shard (R424). -/
def recordValid (x : Shard) (r : List Word) : Bool :=
  match r with
  | w0 :: _ :: w2 :: _ => fld w0 0 32 = 0x4C564545 && fld w0 32 8 = 0x01 && bit w0 40 && fld w2 0 32 = fld x.desc[0] 0 32 && fld w2 32 12 = x.polder
  | _ => false

def recWord (r : List Word) (i : Nat) : Word := r.getD i 0

/-- What a read of a slot comes to. -/
inductive SlotRead where
  | later
  | failed
  | bytes (bs : List Byte)
  deriving DecidableEq, Repr

/-- Read n bytes of a slot at an offset: in place, or by a READ into the staging ring's first granule, taken up when it is complete. It waits
for a WRITE of an aborted checkpoint that still uses the granule. -/
def slotRead (i : Fin 16) (slot : Bool) (off n : Nat) : M SlotRead := do
  let s ← get
  let x := s.shard i
  let take (a : Nat) : M SlotRead := do
    let r ← agentRead (.levee i) x.polder false a n
    pure (if r.1 = 0 then .bytes r.2 else .failed)
  if !x.remote then take (x.slot slot + off)
  else if x.phase = 2 || qpGone s x.qpn then
    set (s.setShard i { x with phase := 0 })
    pure .failed
  else if x.phase = 1 then
    if leveeOpen s i x.qpn then pure .later
    else
      set (s.setShard i { x with phase := 0 })
      take x.stgBase
  else if x.inUse 0 || !leveeMayRead s x.qpn then pure .later
  else
    set ((pushLevee i x.qpn (leveeWr 2 x x.stgBase n (x.slot slot + off)) s).setShard i { x with phase := 1 })
    pure .later

/-- The restore ends without an image: FAILED with a DETAIL (R430, R431). -/
def restoreFails (i : Fin 16) (b : Background) (detail : BitVec 16) (s : State) : State :=
  finishBackground b 0xFE detail 0 0 0 (s.setShard i { s.shard i with state := .idle, recs := [], copied := 0, crc := 0, rfails := 0, phase := 0 })

/-- Go over to the other slot, if the newest was asked for and the other record is valid. -/
def otherSlot (i : Fin 16) (b : Background) (detail : BitVec 16) (s : State) : State :=
  let x := s.shard i
  if x.rnewest && recordValid x (x.recs.getD (if x.rslot then 0 else 1) []) then
    s.setShard i { x with rslot := !x.rslot, rnewest := false, copied := 0, crc := 0, rfails := 0 }
  else restoreFails i b detail s

/-- A fault of the restore at a read's position: it begins again at its first step; where the same read fails twice in a row, the restore fails
with DETAIL 3, unless the newest slot was asked for and the other one is valid (R431). -/
def restoreFault (i : Fin 16) (b : Background) (pos : Nat) (s : State) : State :=
  let x := s.shard i
  if x.rfails ≠ pos + 1 then s.setShard i { x with rfails := pos + 1, recs := [], copied := 0, crc := 0, phase := 0 }
  else otherSlot i b 3 s

/-- The read at a position has succeeded. -/
def restoreRead (i : Fin 16) (pos : Nat) (s : State) : State :=
  let x := s.shard i
  if x.rfails = pos + 1 then s.setShard i { x with rfails := 0 } else s

/-- Choose the slot from both records, or fail with DETAIL 1 (R430 step 1). A record that could not be read stands empty: the newest of both
then comes from the other slot as after a fault, and where neither serves the DETAIL is 3 (R431). -/
def chooseSlot (i : Fin 16) (b : Background) (s : State) : State :=
  let x := s.shard i
  let ra := x.recs.getD 0 []
  let rb := x.recs.getD 1 []
  let va := recordValid x ra
  let vb := recordValid x rb
  let newer := va && vb && (recWord ra 1).ult (recWord rb 1) || (!va && vb)
  let sa := va && recWord ra 4 = b.x
  let sb := vb && recWord rb 4 = b.x
  let unread : Bool := decide (2 ≤ b.n) && x.recs.any (·.isEmpty)
  let slot := match b.n with
    | 0 => false
    | 1 => true
    | 2 => if x.rnewest then newer else x.rslot
    | _ => sb && (!sa || newer)
  let ok := match b.n with
    | 3 => sa || sb
    | _ => if slot then vb else va
  if ok then s.setShard i { x with rslot := slot, rnewest := x.rnewest && !unread } else restoreFails i b (if unread then 3 else 1) s

/-- The image is restored (R430 step 3). -/
def restored (i : Fin 16) (b : Background) (s : State) : State :=
  let x := s.shard i
  let r := x.recs.getD (if x.rslot then 1 else 0) []
  let seq := (x.recs.filter (recordValid x)).foldl (fun m r => if m.ult (recWord r 1) then recWord r 1 else m) 0
  let detail : BitVec 16 := (if x.rslot then 1 else 0) + (if b.n = 2 && !x.rnewest then 0x100 else 0)
  finishBackground b 0 detail 0 0 0
    (s.setShard i { x with state := .idle, next := !x.rslot, seq := seq, lstep := recWord r 4, recs := [], copied := 0, crc := 0, rfails := 0 })

/-- A record is read, or its read fails; with both the slot is chosen. -/
def takeRecord (i : Fin 16) (b : Background) (r : Option (List Byte)) (s : State) : State :=
  let x := s.shard i
  let k := x.recs.length
  let keep (ws : List Word) (s : State) : State :=
    let s := s.setShard i { s.shard i with recs := x.recs ++ [ws] }
    if k = 1 then chooseSlot i b s else s
  match r with
  | some bs => keep ((List.range 8).map fun k => (BitVec.ofNat 64 (fromLe ((bs.drop (8 * k)).take 8)) : Word)) (restoreRead i k s)
  | none =>
    if b.n < 2 && b.n ≠ k then keep [] s
    else if 2 ≤ b.n && x.rfails = k + 1 then keep [] (restoreRead i k s)
    else restoreFault i b k s

/-- One step of a restore: read a record, or copy a granule, and after the last check the CRC. -/
def restoreCopy (i : Fin 16) : M Unit := do
  let s ← get
  let x := s.shard i
  match s.background 0x53 i.val with
  | none => pure ()
  | some b =>
    if x.state ≠ .restoring then pure ()
    else if x.recs.length < 2 then
      match ← slotRead i (x.recs.length = 1) 0 64 with
      | .later => pure ()
      | .failed => modify (takeRecord i b none)
      | .bytes bs => modify (takeRecord i b (some bs))
    else
      let gs := shardGranules s x
      match gs[x.copied]? with
      | none => pure ()
      | some a =>
        match ← slotRead i x.rslot (0x1000 + x.copied * granBytes) granBytes with
        | .later => pure ()
        | .failed => modify (restoreFault i b (2 + x.copied))
        | .bytes bs =>
          modify (restoreRead i (2 + x.copied))
          let st ← agentWrite (.levee i) x.polder false a bs
          if st ≠ 0 then modify (restoreFault i b (2 + x.copied))
          else
            let crc := crc64 x.crc bs
            modify fun s => s.setShard i { s.shard i with copied := x.copied + 1, crc := crc }
            if gs.length ≤ x.copied + 1 then
              let r := x.recs.getD (if x.rslot then 1 else 0) []
              let sum := crc64 crc ((r.take 7).flatMap fun w => toLe 8 w.toNat)
              if sum = recWord r 7 then modify (restored i b) else modify (otherSlot i b 2)
def execRestoreCopy (sh : Fin 16) (s : State) : Host.Outcome State Fault Refusal := leveeRun sh [restoreCopy sh] s

end Machine
end Sys2Proof
end

