-- ==== Sys2Proof/Machine/Range.lean ====
section
/-! DEFINITION. Scullery requests, and the memory controllers' own work (R317 to R321, R325 to R329). -/

namespace Sys2Proof
namespace Machine

/-! ## Writes to RANGE_OP, one row per OP (R319); [2:0] of the value are the row's -/

def execClean (by_ : Writer) (w n : Fin 4) (v : Word) (s : State) : Host.Outcome State Fault Refusal :=
  .next (gated by_ (rangeOp by_ w n (setFld v 0 (0 : BitVec 3))) s)
def execInvalidate (by_ : Writer) (w n : Fin 4) (v : Word) (s : State) : Host.Outcome State Fault Refusal :=
  .next (gated by_ (rangeOp by_ w n (setFld v 0 (1 : BitVec 3))) s)
def execCleanAndInvalidate (by_ : Writer) (w n : Fin 4) (v : Word) (s : State) : Host.Outcome State Fault Refusal :=
  .next (gated by_ (rangeOp by_ w n (setFld v 0 (2 : BitVec 3))) s)
def execZeroFill (by_ : Writer) (w n : Fin 4) (v : Word) (s : State) : Host.Outcome State Fault Refusal :=
  .next (gated by_ (rangeOp by_ w n (setFld v 0 (3 : BitVec 3))) s)
def execDemote (by_ : Writer) (w n : Fin 4) (v : Word) (s : State) : Host.Outcome State Fault Refusal :=
  .next (gated by_ (rangeOp by_ w n (setFld v 0 (4 : BitVec 3))) s)
def execPrefetch (by_ : Writer) (w n : Fin 4) (v : Word) (s : State) : Host.Outcome State Fault Refusal :=
  .next (gated by_ (rangeOp by_ w n (setFld v 0 (5 : BitVec 3))) s)

/-- The request at the head of a wing's order finishes, once its lines are done (R317, R320). -/
def execRangeComplete (w : Fin 4) (s : State) : Host.Outcome State Fault Refusal :=
  .next (if nWings s.variant ≤ w.val then s else rangeFinish w s)

/-! ## Memory controllers -/

/-- The line number of a line of stack m of this die. -/
def stackLine (s : State) (m : Fin 4) (line : BitVec 30) : Nat := (s.memBase + m.val * 2 ^ 36) / 64 + line.toNat

/-- No cache of any die holds line n dirty (R328). -/
def cleanEverywhere (s : State) (n : Nat) : Bool := !s.isDirty n && (dirOf s n).owner.isNone

/-- The scrubber goes on to a line: a pass ends where it comes to a line that is not past its latest one. A line that it finds correctable is
noted with its pass (R328, R451). -/
def notePass (n : Nat) (s : State) : State :=
  let m := stackOf (64 * n)
  let (p, l) := s.mem.passes[m.val]
  let p := if n ≤ l then p + 1 else p
  let hit : Bool := match outerCode (s.errsOf n) with | .corrected _ => true | _ => false
  { s with mem := { s.mem with
      passes := s.mem.passes.set m.val (p, n)
      scrubbed := if hit then s.mem.scrubbed ++ [(n, p)] else s.mem.scrubbed } }

/-- The scrubber reads one line (R327, R328). The tag that an event of it names is 0 where no cache holds the line (log entry 22). -/
def scrubLine (n : Nat) (s : State) : State :=
  let tag := (heldTag s n).getD 0
  match readStack n tag (notePass n s) with
  | (true, s) => s
  | (false, s) =>
    let port := 0x30 + (stackOf (64 * n)).val
    if cleanEverywhere s n then loseLine (64 * n) tag port s
    else record 0x04 port tag 1 0 (BitVec.ofNat 64 (64 * n)) s

/-- With MC_SCRUB.EN at 1, a line of the stack is read and its errors are handled (R328), unless SHUTDOWN has stopped the controller's clock
(R498). -/
def execScrub (m : Fin 4) (line : BitVec 30) (s : State) : Host.Outcome State Fault Refusal :=
  let x := s.mem.ctrls[m.val]
  .next (if nStacks s.variant ≤ m.val || !bit x.scrub 16 || !x.trained || s.power.rootOff then s else scrubLine (stackLine s m line) s)

/-- The stack's own counts are added (R325). -/
def execIeccPoll (m : Fin 4) (count : BitVec 32) (s : State) : Host.Outcome State Fault Refusal :=
  let x := s.mem.ctrls[m.val]
  .next (if nStacks s.variant ≤ m.val then s else setCtrl m { x with iecc := satAdd x.iecc count.toNat } s)

/-- A soft repair of the row that holds these lines: read, repaired, written back; correctable errors are gone and no data changes.
A line that is uncorrectable stays so until it is written afresh (R329, R451). -/
def softRepair (m : Fin 4) (req : Word) (lines : List (BitVec 30)) (s : State) : State :=
  let s := setCtrl m { s.mem.ctrls[m.val] with ppr := req } s
  let s := { s with asked := s.asked.filter fun a => !(a.1 = 0x500040 + 0x40000 * m.val && a.2 = req) }
  lines.foldl (fun t l => let n := stackLine t m l; (readStack n ((heldTag t n).getD 0) t).2) s

/-- The controller performs the repair that MC_PPR asks for (R329). -/
def execPostPackageRepair (m : Fin 4) (req : Word) (lines : List (BitVec 30)) (s : State) : Host.Outcome State Fault Refusal :=
  .next (if nStacks s.variant ≤ m.val then s else softRepair m req lines s)

end Machine
end Sys2Proof
end

