-- ==== Sys2Proof/Machine/Contain.lean ====
section
/-! DEFINITION. Containment and recovery: fences, spare rooms, lanes, ways, rows, and the order of recovery (ch16; R174, R311). -/

namespace Sys2Proof
namespace Machine

/-! ## Rooms and ways -/

/-- The logical core in a physical room, if one is there. -/
def State.coreInRoom (s : State) (p : Nat) : Option CoreId :=
  allCores.find? fun c => s.present c && !s.offline c && (s.phys c).toNat = p

/-- A way is to be disabled: it has given an uncorrectable array error, or corrected ones at 16 lines within 24 hours (R450). One way
stays enabled (R311). -/
def wayDue (s : State) (w : Fin 4) (way : Nat) : Bool :=
  let x := s.wings[w.val]
  let n := (x.wayErrs.filter fun e => e.1 = way && (s.ltime - e.2.2).ult dayTicks).length
  !wayOff x way && (x.waydis ||| ((1 : BitVec 16) <<< way)) ≠ BitVec.allOnes 16 && (x.wayBad.getLsbD way || 16 ≤ n)

/-- The wing cache of a port. -/
def wingOfPort (port : Nat) : Option (Fin 4) := if 0x28 ≤ port && port < 0x2C then some ⟨(port - 0x28) % 4, Nat.mod_lt _ (by decide)⟩ else none

/-! ## The event queue (R435, R446, R452) -/

/-- A core's recovery is a fence and a move (R446). -/
def coreKind (k : BitVec 8) : Bool := k = 0x06 || k = 0x07 || k = 0x08 || k = 0x09 || k = 0x0B || k = 0x0E

/-- A unit does not answer, or its link is exhausted. -/
def unitKind (k : BitVec 8) : Bool := k = 0x09 || k = 0x0B

/-- The event asks for a core's move: of SEV 2, or a lane fault of a room that has been fenced since (R446, R453). -/
def moveEvent (s : State) (e : Event) : Bool :=
  coreKind e.kind && e.port.ult 0x22 && (e.sev = 2 || (e.kind = 0x07 && e.sev = 1 && !(s.gate e.port.toNat).open_)) &&
    (s.coreInRoom e.port.toNat).isSome

/-- The event asks for a lane test. -/
def laneEvent (s : State) (e : Event) : Bool :=
  e.kind = 0x07 && e.sev = 1 && (s.gate e.port.toNat).open_ && ((s.coreInRoom e.port.toNat).any fun c => (s.core c).mxStopped)

/-- The event asks for a way of its wing cache to be disabled. -/
def wayEvent (s : State) (e : Event) : Bool :=
  (e.kind = 0x01 || e.kind = 0x03 || e.kind = 0x05) && (wingOfPort e.port.toNat).any fun w => (List.range 16).any (wayDue s w)

/-- The event asks for a row repair: the stack has given an uncorrectable read. -/
def rowEvent (e : Event) : Bool := (e.kind = 0x03 || e.kind = 0x04 || e.kind = 0x05) && !e.port.ult 0x30 && e.port.ult 0x34

/-- The event asks for the fence of the sluice, or of the levee. -/
def fenceEvent (port : Nat) (e : Event) : Bool := unitKind e.kind && e.sev = 2 && e.port.toNat = port

/-- The event asks for the reduction of its wing cache. -/
def reduceEvent (e : Event) : Bool := unitKind e.kind && e.sev = 2 && (wingOfPort e.port.toNat).isSome

/-- The recovery of an event is still to be performed. Every other event is recovered when the pumphouse takes it (R446). -/
def needsRecovery (s : State) (e : Event) : Bool :=
  !e.recovered && (moveEvent s e || laneEvent s e || wayEvent s e || rowEvent e || fenceEvent 0x40 e || fenceEvent 0x41 e || reduceEvent e)

/-- The first event whose recovery is not complete: recovery is one at a time, in queue order (R452). -/
def nextRecovery (s : State) : Option Event := s.coff.events.find? (needsRecovery s)

/-- It is the turn of a recovery that answers these events. -/
def turnOf (p : Event → Bool) (s : State) : Bool := (nextRecovery s).all p

/-- The pumphouse takes events in order: each leaves once recovered, and from SEV 1 on once its RAS_EVENT is written (R452, R499). -/
def settleEvents : Nat → State → State
  | 0, s => s
  | fuel + 1, s =>
    match s.coff.events with
    | [] => s
    | e :: _ =>
      if needsRecovery s e || s.coff.dieStop then s
      else if e.sev = 0 then settleEvents fuel (popEvent s)
      else if s.rfull || !s.porch.waiting.isEmpty then s
      else settleEvents fuel (writeReply (note 0xE2 0 (put e.kind 0 ||| put e.sev 8 |>.setWidth 16) e.dw0 e.addr e.dw3) (popEvent s))

/-- Mark the events that a recovery has dealt with. -/
def markRecovered (p : Event → Bool) (s : State) : State :=
  { s with coff := { s.coff with events := s.coff.events.map fun e => if p e then { e with recovered := true } else e } }

/-- Disable a way of a wing cache: its counts go with it. The answer is WAYDIS where the way is past the fourth (R450). -/
def loseWay (w : Fin 4) (way : Nat) (s : State) : List (BitVec 16) × State :=
  if wayOff s.wings[w.val] way then ([], s)
  else
    let s := (disableWay w way s).modWing w fun x => { x with wayErrs := x.wayErrs.filter fun e => e.1 ≠ way, wayBad := x.wayBad &&& ~~~((1 : BitVec 16) <<< way) }
    let dis := (s.wings[w.val]).waydis
    (if 4 < ((List.range 16).filter fun i => dis.getLsbD i).length then [dis] else [], s)

/-- Tell the host of a degraded wing. -/
def tellDegraded (w : Fin 4) (dis : List (BitVec 16)) (s : State) : State :=
  dis.foldl (fun t d => notify (note 0xE7 0 (BitVec.ofNat 16 w.val) (put d 0) 0 0) t) s

/-- The lowest enabled way of a wing cache that passes its test. -/
def goodWay (x : Wing) : Option Nat := (List.range 16).find? fun i => !wayOff x i && !x.wayFail.getLsbD i

/-- A fenced wing cache is reduced to its lowest way that passes test, and its floodgate opens again; the die stops where none passes (R446). -/
def reduceWing (w : Fin 4) (s : State) : List (BitVec 16) × State :=
  match goodWay s.wings[w.val] with
  | none => ([], dieStop s)
  | some keep =>
    let r := (List.range 16).foldl (fun (acc : List (BitVec 16) × State) i =>
      if i = keep then acc else let (d, t) := loseWay w i acc.2; (acc.1 ++ d, t)) ([], s)
    (r.1, openPort (0x28 + w.val) r.2)

/-- Take the events that can be taken. A wing cache's reduction has no row of its own: the pumphouse performs it in its turn. -/
def takeLoop : Nat → State → State
  | 0, s => s
  | fuel + 1, s =>
    let s := settleEvents s.coff.events.length s
    match nextRecovery s with
    | none => s
    | some e =>
      if !reduceEvent e || s.coff.dieStop then s
      else
        match wingOfPort e.port.toNat with
        | none => s
        | some w =>
          let (dis, t) := reduceWing w s
          let t := markRecovered (fun x => reduceEvent x && x.port = e.port) t
          takeLoop fuel (tellDegraded w dis (settleEvents t.coff.events.length t))

/-- Writes of replies to a mirror in this die's memory are served (R485). -/
def mirrored (s : State) : State := if s.th.queued.any fun e => e.2.m.src = s.node then serveQueue s else s

/-- The pumphouse takes the events that it can. A fault in the cofferdam during any recovery stops the die (R453). -/
def takeEvents (s : State) : State := let s := noteCoff s; mirrored (takeLoop (s.coff.events.length + 1) s)

/-! ## Spare rooms (R447, R448) -/

/-- Salvage one line of a fenced core's L2: a dirty line is written back, held where its granule is unsaved (R418, R447 step 2). While
it is held, memory's own value is the line's, so other copies of it go (log entry 23). -/
def salvageLine (c : CoreId) (e : CLine) (s : State) : State :=
  let s := if e.st.dirty then meetArray (.l2 c) e.line (meetArray (.l1d c) e.line s) else s
  let s := s.modCore c (·.dropLine e.line)
  if e.st.dirty && s.ownMem (64 * e.line) && s.unsaved (64 * e.line) && !s.spoilt e.line && !s.lost (64 * e.line) then
    let hw := HeldWrite.salvage e.line (lineData s e.line) e.tag
    holdWrite hw (granOf (64 * e.line)) (discardLine e.line (dropCopies e.line s))
  else wingEvict (wingOf c) e s

def salvage (c : CoreId) (s : State) : State := (linesOf (s.core c).l2).foldl (fun t e => salvageLine c e.2 t) s

/-- The spare room to use: SPA before SPB. -/
def freeSpare (s : State) : Option Nat :=
  if s.coff.spareFree.getLsbD 0 then some 32 else if s.coff.spareFree.getLsbD 1 then some 33 else none


def setCmap (c : CoreId) (p : Nat) (off : Bool) (s : State) : State :=
  { s with coff := { s.coff with cmap := s.coff.cmap.set c.val (BitVec.ofNat 6 p, off) } }

/-- The logical core in its new room: a core reset, with the room's own engine, vector unit and SRAM (R20, R272). -/
def Core.moved (k : Core) : Core := { k.cleared with mxStopped := false, mxThird := false, vuFailed := false, stopped := false }

/-- Steps 1 to 5 of R447, or R448: the new physical core, or 0x3F. -/
def moveCore (c : CoreId) (s : State) : Nat × State :=
  let s := salvage c (fenceCore c s)
  let s := resetCore c true s
  match freeSpare s with
  | some p =>
    let s := { s with coff := { s.coff with spareFree := s.coff.spareFree &&& ~~~((1 : BitVec 2) <<< (p - 32)) } }
    (p, openPort p (setCmap c p false (s.modCore c Core.moved)))
  | none => (0x3F, setCmap c (s.phys c).toNat true (s.modCore c fun k => { k with stopped := true }))

/-- Tell the host of a move, and end a CORE_FENCE. -/
def reportMove (c : CoreId) (p : Nat) (s : State) : State :=
  let s := notify (note 0xE3 0 (BitVec.ofNat 16 c.val) (BitVec.ofNat 64 p) (cfSpare s) 0) s
  match s.background 0x63 c.val with
  | some b => finishBackground b 0 0 (BitVec.ofNat 64 p) 0 0 s
  | none => s

/-- An event asks for the move of the logical core. -/
def wantsMove (s : State) (c : CoreId) (e : Event) : Bool := needsRecovery s e && moveEvent s e && e.port.toNat = s.corePort c

/-- The first event whose recovery is not complete asks for this move: recovery is in queue order (R452). -/
def nextMove (s : State) (c : CoreId) : Bool := (nextRecovery s).any (wantsMove s c)

/-- The pumphouse moves a logical ID out of its room (R446 to R448). The event's own RAS_EVENT comes before CORE_MOVED (R499). -/
def spareRoomMove (c : CoreId) (s : State) : State :=
  if !s.present c || s.offline c || s.coff.dieStop || !nextMove s c then s
  else
    let polder : BitVec 12 := match s.coff.events.find? (wantsMove s c) with | some e => e.polder | none => 0
    let s := markRecovered (wantsMove s c) s
    let (p, s) := moveCore c s
    let s := if p = 0x3F then s else noteCores polder (fun w => setFld (w ||| 2) 58 (BitVec.ofNat 6 c.val)) s
    takeEvents (reportMove c p (takeEvents (settleDoor c s)))
def execSpareRoomMove (c : CoreId) (s : State) : Host.Outcome State Fault Refusal := .next (spareRoomMove c s)

/-! ## Watchdogs (R434, R446) -/

/-- A core has not completed a pause within 100 µs. -/
def pauseWatchdog (c : CoreId) (s : State) : State :=
  let k := s.core c
  if !(k.pausing || k.armPausing) || s.coff.dieStop then s
  else contain (fenceCore c) 0x09 (s.corePort c) k.polder 2 0 s
def execPauseWatchdog (c : CoreId) (s : State) : Host.Outcome State Fault Refusal := .next (pauseWatchdog c s)

/-- A spare room that no core has taken fails: it is free no longer (R448, R453). -/
def spareFault (kind : BitVec 8) (port : Nat) (s : State) : State :=
  if s.coff.spareFree.getLsbD (port - 32) then
    takeEvents (record kind port 0 2 0 0 { s with coff := { s.coff with spareFree := s.coff.spareFree &&& ~~~((1 : BitVec 2) <<< (port - 32)) } })
  else s

/-- A unit fails to answer, or its link is exhausted: the unit of the port is fenced (R434, R446). Port 0xFF is the pumphouse or the
cofferdam, which cannot be fenced: a fault of either stops the die (R22). -/
def unitFault (kind : BitVec 8) (port : Nat) (s : State) : State :=
  if s.coff.dieStop then s
  else if port = 0xFF then stopWith kind port 0 s
  else if !(s.gate port).open_ then (if port = 32 || port = 33 then spareFault kind port s else s)
  else if port < 0x22 then
    match s.coreInRoom port with
    | some c => contain (fenceCore c) kind port (s.core c).polder 2 0 s
    | none => contain (fencePort port) kind port 0 2 0 s
  else if (wingOfPort port).isSome then takeEvents (contain (fencePort port) kind port 0 2 0 s)
  else if (0x30 ≤ port && port < 0x34) || port = 0x42 then stopWith kind port 0 s
  else if 0x38 ≤ port && port < 0x40 then
    takeEvents (contain (fun s => doorDown ⟨(port - 0x38) % 8, Nat.mod_lt _ (by decide)⟩ true (fencePort port s)) kind port 0 2 0 s)
  else contain (fencePort port) kind port 0 2 0 s

def execFabricWatchdog (port : BitVec 8) (s : State) : Host.Outcome State Fault Refusal := .next (unitFault 0x09 port.toNat s)
def execFabricReplayExhausted (port : BitVec 8) (s : State) : Host.Outcome State Fault Refusal := .next (unitFault 0x0B port.toNat s)

/-- A fenced unit's requests meet its closed floodgate (R445). -/
def lateSpeaker (port n : Nat) (s : State) : State :=
  if (s.gate port).open_ || 0x43 ≤ port || n = 0 then s else takeEvents (lateSpeak port n s)
def execLateSpeaker (port : BitVec 8) (requests : BitVec 32) (s : State) : Host.Outcome State Fault Refusal :=
  .next (lateSpeaker port.toNat requests.toNat s)

/-! ## Lanes (R174, R175) -/

/-- The lanes among 0 to 32 that a test finds failed, the mapped one apart. A mapped spare stands for its lane. -/
def failedLanes (r : Room) (failed : BitVec 34) : List (Fin 34) :=
  (List.finRange 34).filter fun l =>
    failed.getLsbD l.val && (if l.val = 33 then r.laneMap.isSome else r.laneMap ≠ some l)

/-- The engine of a stopped operation is tested, and the pumphouse acts on the result: the event takes the lane as its DETAIL (log entry 24).
DESIGN CHOICE: after a lane has been mapped, a further mismatch of the replay is a first one again; the spec escalates it only after a test
that finds no failed lane (log entry 24). -/
def laneTest (c : CoreId) (failed : BitVec 34) (s : State) : State :=
  let k := s.core c
  let p := (s.phys c).toNat
  if h : p < 34 then
    let port := s.corePort c
    let mine (e : Event) : Bool := laneEvent s e && e.port.toNat = port
    if !s.present c || s.offline c || !k.mxStopped || !(s.gate port).open_ || !turnOf mine s then s
    else
      let r := s.rooms[p]
      let spareFails : Bool := failed.getLsbD 33 && r.laneMap.isNone
      let spareBad := r.spareBad || spareFails
      let setRoom (r : Room) (s : State) : State := { s with rooms := s.rooms.set p r }
      let s := if spareFails && !r.spareBad then record 0x07 port k.polder 0 33 0 s else s
      let r := { r with spareBad := spareBad }
      let lane : BitVec 16 := match (failedLanes r failed).head? with | some l => BitVec.ofNat 16 l.val | none => 0
      let done (e : Event) : Event := if mine e then { e with detail := lane, recovered := true } else e
      let go (r : Room) (third : Bool) (s : State) : State :=
        takeEvents (setRoom r { s.setCore c { k with mxStopped := false, mxThird := third } with
          coff := { s.coff with events := s.coff.events.map done } })
      let fence (s : State) : State := contain (fenceCore c) 0x07 port k.polder 2 lane (setRoom { r with engineFailed := true } s)
      match failedLanes r failed with
      | [] => go r true s
      | [l] => if r.laneMap.isSome || spareBad then fence s else go { r with laneMap := some l } false s
      | _ => fence s
  else s
def execLaneTest (c : CoreId) (failed : BitVec 34) (s : State) : Host.Outcome State Fault Refusal := .next (laneTest c failed s)

/-! ## Ways and rows (R450, R451) -/

/-- The pumphouse disables a way that is due (R450). From the fifth on it tells the host, after the event's own RAS_EVENT (R499). -/
def wayDisable (w : Fin 4) (way : Nat) (s : State) : State :=
  let mine (e : Event) : Bool := wayEvent s e && wingOfPort e.port.toNat = some w
  if nWings s.variant ≤ w.val || !wayDue s w way || s.coff.dieStop || !turnOf mine s then s
  else let (dis, t) := loseWay w way s; tellDegraded w dis (takeEvents t)
def execWayDisable (w : Fin 4) (way : Fin 16) (s : State) : Host.Outcome State Fault Refusal := .next (wayDisable w way.val s)

/-- An event of the stack at one of the row's lines. -/
def rowOf (s : State) (m : Fin 4) (lines : List (BitVec 30)) (e : Event) : Bool :=
  rowEvent e && e.port.toNat = 0x30 + m.val && lines.any fun l => e.addr.toNat / 64 = stackLine s m l

/-- A row is to be repaired: it has given an uncorrectable error that is in the queue, or corrected ones in two scrub passes (R451). -/
def rowDue (m : Fin 4) (lines : List (BitVec 30)) (s : State) : Bool :=
  let passes := (s.mem.scrubbed.filter fun e => lines.any fun l => e.1 = stackLine s m l).map (·.2)
  (s.coff.events.any fun e => !e.recovered && rowOf s m lines e) || passes.any fun p => passes.any fun q => p ≠ q

/-- The host's report of a row whose bank has no spare row left (R451): a row with an event of SEV 1 has its RAS_EVENT; for one with corrected
errors alone a RAS_EVENT of KIND 0x02 names the row's line (log entry 115). -/
def reportRow (m : Fin 4) (lines : List (BitVec 30)) (s : State) : State :=
  if s.coff.events.any (rowOf s m lines) then s
  else
    let a : Word := match lines.find? fun l => s.mem.scrubbed.any fun e => e.1 = stackLine s m l with
      | some l => BitVec.ofNat 64 (64 * stackLine s m l)
      | none => 0
    let port := 0x30 + m.val
    let e : Event := ⟨0x02, BitVec.ofNat 8 port, s.stamp port, 0, 0, 0, a, s.ltime, 0, 0, true⟩
    notify (note 0xE2 0 0x0002 e.dw0 e.addr e.dw3) s

/-- A row that is due gets a soft repair and is recorded for a hard one. Where its bank has no spare row left nothing is repaired, and the
host hears of it. -/
def rowRepair (m : Fin 4) (req : Word) (lines : List (BitVec 30)) (s : State) : State :=
  if nStacks s.variant ≤ m.val || s.coff.dieStop || !rowDue m lines s || !turnOf (rowOf s m lines) s then s
  else
    let hit := rowOf s m lines
    let t :=
      if s.mem.noSpare.contains (m.val, req) then reportRow m lines s
      else
        let t := softRepair m req lines s
        let rows := t.mem.hardRows
        { t with mem := { t.mem with hardRows := if rows.contains (m.val, req) then rows else rows ++ [(m.val, req)] } }
    let t := { t with mem := { t.mem with scrubbed := t.mem.scrubbed.filter fun e => !lines.any fun l => e.1 = stackLine s m l } }
    takeEvents (markRecovered hit t)
def execRowRepair (m : Fin 4) (req : Word) (lines : List (BitVec 30)) (s : State) : Host.Outcome State Fault Refusal :=
  .next (rowRepair m req lines s)

/-! ## The sluice and the levee (R446) -/

/-- Every queue pair enters ERROR; its status is not stated, a free value. Nothing can be written through the closed floodgate. -/
def fenceQps (s : State) : State :=
  s.sluice.qps.foldl (fun t e =>
    match t.qp e.1 with
    | some x =>
      let (v, t) := t.free
      let x := if x.state = 4 then x else { x with err := fld v 0 8 }
      abortRemote e.1 (closeMessages e.1 (t.setQp e.1 { x with state := 4, unacked := [], opens := [], held := none, backoff := none, rx := none, early := [], ahead := [], parked := [], sqCi := x.sqPi, rqCi := x.rqPi }))
    | none => t) s

/-- Every checkpoint aborts, and every restore fails; LAST is not stated, a free value. -/
def fenceShards (s : State) : State :=
  (List.finRange 16).foldl (fun t i =>
    let x := t.shard i
    if x.busy then let (v, t) := t.free; abortCheckpoint i (fld v 0 8) t
    else if x.state = .restoring then
      match t.background 0x53 i.val with
      | some b => restoreFails i b 0xFF05 t
      | none => t
    else t) s

/-- The unit is fenced until a cold reset. -/
def unitFence (levee : Bool) (s : State) : State :=
  let port := if levee then 0x41 else 0x40
  if s.coff.dieStop || !turnOf (fenceEvent port) s then s
  else
    let s := markRecovered (fenceEvent port) (fencePort port s)
    let s :=
      if levee then serveQueue (fenceShards { s with coff := { s.coff with leveeFenced := true } })
      else settleRegions (fenceQps { s with coff := { s.coff with sluiceFenced := true } })
    takeEvents s
def execUnitFence (levee : Bool) (s : State) : Host.Outcome State Fault Refusal := .next (unitFence levee s)

end Machine
end Sys2Proof
end

