-- ==== Sys2Proof/Machine/Flags.lean ====
section
/-! DEFINITION. IEEE exception flags, as FSTAT, VSTAT and the TSTAT registers hold them (R53, "FSTAT fields"). -/

namespace Sys2Proof
namespace Machine

/-- NV, DZ, OF, UF, NX in bits 0 to 4. -/
abbrev Flags := BitVec 5

def flNV : Flags := 0x01
def flDZ : Flags := 0x02
def flOF : Flags := 0x04
def flUF : Flags := 0x08
def flNX : Flags := 0x10

def flagIf (b : Bool) (f : Flags) : Flags := if b then f else 0

/-- Join of the flags of several results. -/
def joinFlags (fs : List Flags) : Flags := fs.foldl (· ||| ·) 0

end Machine
end Sys2Proof
end

