-- ==== Sys2Proof/Machine/Float.lean ====
section
/-! DEFINITION. Number formats, the one rounding, and exact arithmetic on their values (R77 to R86, R97 to R111, R50 to R53). -/

namespace Sys2Proof
namespace Machine

/-! ## Formats (R77, R80) -/

/-- How a float format uses its highest exponent field. -/
inductive Special where
  /-- IEEE infinities and NaNs, signalling ones among them. -/
  | ieee
  /-- Infinities and quiet NaNs only (E5M2). -/
  | quiet
  /-- One NaN code, no infinity (E4M3). -/
  | oneNan
  /-- Finite numbers only. -/
  | finite
  deriving DecidableEq, Repr

/-- A float format: widths of the exponent and the fraction, the bias, the special encodings, and whether a conversion to it takes an
overflow choice (R107). -/
structure Fmt where
  ebits : Nat
  fbits : Nat
  bias : Nat
  special : Special
  choice : Bool
  deriving DecidableEq, Repr

/-- An FP64 target takes no overflow choice: R107 names FP32 only, and its table has no FP64 column. DESIGN CHOICE: OCFG.OVSAT has no effect on
an FP64 output, and an infinity stays one (log entry 123). -/
def fp64 : Fmt := ⟨11, 52, 1023, .ieee, false⟩
def fp32 : Fmt := ⟨8, 23, 127, .ieee, false⟩
def bf16 : Fmt := ⟨8, 7, 127, .ieee, true⟩
def fp16 : Fmt := ⟨5, 10, 15, .ieee, true⟩
def e4m3 : Fmt := ⟨4, 3, 7, .oneNan, true⟩
def e5m2 : Fmt := ⟨5, 2, 15, .quiet, true⟩
def e3m2 : Fmt := ⟨3, 2, 3, .finite, true⟩
def e2m3 : Fmt := ⟨2, 3, 1, .finite, true⟩
def e2m1 : Fmt := ⟨2, 1, 1, .finite, true⟩

/-- The float format of a code, or none for the integer and reserved codes. -/
def floatFmt (code : Nat) : Option Fmt :=
  match code with
  | 0 => some fp64
  | 1 => some fp32
  | 2 => some bf16
  | 3 => some fp16
  | 4 => some e4m3
  | 5 => some e5m2
  | 6 => some e3m2
  | 7 => some e2m3
  | 8 => some e2m1
  | _ => none

/-- Range of an integer format (R82). -/
def intRange (code : Nat) : Option (Int × Int) :=
  match code with
  | 9 => some (-128, 127)
  | 10 => some (0, 255)
  | 11 => some (-8, 7)
  | _ => none

/-- Storage width in bits (R77). -/
def storageBits (code : Nat) : Nat :=
  match code with
  | 0 => 64
  | 1 => 32
  | 2 => 16
  | 3 => 16
  | 8 => 4
  | 11 => 4
  | _ => 8

def Fmt.width (f : Fmt) : Nat := 1 + f.ebits + f.fbits
/-- Exponent of the smallest normal. -/
def Fmt.emin (f : Fmt) : Int := 1 - f.bias
/-- Weight of the last place of the subnormals. -/
def Fmt.qmin (f : Fmt) : Int := f.emin - f.fbits
/-- Magnitude code of the largest finite number. -/
def Fmt.maxCode (f : Fmt) : Nat :=
  match f.special with
  | .finite => 2 ^ (f.ebits + f.fbits) - 1
  | .oneNan => 2 ^ (f.ebits + f.fbits) - 2
  | _ => (2 ^ f.ebits - 1) * 2 ^ f.fbits - 1
/-- Magnitude code of infinity. -/
def Fmt.infCode (f : Fmt) : Nat := (2 ^ f.ebits - 1) * 2 ^ f.fbits
/-- The canonical NaN: sign clear, every other bit set (R84). -/
def Fmt.nanCode (f : Fmt) : Nat := 2 ^ (f.ebits + f.fbits) - 1
def Fmt.signed (f : Fmt) (neg : Bool) (mag : Nat) : Nat := if neg then mag + 2 ^ (f.ebits + f.fbits) else mag

/-! ## Values -/

/-- A value: a NaN, an infinity, or (-1)^neg x m x 2^e, exactly. -/
inductive Val where
  | nan (signalling : Bool)
  | inf (neg : Bool)
  | fin (neg : Bool) (m : Nat) (e : Int)
  deriving DecidableEq, Repr

def Val.zero (neg : Bool) : Val := .fin neg 0 0
def Val.ofInt (x : Int) : Val := .fin (x < 0) x.natAbs 0
def Val.isNan : Val → Bool | .nan _ => true | _ => false
def Val.isSnan : Val → Bool | .nan b => b | _ => false
def Val.isInf : Val → Bool | .inf _ => true | _ => false
def Val.isZero : Val → Bool | .fin _ m _ => m = 0 | _ => false
def Val.neg : Val → Bool | .inf n => n | .fin n _ _ => n | .nan _ => false
def Val.negate : Val → Val
  | .inf n => .inf !n
  | .fin n m e => .fin (!n) m e
  | x => x
/-- Multiply by 2^k. -/
def Val.scale (x : Val) (k : Int) : Val := match x with | .fin n m e => .fin n m (e + k) | y => y

/-- Decode a float; with `ftz` a subnormal reads as a zero of its sign (R80, R83, R98). -/
def Fmt.decode (f : Fmt) (ftz : Bool) (code : Nat) : Val :=
  let mag := code % 2 ^ (f.ebits + f.fbits)
  let neg := code / 2 ^ (f.ebits + f.fbits) % 2 = 1
  let ex := mag / 2 ^ f.fbits
  let fr := mag % 2 ^ f.fbits
  let top := ex = 2 ^ f.ebits - 1
  let special : Option Val :=
    match f.special with
    | .ieee => if top then some (if fr = 0 then .inf neg else .nan (decide (fr < 2 ^ (f.fbits - 1)))) else none
    | .quiet => if top then some (if fr = 0 then .inf neg else .nan false) else none
    | .oneNan => if mag = f.nanCode then some (.nan false) else none
    | .finite => none
  match special with
  | some v => v
  | none =>
    if ex = 0 then (if ftz then .zero neg else .fin neg fr f.qmin)
    else .fin neg (2 ^ f.fbits + fr) ((ex : Int) - f.bias - f.fbits)

/-- Decode an element of any format code; integers are their value (R82). -/
def decodeElem (code : Nat) (ftz : Bool) (bits : Nat) : Val :=
  match floatFmt code with
  | some f => f.decode ftz (bits % 2 ^ f.width)
  | none =>
    match code with
    | 9 => .ofInt (BitVec.ofNat 8 bits).toInt
    | 11 => .ofInt (BitVec.ofNat 4 bits).toInt
    | _ => .fin false (bits % 256) 0

/-! ## The one rounding (R100 to R107) -/

/-- Rounding modes as rm codes them. -/
inductive Rm where
  | rne | rtz | rup | rdn | rna | rto
  deriving DecidableEq, Repr

/-- m / 2^sh rounded to an integer, and whether it is inexact (R100). -/
def roundShift (rm : Rm) (neg : Bool) (m : Nat) (sh : Int) : Nat × Bool :=
  if sh ≤ 0 then (m * 2 ^ (-sh).toNat, false)
  else
    let d := 2 ^ sh.toNat
    let n := m / d
    let r := m % d
    if r = 0 then (n, false)
    else
      let up := match rm with
        | .rne => d < 2 * r || (2 * r = d && n % 2 = 1)
        | .rna => d ≤ 2 * r
        | .rup => !neg
        | .rdn => neg
        | _ => false
      (if up then n + 1 else if rm = .rto then n / 2 * 2 + 1 else n, true)

/-- Exponent of the leading one of m x 2^e. -/
def leadExp (m : Nat) (e : Int) : Int := (Nat.log2 m : Int) + e

/-- Round a non-zero finite magnitude to a format: its magnitude code, as if the codes went on past the largest, and inexact. -/
def Fmt.roundMag (f : Fmt) (rm : Rm) (neg : Bool) (m : Nat) (e : Int) : Nat × Bool :=
  let le := leadExp m e
  let q := (if le < f.emin then f.emin else le) - f.fbits
  let (n, x) := roundShift rm neg m (q - e)
  ((q - f.qmin).toNat * 2 ^ f.fbits + n, x)

/-- Tininess after rounding: the result with an unbounded exponent lies below the smallest normal (R53). -/
def Fmt.tiny (f : Fmt) (rm : Rm) (neg : Bool) (m : Nat) (e : Int) : Bool :=
  let le := leadExp m e
  if f.emin ≤ le then false
  else if le < f.emin - 1 then true
  else decide ((roundShift rm neg m (le - f.fbits - e)).1 < 2 ^ (f.fbits + 1))

/-- The result of an overflow: SATFINITE unless `nonsat` (R106). -/
def Fmt.overflow (f : Fmt) (rm : Rm) (neg nonsat : Bool) : Nat :=
  let toInf := match rm with
    | .rne => true
    | .rna => true
    | .rup => !neg
    | .rdn => neg
    | _ => false
  if !(nonsat && toInf) then f.signed neg f.maxCode
  else
    match f.special with
    | .oneNan => f.nanCode
    | .finite => f.signed neg f.maxCode
    | _ => f.signed neg f.infCode

/-- How a rounding is to be made. -/
structure RoundCtl where
  rm : Rm
  /-- The overflow choice of a format that takes one: NONSAT. -/
  nonsat : Bool
  ftz : Bool
  /-- The underflow flag is set for every tiny result (R53). -/
  ufAll : Bool
  deriving DecidableEq, Repr

/-- Round a value to a float format: its code and the flags raised. DEDUCED: rounding to odd takes 448 < |x| < 480, which R105 does not count as an
overflow, to the E4M3 code that holds NaN: it is written as the canonical NaN with NX alone, for either sign and under either overflow
choice (R100; log entry 55). -/
def Fmt.round (f : Fmt) (c : RoundCtl) (v : Val) : Nat × Flags :=
  let nonsat := c.nonsat || !f.choice
  match v with
  | .nan s => if f.special = .finite then (f.maxCode, flNV) else (f.nanCode, flagIf s flNV)
  | .inf neg =>
    match f.special with
    | .oneNan => (if nonsat then f.nanCode else f.signed neg f.maxCode, flOF ||| flNX)
    | .finite => (f.signed neg f.maxCode, flOF ||| flNX)
    | _ => if nonsat then (f.signed neg f.infCode, 0) else (f.signed neg f.maxCode, flOF ||| flNX)
  | .fin neg m e =>
    if m = 0 then (f.signed neg 0, 0)
    else
      let (code, inexact) := f.roundMag c.rm neg m e
      let edge := match c.rm with | .rne => .rna | .rto => .rtz | x => x
      if f.maxCode < (f.roundMag edge neg m e).1 then (f.overflow c.rm neg nonsat, flOF ||| flNX)
      else if f.maxCode < code then (f.nanCode, flNX)
      else
        let uf := f.tiny c.rm neg m e && (inexact || c.ufAll)
        if c.ftz && 0 < code && code < 2 ^ f.fbits then (f.signed neg 0, flUF ||| flNX)
        else (f.signed neg code, flagIf inexact flNX ||| flagIf uf flUF)

/-- Round a value to an integer range: saturating, with the invalid flag (R51, R101, R108, R109). -/
def roundInt (lo hi : Int) (rm : Rm) (v : Val) : Int × Flags :=
  match v with
  | .nan _ => (0, flNV)
  | .inf neg => (if neg then lo else hi, flNV)
  | .fin neg m e =>
    let (n, inexact) := roundShift rm neg m (-e)
    let x : Int := if neg then -n else n
    if x < lo then (lo, flNV) else if hi < x then (hi, flNV) else (x, flagIf inexact flNX)

/-- Round a value to an element of any format code: its bits in the storage width (R78, R110). -/
def roundElem (code : Nat) (c : RoundCtl) (v : Val) : Nat × Flags :=
  match floatFmt code with
  | some f => f.round c v
  | none =>
    match intRange code with
    | some (lo, hi) =>
      let (x, fl) := roundInt lo hi c.rm v
      ((x % (2 ^ storageBits code : Nat)).toNat, fl)
    | none => (0, 0)

/-! ## Exact arithmetic -/

/-- Sum of two finite values; an exact zero of unlike addends is +0, or -0 under RDN (IEEE 754). -/
def addFin (rm : Rm) (n1 : Bool) (m1 : Nat) (e1 : Int) (n2 : Bool) (m2 : Nat) (e2 : Int) : Val :=
  let e := if e1 < e2 then e1 else e2
  let a : Int := (m1 * 2 ^ (e1 - e).toNat : Nat)
  let b : Int := (m2 * 2 ^ (e2 - e).toNat : Nat)
  let x := (if n1 then -a else a) + (if n2 then -b else b)
  if x = 0 then
    if m1 = 0 && m2 = 0 && n1 = n2 then .zero n1 else .zero (decide (rm = .rdn))
  else .fin (decide (x < 0)) x.natAbs e

/-- Exact sum, and the invalid flag; the result is not yet rounded. -/
def Val.add (rm : Rm) (x y : Val) : Val × Flags :=
  match x, y with
  | .nan a, y => (.nan false, flagIf (a || y.isSnan) flNV)
  | _, .nan b => (.nan false, flagIf b flNV)
  | .inf a, .inf b => if a = b then (.inf a, 0) else (.nan false, flNV)
  | .inf a, _ => (.inf a, 0)
  | _, .inf b => (.inf b, 0)
  | .fin n1 m1 e1, .fin n2 m2 e2 => (addFin rm n1 m1 e1 n2 m2 e2, 0)

/-- Exact product, and the invalid flag. -/
def Val.mul (x y : Val) : Val × Flags :=
  match x, y with
  | .nan a, y => (.nan false, flagIf (a || y.isSnan) flNV)
  | _, .nan b => (.nan false, flagIf b flNV)
  | .inf a, y => if y.isZero then (.nan false, flNV) else (.inf (a != y.neg), 0)
  | x, .inf b => if x.isZero then (.nan false, flNV) else (.inf (x.neg != b), 0)
  | .fin n1 m1 e1, .fin n2 m2 e2 => (.fin (n1 != n2) (m1 * m2) (e1 + e2), 0)

/-- x times y plus z, exactly: 0 x infinity is invalid whatever z is (R52). -/
def Val.fma (rm : Rm) (x y z : Val) : Val × Flags :=
  match x.mul y with
  | (.nan _, fl) => (.nan false, fl ||| flagIf z.isSnan flNV)
  | (p, _) => p.add rm z

/-- Quotient with enough bits below the last place that the sticky bit decides every rounding. -/
def Val.div (bits : Nat) (x y : Val) : Val × Flags :=
  match x, y with
  | .nan a, y => (.nan false, flagIf (a || y.isSnan) flNV)
  | _, .nan b => (.nan false, flagIf b flNV)
  | .inf a, .inf _ => (.nan false, flagIf (a || true) flNV)
  | .inf a, y => (.inf (a != y.neg), 0)
  | x, .inf b => (.zero (x.neg != b), 0)
  | .fin n1 m1 e1, .fin n2 m2 e2 =>
    if m2 = 0 then (if m1 = 0 then (.nan false, flNV) else (.inf (n1 != n2), flDZ))
    else if m1 = 0 then (.zero (n1 != n2), 0)
    else
      let k := Nat.log2 m2 + bits + 2
      let q := m1 * 2 ^ k / m2
      let st := if m1 * 2 ^ k % m2 = 0 then 0 else 1
      (.fin (n1 != n2) (2 * q + st) (e1 - e2 - k - 1), 0)

/-- Integer square root by bits, from bit `i` down. -/
def isqrtFrom (n : Nat) : Nat → Nat → Nat
  | 0, r => if (r + 1) * (r + 1) ≤ n then r + 1 else r
  | i + 1, r => let t := r + 2 ^ (i + 1); isqrtFrom n i (if t * t ≤ n then t else r)
def isqrt (n : Nat) : Nat := if n = 0 then 0 else isqrtFrom n (Nat.log2 n / 2) 0

/-- Square root with a sticky bit. -/
def Val.sqrt (bits : Nat) (x : Val) : Val × Flags :=
  match x with
  | .nan a => (.nan false, flagIf a flNV)
  | .inf n => if n then (.nan false, flNV) else (.inf false, 0)
  | .fin n m e =>
    if m = 0 then (.zero n, 0)
    else if n then (.nan false, flNV)
    else
      let k : Nat := 2 * (bits + 2) + (if (e % 2) = 0 then 0 else 1)
      let a := m * 2 ^ k
      let r := isqrt a
      (.fin false (2 * r + (if r * r = a then 0 else 1)) ((e - k) / 2 - 1), 0)

/-- IEEE remainder: exact, with the quotient nearest, ties to even; a zero has the sign of x. -/
def Val.rem (x y : Val) : Val × Flags :=
  match x, y with
  | .nan a, y => (.nan false, flagIf (a || y.isSnan) flNV)
  | _, .nan b => (.nan false, flagIf b flNV)
  | .inf _, _ => (.nan false, flNV)
  | x, .inf _ => (x, 0)
  | .fin n1 m1 e1, .fin _ m2 e2 =>
    if m2 = 0 then (.nan false, flNV)
    else
      let e := if e1 < e2 then e1 else e2
      let a := m1 * 2 ^ (e1 - e).toNat
      let b := m2 * 2 ^ (e2 - e).toNat
      let q := a / b
      let r := a % b
      if b < 2 * r || (2 * r = b && q % 2 = 1) then (.fin (!n1) (b - r) e, 0) else (.fin n1 r e, 0)

/-- Order of two values that are no NaNs: x < y. Zeros of either sign are equal. -/
def Val.lt (x y : Val) : Bool :=
  match x, y with
  | .inf a, .inf b => a && !b
  | .inf a, _ => a
  | _, .inf b => !b
  | .fin n1 m1 e1, .fin n2 m2 e2 =>
    let e := if e1 < e2 then e1 else e2
    let a : Int := (m1 * 2 ^ (e1 - e).toNat : Nat)
    let b : Int := (m2 * 2 ^ (e2 - e).toNat : Nat)
    decide ((if n1 then -a else a) < (if n2 then -b else b))
  | _, _ => false

/-- x is below y, with -0 below +0. -/
def Val.below (x y : Val) : Bool := x.lt y || (!y.lt x && x.isZero && y.isZero && x.neg && !y.neg)

/-- minimumNumber, maximumNumber (`num`), or the forms that pass a NaN on (R52). -/
def Val.pick (max num : Bool) (x y : Val) : Val × Flags :=
  let fl := flagIf (x.isSnan || y.isSnan) flNV
  match x, y with
  | .nan _, .nan _ => (.nan false, fl)
  | .nan _, y => (if num then y else .nan false, fl)
  | x, .nan _ => (if num then x else .nan false, fl)
  | x, y => (if max then (if x.below y then y else x) else (if y.below x then y else x), fl)

/-- Round to an integral value of the same format's range; nothing is signalled but a signalling NaN. -/
def Val.rint (rm : Rm) (x : Val) : Val × Flags :=
  match x with
  | .nan a => (.nan false, flagIf a flNV)
  | .inf n => (.inf n, 0)
  | .fin n m e => (.fin n (roundShift rm n m (-e)).1 0, 0)

/-- `fclass`: the one-hot class of a code (FP-R table). -/
def Fmt.classify (f : Fmt) (code : Nat) : Nat :=
  let neg := code / 2 ^ (f.ebits + f.fbits) % 2 = 1
  let mag := code % 2 ^ (f.ebits + f.fbits)
  match f.decode false code with
  | .nan s => if s then 2 ^ 8 else 2 ^ 9
  | .inf _ => if neg then 1 else 2 ^ 7
  | .fin _ _ _ =>
    if mag = 0 then (if neg then 2 ^ 3 else 2 ^ 4)
    else if mag < 2 ^ f.fbits then (if neg then 2 ^ 2 else 2 ^ 5)
    else (if neg then 2 else 2 ^ 6)

/-- The E8M0 scale of a value (R111). -/
def toE8 (x : Val) : Nat × Flags :=
  match x with
  | .nan s => (0xFF, flagIf s flNV)
  | .inf _ => (0xFE, 0)
  | .fin _ m e =>
    if m = 0 then (0, 0)
    else
      let k := leadExp m e
      if k < -127 then (0, 0) else if 127 ≤ k then (0xFE, 0) else ((k + 127).toNat, 0)

/-- The value of an E8M0 scale (R85). -/
def ofE8 (x : Nat) : Val := if x = 255 then .nan false else .fin false 1 ((x : Int) - 127)

end Machine
end Sys2Proof
end

