-- ==== Sys2Proof/Machine/Matrix.lean ====
section
/-! DEFINITION. The matrix engine: operands, paths, sums, overflow, the checksum lane, and the commit of a `tmac` or `tfold`
(R86 to R96, R117 to R121, R151 to R174, R179 to R206, R584). -/

namespace Sys2Proof
namespace Machine

/-! ## TCFG (R87 to R89, R121) -/

/-- An operand's side of TCFG: format code, block-size field, direction. -/
structure Side where
  fmt : Nat
  bsz : Nat
  dir : Bool
  deriving DecidableEq, Repr

def sideA (w : Word) : Side := ⟨(fld w 0 4).toNat, (fld w 8 3).toNat, bit w 11⟩
def sideB (w : Word) : Side := ⟨(fld w 4 4).toNat, (fld w 12 3).toNat, bit w 15⟩
def tcWide (w : Word) : Bool := bit w 16
/-- Narrow passes between promotions. -/
def tcPromo (w : Word) : Nat := 2 ^ (fld w 17 2).toNat
def tcIsat (w : Word) : Bool := bit w 19
def tcRescale (w : Word) : Bool := bit w 20
def tcStep (w : Word) : Nat := (fld w 21 5).toNat
def tcFtz (w : Word) : Bool := bit w 26

def Side.ok (x : Side) : Bool :=
  x.fmt ≤ 11 && x.bsz ≠ 7 && (x.bsz = 0 || 2 ≤ x.fmt) && !(x.dir && 4 ≤ x.bsz)

/-- The value may be written to TCFG. -/
def tcfgOk (w : Word) : Bool :=
  (sideA w).ok && (sideB w).ok && (fld w 17 2).toNat ≠ 3 && 1 ≤ tcStep w && tcStep w ≤ 16 && w.toNat < 2 ^ 27

/-! ## Operands (R86, R90, R117, R155, R158) -/

/-- Bits [lo + n - 1 : lo] as a number. -/
def slice {w : Nat} (x : BitVec w) (lo n : Nat) : Nat := (x.extractLsb' lo n).toNat

/-- Elements in one row of a tile register, Kt (R117). -/
def rowLen (fmt : Nat) : Nat := 1024 / storageBits fmt

/-- The scale byte of element k of row r, b being the block size (R90). -/
def scaleByte (kt b : Nat) (outer : Bool) (r k : Nat) : Nat :=
  if outer then kt * (r / b) + k else if b < kt then 32 * r + k / b else 32 * r

/-- Element k of row r of a tile register with its scale register. -/
def tileElem (x : Side) (ftz : Bool) (t : BitVec 32768) (sc : BitVec 8192) (r k : Nat) : Val :=
  let w := storageBits x.fmt
  let v := decodeElem x.fmt ftz (slice t (1024 * r + w * k) w)
  if x.bsz = 0 then v
  else
    let e := slice sc (8 * scaleByte (rowLen x.fmt) (4 * 2 ^ x.bsz) x.dir r k) 8
    if e = 255 then .nan false else v.scale ((e : Int) - 127 - (if x.fmt = 9 then 6 else 0))

/-- The 32 rows of n elements of an operand, from element `off` on. -/
def tileRows (x : Side) (ftz : Bool) (t : BitVec 32768) (sc : BitVec 8192) (off n : Nat) : List (List Val) :=
  (List.range 32).map fun r => (List.range n).map fun k => tileElem x ftz t sc r (off + k)

/-! ## Paths (R95, R153, R162, R180) -/

inductive Route where
  | narrow | wide | fp64 | int
  deriving DecidableEq, Repr

def Side.plainInt (x : Side) : Bool := 9 ≤ x.fmt && x.bsz = 0
def Side.anyInt (x : Side) : Bool := 9 ≤ x.fmt
def Side.four (x : Side) : Bool := storageBits x.fmt = 4
def Side.sixteen (x : Side) : Bool := x.fmt = 2 || x.fmt = 3

/-- The path that TCFG selects. -/
def route (w : Word) : Route :=
  let a := sideA w
  let b := sideB w
  if a.fmt = 0 || b.fmt = 0 then .fp64
  else if a.fmt = 1 || b.fmt = 1 then .wide
  else if a.sixteen || b.sixteen then .wide
  else if !a.anyInt && !b.anyInt then (if tcWide w then .wide else .narrow)
  else if a.plainInt && b.plainInt then .int
  else .wide

/-- K of the pair (R153). -/
def pairK (w : Word) : Nat := Nat.min (rowLen (sideA w).fmt) (rowLen (sideB w).fmt)
/-- Segments of the longer operand. -/
def pairSegs (w : Word) : Nat := Nat.max (rowLen (sideA w).fmt) (rowLen (sideB w).fmt) / pairK w

/-- The width of a summing tree, and the elements of a slice. -/
def treeWidth (w : Word) : Nat :=
  let a := sideA w
  let b := sideB w
  match route w with
  | .fp64 => 4
  | .wide =>
    if a.fmt = 1 || b.fmt = 1 then 4 else if !(a.sixteen || b.sixteen) && a.four && b.four then 32 else 16
  | _ => 32
def sliceLen (w : Word) : Nat :=
  match route w with
  | .narrow => if (sideA w).four && (sideB w).four then 64 else 32
  | _ => treeWidth w

/-- NA20 (R183). -/
def na20 : Fmt := ⟨8, 11, 127, .ieee, false⟩

/-- The accumulator format of a float path. -/
def accFmt : Route → Fmt | .fp64 => Machine.fp64 | _ => fp32
/-- TSTATn.PATH. -/
def Route.code : Route → BitVec 2 | .fp64 => 2 | .int => 3 | _ => 1

/-- Exponents of e, q and u (R169). -/
def tolerance (w : Word) : Int × Int × Int :=
  match route w with
  | .narrow => (-8, -18, -110)
  | .fp64 => (-38, -47, -1000)
  | _ =>
    let a := sideA w
    let b := sideB w
    if a.fmt ≠ 1 && b.fmt ≠ 1 && (a.sixteen || b.sixteen) then (-11, -18, -110) else (-9, -18, -110)

/-! ## Sums (R179 to R182, R185, R201) -/

/-- RNE to a format; an overflow answers its sign (R201). -/
def rndTo (f : Fmt) (ftz : Bool) (v : Val) : Except Bool Val :=
  let (code, fl) := f.round ⟨.rne, true, ftz, false⟩ v
  if fl &&& flOF ≠ 0 then .error v.neg else .ok (f.decode ftz code)

def rndAdd (f : Fmt) (ftz : Bool) (x y : Val) : Except Bool Val := rndTo f ftz (x.add .rne y).1

/-- One level of a tree. -/
def treeLevel (f : Fmt) (ftz : Bool) : List Val → Except Bool (List Val)
  | x :: y :: t => do
    let z ← rndAdd f ftz x y
    let zs ← treeLevel f ftz t
    pure (z :: zs)
  | xs => .ok xs

/-- A balanced tree of up to 2^fuel values. -/
def tree (f : Fmt) (ftz : Bool) : Nat → List Val → Except Bool Val
  | 0, xs => .ok (xs.headD (.zero false))
  | n + 1, xs => if xs.length ≤ 1 then .ok (xs.headD (.zero false)) else treeLevel f ftz xs >>= tree f ftz n

/-- Cut a list into parts of n. -/
def chunks (n : Nat) : Nat → List Val → List (List Val)
  | 0, _ => []
  | fuel + 1, xs => if xs.isEmpty then [] else xs.take n :: chunks n fuel (xs.drop n)

/-- The term roundings of a tree, then the tree. -/
def termTree (f : Fmt) (ftz : Bool) (ts : List Val) : Except Bool Val := ts.mapM (rndTo f ftz) >>= tree f ftz 6

/-- The narrow path: NA20 partial sums, promoted every p passes (R185). -/
def narrowSum (p : Nat) (ftz : Bool) : Nat → Val → Val → List (List Val) → Except Bool Val
  | _, acc, _, [] => .ok acc
  | i, acc, part, c :: cs => do
    let t ← termTree na20 ftz c
    let part ← if i % p = 0 then pure t else rndAdd na20 ftz part t
    if i % p = p - 1 then do
      let acc ← rndAdd fp32 ftz acc part
      narrowSum p ftz (i + 1) acc part cs
    else narrowSum p ftz (i + 1) acc part cs

/-- The other float paths: one addition per slice. -/
def slicedSum (f : Fmt) (ftz : Bool) : Val → List (List Val) → Except Bool Val
  | acc, [] => .ok acc
  | acc, c :: cs => do
    let t ← termTree f ftz c
    let acc ← rndAdd f ftz acc t
    slicedSum f ftz acc cs

def accumulate (w : Word) (acc : Val) (terms : List Val) : Except Bool Val :=
  let cs := chunks (treeWidth w) 300 terms
  match route w with
  | .narrow => narrowSum (tcPromo w) (tcFtz w) 0 acc (.zero false) cs
  | r => slicedSum (accFmt r) (tcFtz w) acc cs

/-! ## Special values (R159) -/

/-- Signs of the infinite terms. -/
def specialInf (signs : List Bool) : Option (Val × Bool) :=
  match signs.contains true, signs.contains false with
  | true, true => some (.nan false, true)
  | true, false => some (.inf true, false)
  | false, true => some (.inf false, false)
  | false, false => none

/-- The result that rows 1 to 5 fix, and whether NV is set. -/
def special (neg : Bool) (as bs : List Val) (prior : Val) : Option (Val × Bool) :=
  if !(as.any (fun x => x.isNan || x.isInf) || bs.any (fun x => x.isNan || x.isInf) || prior.isNan || prior.isInf) then none
  else if as.any (·.isSnan) || bs.any (·.isSnan) then some (.nan false, true)
  else if (as.zip bs).any fun p => (p.1.isInf && p.2.isZero) || (p.1.isZero && p.2.isInf) then some (.nan false, true)
  else if as.any (·.isNan) || bs.any (·.isNan) || prior.isNan then some (.nan false, false)
  else
    let infs := ((as.zip bs).filter fun p => p.1.isInf || p.2.isInf).map fun p => (p.1.neg != p.2.neg) != neg
    specialInf (if prior.isInf then prior.neg :: infs else infs)

/-! ## The result of one operation -/

/-- One element: its value, whether it sets NV, and the sign of its first overflow. -/
structure Elem where
  val : Val
  nv : Bool
  ovf : Option Bool
  deriving DecidableEq, Repr

def Elem.of (r : Except Bool Val) : Elem :=
  match r with
  | .ok v => ⟨v, false, none⟩
  | .error n => ⟨.zero n, false, some n⟩

/-- An operation's uncommitted result: 1,024 stored elements, what it sets, and the rows in which an element saturated. -/
structure MacOut where
  cells : List Nat
  nv : Bool
  ovf : Bool
  rows : List Nat
  deriving DecidableEq, Repr

/-- The stored bits of an element; an overflow saturates (R118, R202). -/
def Elem.bits (f : Fmt) (x : Elem) : Nat :=
  match x.ovf with
  | some n => f.signed n f.maxCode
  | none => (f.round ⟨.rne, true, false, false⟩ x.val).1

/-- Rows of an index list into 32-element rows. -/
def rowsOf (p : Nat → Bool) (n : Nat) : List Nat := (((List.range n).filter p).map (· / 32)).eraseDups

def MacOut.ofElems (f : Fmt) (xs : List Elem) : MacOut :=
  let a := xs.toArray
  ⟨xs.map (·.bits f), xs.any (·.nv), xs.any (·.ovf.isSome),
    rowsOf (fun i => match a[i]? with | some x => x.ovf.isSome | none => false) xs.length⟩

/-- INT32: the stored value and whether the exact result lay outside (R187). -/
def int32 (sat : Bool) (x : Int) : Nat × Bool :=
  let out := x < -(2 ^ 31) || 2 ^ 31 ≤ x
  let y := if !out then x else if sat then (if x < 0 then -(2 ^ 31) else 2 ^ 31 - 1) else x
  ((y % 2 ^ 32).toNat, out)

def MacOut.ofInts (sat : Bool) (xs : List Int) : MacOut :=
  let ys := xs.map (int32 sat)
  let a := ys.toArray
  ⟨ys.map (·.1), false, ys.any (·.2), rowsOf (fun i => sat && (match a[i]? with | some y => y.2 | none => false)) ys.length⟩

/-- The stored 64 bits of element n of an accumulator. -/
def accBits (t : BitVec 65536) (n : Nat) : Nat := slice t (64 * n) 64
/-- An accumulator read in a path's format (R118, R120, R191). -/
def accVal (f : Fmt) (ftz : Bool) (bits : Nat) : Val := f.decode ftz (bits % 2 ^ f.width)
def accInt (bits : Nat) : Int := (BitVec.ofNat 32 bits).toInt
def Val.toInt (v : Val) : Int :=
  match v with
  | .fin n m e => let x : Int := m * 2 ^ e.toNat; if n then -x else x
  | _ => 0

def accVals (f : Fmt) (ftz : Bool) (t : BitVec 65536) : List Val := (List.range 1024).map fun n => accVal f ftz (accBits t n)
def accInts (t : BitVec 65536) : List Int := (List.range 1024).map fun n => accInt (accBits t n)

/-- An accumulator from its stored elements. -/
def packAcc (cells : List Nat) : BitVec 65536 := BitVec.ofNat 65536 (cells.foldr (fun c x => c % 2 ^ 64 + x * 2 ^ 64) 0)

/-- Multiply by 2^-s, rounded in the accumulator format (R197, R203). -/
def scaleDown (f : Fmt) (ftz : Bool) (s : Nat) (v : Val) : Val :=
  if s = 0 then v else match v with
    | .fin n m e => match rndTo f ftz (.fin n m (e - s)) with | .ok x => x | .error _ => v
    | x => x

/-! ## `tmac` (R151 to R161, R180, R187, R203) -/

/-- What a `tmac` works on: its operand rows and the prior values, zeros under Z. -/
structure MacIn where
  cfg : Word
  neg : Bool
  as : List (List Val)
  bs : List (List Val)
  deriving DecidableEq, Repr

def Flight.input (x : Flight) : MacIn :=
  let w := x.cfg
  let a := sideA w
  let b := sideB w
  let k := pairK w
  let off (s : Side) : Nat := if k < rowLen s.fmt then x.seg.toNat * k else 0
  ⟨w, x.neg, tileRows a (tcFtz w) x.ta x.sa (off a) k, tileRows b (tcFtz w) x.tb x.sb (off b) k⟩

/-- One element of a float `tmac`. -/
def macElem (i : MacIn) (rscl : Nat) (as bs : List Val) (prior : Val) : Elem :=
  match special i.neg as bs prior with
  | some (v, nv) => ⟨v, nv, none⟩
  | none =>
    let terms := (as.zip bs).map fun p =>
      let t := (p.1.mul p.2).1.scale (-(rscl : Int))
      if i.neg then t.negate else t
    Elem.of (accumulate i.cfg prior terms)

def macFloat (i : MacIn) (rscl : Nat) (old : List Val) : List Elem :=
  let o := old.toArray
  (List.range 32).flatMap fun r =>
    let as := i.as.getD r []
    (List.range 32).map fun c => macElem i rscl as (i.bs.getD c []) (o[32 * r + c]?.getD (.zero false))

def macInt (i : MacIn) (old : List Int) : List Int :=
  let o := old.toArray
  let as := i.as.map (·.map Val.toInt)
  let bs := i.bs.map (·.map Val.toInt)
  (List.range 32).flatMap fun r =>
    (List.range 32).map fun c =>
      let sum := ((as.getD r []).zip (bs.getD c [])).foldl (fun (s : Int) p => s + p.1 * p.2) 0
      (o[32 * r + c]?.getD 0) + (if i.neg then -sum else sum)

/-- Repeat an operation under RESCALE until no rounding overflows or RSCL can grow no more; `f` takes the total shift added. -/
def rescaling (cfg : Word) (f : Nat → List Elem) (rscl : Nat) : Nat → Nat → Nat × List Elem
  | 0, n => (n, f n)
  | fuel + 1, n =>
    let r := f n
    if r.any (·.ovf.isSome) && tcRescale cfg && rscl + n + tcStep cfg ≤ 64 then rescaling cfg f rscl fuel (n + tcStep cfg)
    else (n, r)

/-- The prior values scaled step by step: `n` is a multiple of the step. -/
def scaledBy (cfg : Word) (f : Fmt) : Nat → Nat → List Val → List Val
  | 0, _, vs => vs
  | fuel + 1, n, vs =>
    if n = 0 || tcStep cfg = 0 then vs
    else scaledBy cfg f fuel (n - tcStep cfg) (vs.map (scaleDown f (tcFtz cfg) (tcStep cfg)))

/-! ## The checksum lane (R168 to R171, R199, R584) -/

/-- A row's column sets: one, or two halves on the FP64 path. -/
def halves (r : Route) : List (Nat × Nat) := match r with | .fp64 => [(0, 16), (16, 16)] | _ => [(0, 32)]

def Val.abs (v : Val) : Val := if v.neg then v.negate else v
/-- Both values are numbers and x exceeds y in magnitude. -/
def exceeds (x y : Val) : Bool := y.lt x.abs

/-- The running sum of a checksum, slice by slice. -/
def laneSum (f : Fmt) (ftz : Bool) : Val → List (List Val) → Except Bool Val
  | acc, [] => .ok acc
  | acc, c :: cs => do
    let t ← tree f ftz 6 c
    let acc ← rndAdd f ftz acc t
    laneSum f ftz acc cs

/-- Values of a row's columns. -/
def cols (lo n : Nat) (xs : List Val) : List Val := (xs.drop lo).take n

/-- The checksum values b̄[k] and Σ |B[j][k]| over a column set, for every k. -/
def laneOperand (i : MacIn) (f : Fmt) (lo n : Nat) : Except Bool (List (Val × Val)) :=
  let rows := (i.bs.drop lo).take n
  (List.range (pairK i.cfg)).mapM fun k => do
    let bs := rows.map fun r => r.getD k (.zero false)
    let s ← tree f (tcFtz i.cfg) 6 bs
    let m ← tree f (tcFtz i.cfg) 6 (bs.map Val.abs)
    pure (s, m)

/-- The row of a float `tmac` mismatches (R169); an overflow of the lane's own sums leaves it uncompared. -/
def macRowBad (i : MacIn) (rscl : Nat) (ops : List (Val × Val)) (as old new : List Val) : Except Bool Bool := do
  let f := accFmt (route i.cfg)
  let z := tcFtz i.cfg
  let (e, q, u) := tolerance i.cfg
  let prod (abs : Bool) : Except Bool Val := do
    let ps ← (as.zip ops).mapM fun p =>
      rndTo f z (((if abs then p.1.abs else p.1).mul (if abs then p.2.2 else p.2.1)).1.scale (-(rscl : Int)))
    laneSum f z (.zero false) (chunks (sliceLen i.cfg) 300 ps)
  let c0 ← prod false
  let c := if i.neg then c0.negate else c0
  let p ← prod true
  let so ← tree f z 6 old
  let sn ← tree f z 6 new
  let s ← rndAdd f z sn so.negate
  let qs ← (old.zip new).mapM fun x => rndAdd f z x.2.abs x.1.abs
  let qq ← tree f z 6 qs
  let t1 ← rndTo f z (p.scale (e + 1))
  let t2 ← rndTo f z (qq.scale q)
  let t3 ← rndAdd f z t1 t2
  let tau ← rndAdd f z t3 (.fin false 1 u)
  let d ← rndAdd f z s c.negate
  pure (!d.isNan && exceeds d tau)

/-- The row of a float `tfold` mismatches (R199). DEDUCED: |new| + |a| is rounded first, then + |b|, then the tree (log entry 31). -/
def foldRowBad (cfg : Word) (lo n : Nat) (a b new : List Val) : Except Bool Bool := do
  let f := (accFmt (route cfg))
  let z := tcFtz cfg
  let (_, q, u) := tolerance cfg
  let a := cols lo n a
  let b := cols lo n b
  let new := cols lo n new
  let sn ← tree f z 6 new
  let sa ← tree f z 6 a
  let sb ← tree f z 6 b
  let ab ← rndAdd f z sa sb
  let d ← rndAdd f z sn ab.negate
  let qs ← ((new.zip a).zip b).mapM fun x => do
    let y ← rndAdd f z x.1.1.abs x.1.2.abs
    rndAdd f z y x.2.abs
  let qq ← tree f z 6 qs
  let t2 ← rndTo f z (qq.scale q)
  let tau ← rndAdd f z t2 (.fin false 1 u)
  pure (!d.isNan && exceeds d tau)

def numbers (vs : List Val) : Bool := vs.all fun v => !v.isNan && !v.isInf
/-- A row's comparison fails, by the values of one of its column sets or because the checksum lane is wrong. DEDUCED: on the FP64 path a row is both
its halves, and a sum of either that overflows leaves the row uncompared (R171; log entry 128). -/
def isBad (wrong : Bool) (rs : List (Except Bool Bool)) : Bool := match rs.mapM id with | .ok bs => wrong || bs.any id | .error _ => false

/-- An integer row mismatches: exactly, or modulo 2^32 while ISAT is 0 (R170). -/
def intRowBad (cfg : Word) (s c : Int) : Bool := if tcIsat cfg then s ≠ c else (s - c) % 2 ^ 32 ≠ 0

def rowAt (r : Nat) (xs : List Val) : List Val := (xs.drop (32 * r)).take 32
def sumInts (xs : List Int) : Int := xs.foldl (· + ·) 0
def rowInts (r : Nat) (xs : List Int) : Int := sumInts ((xs.drop (32 * r)).take 32)

/-! ## Attempts (R173, R174) -/

/-- The uncommitted result with the deviations of one attempt, each within an element's width of n bits. -/
def deviate (n : Nat) (devs : List LaneDev) (cells : List Nat) : List Nat :=
  devs.foldl (fun cs d =>
    match d with
    | .result r c x => let i := 32 * r.val + c.val; cs.set i (cs.getD i 0 ^^^ x.toNat % 2 ^ n)
    | .check _ => cs) cells

/-- The checksum lane is wrong for the row. -/
def laneWrong (devs : List LaneDev) (r : Nat) : Bool := devs.any fun d => match d with | .check q => q.val = r | .result _ _ _ => false

/-- How the attempts end: a commit of these cells, or the second mismatch, each with the checksum mismatches met. -/
inductive Attempt where
  | commit (cells : List Nat) (ckmis : Bool)
  | stop
  deriving DecidableEq, Repr

/-- Run the attempts; one without a deviation always passes, since a fault-free operation never replays (R175). `miss` mismatches have
been met in this commit, and `last` holds after the lane test has found no failed lane. -/
def attempts (n : Nat) (bad : (Nat → Bool) → List Nat → Bool) (cells : List Nat) (last : Bool) : Nat → List (List LaneDev) → Attempt
  | miss, [] => .commit cells (miss ≠ 0)
  | miss, t :: ts =>
    let got := deviate n t cells
    if (got = cells && !(List.range 32).any (laneWrong t)) || !bad (laneWrong t) got then .commit got (miss ≠ 0)
    else if miss ≠ 0 || last then .stop
    else attempts n bad cells last (miss + 1) ts

/-! ## Commit -/

def Core.accAt (k : Core) (n : Fin 8) : BitVec 65536 := k.acc[n.val]
def Core.tstatAt (k : Core) (n : Fin 8) : Word := k.tstat[n.val]
def tsRscl (w : Word) : Nat := (fld w 32 7).toNat

/-- What an operation leaves: cells, or the engine stopped with CKMIS set (R173, R174). -/
def Core.finish (k : Core) (d : Fin 8) (st : Word) (r : Attempt) : Core :=
  match r with
  | .stop => { k with mxStopped := true, tstat := k.tstat.set d.val (k.tstatAt d ||| flag true 42) }
  | .commit cells ck =>
    { k with
      acc := k.acc.set d.val (packAcc cells)
      tstat := k.tstat.set d.val (st ||| flag ck 42)
      tuse := k.tuse ||| BitVec.ofNat 24 (2 ^ (8 + d.val))
      mxThird := false
      flight := k.flight.tail }

/-- Commit a `tmac` (R151, R152, R157, R192, R202, R203). DEDUCED: on the integer path RSCL is written 0, as it is always 0 there (R197; log entry 129). -/
def Core.commitMac (k : Core) (x : Flight) (tries : List (List LaneDev)) : Core :=
  let w := x.cfg
  let i := x.input
  let st := k.tstatAt x.d
  let kc : BitVec 32 := if x.z then BitVec.ofNat 32 (pairK w) else satAdd (fld st 0 32) (pairK w)
  let klong := decide (65536 < kc.toNat)
  let rscl0 := if x.z then 0 else tsRscl st
  let base (rscl : Nat) (o : MacOut) : Word :=
    setFld (setFld (setFld st 0 kc) 32 (BitVec.ofNat 7 rscl)) 48 (route w).code
      ||| flag o.ovf 40 ||| flag klong 41 ||| flag o.nv 43
  match route w with
  | .int =>
    let old := if x.z then List.replicate 1024 0 else accInts (k.accAt x.d)
    let new := macInt i old
    let o := MacOut.ofInts (tcIsat w) new
    let bad (wrong : Nat → Bool) (cells : List Nat) : Bool :=
      !klong && (List.range 32).any fun r =>
        !o.rows.contains r && (wrong r || intRowBad w (rowInts r (cells.map accInt) - rowInts r old)
          (rowInts r (macInt i (List.replicate 1024 0))))
    k.finish x.d (base 0 o) (attempts 32 bad o.cells k.mxThird 0 tries)
  | r =>
    let f := accFmt r
    let old := if x.z then List.replicate 1024 (.zero false) else accVals f (tcFtz w) (k.accAt x.d)
    let scaled (n : Nat) : List Val := scaledBy w f 65 n old
    let (n, es) := rescaling w (fun n => macFloat i (rscl0 + n) (scaled n)) rscl0 65 0
    let o := MacOut.ofElems f es
    let prior := scaled n
    let bad (wrong : Nat → Bool) (cells : List Nat) : Bool :=
      let lanes := (halves r).map fun h => (h, laneOperand i f h.1 h.2)
      let vals := cells.map (accVal f (tcFtz w))
      !klong && (List.range 32).any fun q =>
        let os := rowAt q prior
        let ns := rowAt q vals
        !o.rows.contains q && numbers (os ++ ns) && isBad (wrong q) (lanes.map fun h =>
          h.2 >>= fun ops => macRowBad i (rscl0 + n) ops (i.as.getD q []) (cols h.1.1 h.1.2 os) (cols h.1.1 h.1.2 ns))
    k.finish x.d (base (rscl0 + n) o) (attempts f.width bad o.cells k.mxThird 0 tries)

/-- One element of a float `tfold`: the rows of R159 with both sources as the terms (R197). -/
def foldElem (cfg : Word) (a b : Val) : Elem :=
  if a.isSnan || b.isSnan then ⟨.nan false, true, none⟩
  else if a.isNan || b.isNan then ⟨.nan false, false, none⟩
  else match specialInf (([a, b].filter Val.isInf).map Val.neg) with
    | some (v, nv) => ⟨v, nv, none⟩
    | none => Elem.of (rndAdd (accFmt (route cfg)) (tcFtz cfg) a b)

/-- Commit a `tfold` (R197 to R199, R203). -/
def Core.commitFold (k : Core) (x : Flight) (tries : List (List LaneDev)) : Core :=
  let w := x.cfg
  let sa := k.tstatAt x.fa
  let sb := k.tstatAt x.fb
  let st := k.tstatAt x.d
  let kc : BitVec 32 := satAdd (fld sa 0 32) (fld sb 0 32).toNat
  let sticky : Word := (sa ||| sb) &&& 0x0F0000000000
  let base (rscl : Nat) (o : MacOut) : Word :=
    setFld (setFld (setFld st 0 kc) 32 (BitVec.ofNat 7 rscl)) 48 (route w).code ||| sticky ||| flag o.ovf 40 ||| flag o.nv 43
  match route w with
  | .int =>
    let a := accInts (k.accAt x.fa)
    let b := accInts (k.accAt x.fb)
    let o := MacOut.ofInts (tcIsat w) ((a.zip b).map fun p => p.1 + p.2)
    let bad (wrong : Nat → Bool) (cells : List Nat) : Bool := (List.range 32).any fun r =>
      !o.rows.contains r && (wrong r || intRowBad w (rowInts r (cells.map accInt)) (rowInts r a + rowInts r b))
    k.finish x.d (base 0 o) (attempts 32 bad o.cells k.mxThird 0 tries)
  | r =>
    let f := accFmt r
    let ra := tsRscl sa
    let rb := tsRscl sb
    let top := Nat.max ra rb
    let av (n : Nat) : List Val := (accVals f (tcFtz w) (k.accAt x.fa)).map (scaleDown f (tcFtz w) (top + n - ra))
    let bv (n : Nat) : List Val := (accVals f (tcFtz w) (k.accAt x.fb)).map (scaleDown f (tcFtz w) (top + n - rb))
    let (n, es) := rescaling w (fun n => ((av n).zip (bv n)).map fun p => foldElem w p.1 p.2) top 65 0
    let o := MacOut.ofElems f es
    let bad (wrong : Nat → Bool) (cells : List Nat) : Bool :=
      let nv := cells.map (accVal f (tcFtz w))
      (List.range 32).any fun q =>
        let as := rowAt q (av n)
        let bs := rowAt q (bv n)
        let ns := rowAt q nv
        !o.rows.contains q && numbers (as ++ bs ++ ns) && isBad (wrong q) ((halves r).map fun h => foldRowBad w h.1 h.2 as bs ns)
    k.finish x.d (base (top + n) o) (attempts f.width bad o.cells k.mxThird 0 tries)

/-- The oldest operation in flight reaches its CHK cycle, with these attempts; a stopped engine commits nothing (R174). -/
def Core.commitHead (k : Core) (tries : List (List LaneDev)) : Core :=
  if k.mxStopped then k
  else match k.flight with
    | [] => k
    | x :: _ => if x.fold then k.commitFold x tries else k.commitMac x tries

/-- Operations that a later instruction waits for commit without a deviation, oldest first, as long as a test picks one (R147,
R148; log entry 21). -/
def Core.drain (p : Flight → Bool) : Nat → Core → Core
  | 0, k => k
  | n + 1, k => if k.flight.any p then Core.drain p n (k.commitHead []) else k

def Core.drainAll (k : Core) : Core := Core.drain (fun _ => true) 4 k
/-- The operation names an accumulator. -/
def Flight.names (x : Flight) (n : Fin 8) : Bool := x.d = n || (x.fold && (x.fa = n || x.fb = n))
/-- Wait for the operations that name an accumulator. -/
def Core.drainAcc (k : Core) (n : Fin 8) : Core := Core.drain (·.names n) 4 k

end Machine
end Sys2Proof
end

