-- ==== Sys2Proof/Machine/VecBase.lean ====
section
/-! DEFINITION. The vector and mask registers in either mode (R223 to R228, R249 to R251). -/

namespace Sys2Proof
namespace Machine

/-- Register length in bits: 4096 with the unit enabled, 64 in cellar mode (R223). -/
def Core.vlen (k : Core) : Nat := if k.vuOn then 4096 else 64

/-- The bits of vN: the long-vector file, or fN in cellar mode (R250). Numbers past 31 name no register and read 0. -/
def Core.vreg (k : Core) (n : Nat) : Nat :=
  if h : n < 32 then (if k.vuOn then (k.v[n]).toNat else (k.f[n]).toNat) else 0

def Core.setVreg (k : Core) (n x : Nat) : Core :=
  if h : n < 32 then
    if k.vuOn then { k with v := k.v.set n (BitVec.ofNat 4096 x) } else { k with f := k.f.set n (BitVec.ofNat 64 x) }
  else k

/-- A number with bits [lo + n - 1 : lo] replaced. -/
def replaceBits (x lo n v : Nat) : Nat := x % 2 ^ lo + (v % 2 ^ n) * 2 ^ lo + x / 2 ^ (lo + n) * 2 ^ (lo + n)

/-- Element e, w bits wide, of the group that begins at vN (R225). -/
def Core.velem (k : Core) (n w e : Nat) : Nat := k.vreg (n + e * w / k.vlen) / 2 ^ (e * w % k.vlen) % 2 ^ w
def Core.setVelem (k : Core) (n w e v : Nat) : Core :=
  let r := n + e * w / k.vlen
  k.setVreg r (replaceBits (k.vreg r) (e * w % k.vlen) w v)

/-- Bit e of mask register mN, of the file in use (R228, R251). -/
def Core.mbit (k : Core) (n : Fin 16) (e : Nat) : Bool :=
  if k.vuOn then (k.m[n.val]).getLsbD e else (k.cm[n.val]).getLsbD e
def Core.mreg (k : Core) (n : Fin 16) : Nat := if k.vuOn then (k.m[n.val]).toNat else (k.cm[n.val]).toNat
def Core.setMreg (k : Core) (n : Fin 16) (x : Nat) : Core :=
  if k.vuOn then { k with m := k.m.set n.val (BitVec.ofNat 4096 x) } else { k with cm := k.cm.set n.val (BitVec.ofNat 64 x) }
def Core.setMbit (k : Core) (n : Fin 16) (e : Nat) (b : Bool) : Core :=
  k.setMreg n (replaceBits (k.mreg n) e 1 (if b then 1 else 0))

/-- log2 of the bytes of an element, and the registers of a group, from VSHAPE (R224, R225). -/
def Core.sewLog (k : Core) : Nat := (fld k.vshape 0 2).toNat
def Core.sew (k : Core) : Nat := 8 * 2 ^ k.sewLog
def Core.grp (k : Core) : Nat := 2 ^ (fld k.vshape 2 2).toNat
/-- VLMAX of a shape (R226). -/
def vlmaxOf (vlen : Nat) (shape : Word) : Nat := vlen * 2 ^ (fld shape 2 2).toNat / (8 * 2 ^ (fld shape 0 2).toNat)
def Core.vlmax (k : Core) : Nat := vlmaxOf k.vlen k.vshape
def Core.vcnt (k : Core) : Nat := k.vcount.toNat

end Machine
end Sys2Proof
end

