-- ==== Sys2Proof/Machine/Output.lean ====
section
/-! DEFINITION. The output stage: OCFG, the stages of `tout`, block scales (R207 to R221). -/

namespace Sys2Proof
namespace Machine

/-! ## OCFG (R212) -/

def ocFmt (w : Word) : Nat := (fld w 0 4).toNat
def ocRm (w : Word) : BitVec 3 := fld w 4 3
def ocNonsat (w : Word) : Bool := bit w 7
def ocFtz (w : Word) : Bool := bit w 8
def ocAct (w : Word) : Nat := (fld w 9 3).toNat
def ocSmode (w : Word) : Nat := (fld w 12 2).toNat
def ocBmode (w : Word) : Nat := (fld w 14 2).toNat
def ocSvreg (w : Word) : Nat := (fld w 16 5).toNat
def ocBvreg (w : Word) : Nat := (fld w 21 5).toNat
def ocXreg (w : Word) : Fin 8 := (fld w 26 3).toFin
def ocObsz (w : Word) : Nat := (fld w 29 2).toNat
def ocObdir (w : Word) : Bool := bit w 31
/-- Leaky ReLU slope; LO and HI of clamp and table. -/
def ocSlope (w : Word) : Val := fp32.decode false (fld w 32 32).toNat
def ocLo (w : Word) : Val := bf16.decode false (fld w 32 16).toNat
def ocHi (w : Word) : Val := bf16.decode false (fld w 48 16).toNat
/-- Elements of an output block. -/
def ocBlock (w : Word) : Nat := 4 * 2 ^ ocObsz w

/-- The value may be written to OCFG. -/
def ocfgOk (w : Word) : Bool :=
  let lo := ocLo w
  let hi := ocHi w
  let bound (v : Val) : Bool := !v.isNan && !v.isInf
  ocFmt w ≤ 11 && ocRm w ≠ 6 && ocRm w ≠ 7 && !(ocRm w = 5 && 9 ≤ ocFmt w) && ocBmode w ≠ 3 &&
    !(ocObsz w ≠ 0 && ocFmt w < 2) &&
    !(ocAct w = 3 && (lo.isNan || hi.isNan || hi.lt lo)) &&
    !(ocAct w = 7 && (!bound lo || !bound hi || !lo.lt hi))

/-! ## Powers of two (R216, R217) -/

/-- The stage format of an FP32 accumulator: 24 significant bits with binary64's exponents (R214). DEDUCED: its least exponent is binary64's, -1022,
so its least subnormal is 2^-1045 (log entry 127). -/
def st24 : Fmt := ⟨11, 23, 1023, .ieee, false⟩

def rneTo (f : Fmt) (v : Val) : Val × Flags :=
  let (code, fl) := f.round ⟨.rne, true, false, false⟩ v
  (f.decode false code, fl)

/-- Round to 24 significant bits, RNE, whatever the exponent (R216). -/
def sig24 (v : Val) : Val :=
  match v with
  | .fin n m e =>
    let up := Nat.log2 m + 1 - 24
    if m = 0 then v else .fin n (roundShift .rne n m up).1 (e + up)
  | _ => v

/-- floor(v x 2^sh) of a finite value. -/
def fixFloor (v : Val) (sh : Nat) : Int :=
  match v with
  | .fin n m e =>
    let x : Int := if n then -(m : Int) else m
    let e := e + sh
    if 0 ≤ e then x * 2 ^ e.toNat else x / 2 ^ (-e).toNat
  | _ => 0

/-- 2^(f / 2^n) with 160 fractional bits: f has n bits; `r` is 2^(2^-k) for the bit being looked at, the highest first. -/
def exp2Frac (f : Nat) : Nat → Nat → Nat → Nat
  | 0, _, acc => acc
  | n + 1, r, acc =>
    let r := isqrt (r * 2 ^ 160)
    exp2Frac f n r (if f / 2 ^ n % 2 = 1 then acc * r / 2 ^ 160 else acc)

/-- Floor of a value and 2^(its fraction), with 160 fractional bits, from 128 bits of the fraction (log entry 62). -/
def exp2Parts (v : Val) : Int × Nat :=
  let x := fixFloor v 128
  (x / 2 ^ 128, exp2Frac (x % 2 ^ 128).toNat 128 (2 * 2 ^ 160) (2 ^ 160))

/-- 2^v for a bounded v, to more than 100 bits. -/
def exp2Val (v : Val) : Val :=
  let (n, m) := exp2Parts v
  .fin false m (n - 160)

/-- The exp2 activation (R217). -/
def actExp2 (f : Fmt) (y : Val) : Val :=
  let lim (n : Bool) (x : Nat) : Val := .fin n x 0
  if y.isInf then (if y.neg then .zero false else .inf false)
  else if !y.lt (lim false 1024) then .inf false
  else if y.lt (lim true 1075) then .zero false
  else
    let (n, m) := exp2Parts y
    (rneTo f (.fin false (roundShift .rne false m 145).1 (n - 15))).1

/-! ## The other activations (R216, R218) -/

/-- y / (1 + 2^-t), to more than 60 bits. -/
def sigmoidTimes (y t : Val) : Val :=
  let d := (Val.add .rne (.fin false 1 0) (exp2Val t.negate)).1
  (Val.div 64 y d).1

/-- log2 e and the constants of GELU as exact decimals: numerator over 10^k, divided to 100 bits. -/
def decimal (n k : Nat) : Val := .fin false (n * 2 ^ 140 / 10 ^ k) (-140)
def log2e : Val := decimal 144269504088896340735992468100189214 35

/-- SiLU, and GELU in its tanh form as y / (1 + e^-2u). -/
def siluReal (y : Val) : Val := sigmoidTimes y (y.mul log2e).1
def geluReal (y : Val) : Val :=
  let y3 := (y.mul (y.mul y).1).1
  let u := ((decimal 7978845608 10).mul (y.add .rne ((decimal 44715 6).mul y3).1).1).1
  sigmoidTimes y ((u.scale 1).mul log2e).1

/-- An approximation within 4 BF16 ulp, of 24 significant bits in the stage format: the deviation is open, in 1/1024 ulp (R216; log entry 61). -/
def approx (f : Fmt) (act : Nat) (y real : Val) : Val :=
  match real with
  | .fin n m e =>
    if m = 0 then .zero n
    else
      let d := Config.actDeviation act (BitVec.ofNat 64 (fp64.round ⟨.rne, true, false, false⟩ y).1)
      let d : Int := if d < -4095 then -4095 else if 4095 < d then 4095 else d
      (rneTo f (sig24 (real.add .rne (.fin (d < 0) d.natAbs (leadExp m e - 17))).1)).1
  | _ => real

/-- GELU or SiLU: y above the range, -0 below it. -/
def actSmooth (f : Fmt) (act lim : Nat) (real : Val → Val) (y : Val) : Val :=
  if (Val.fin false lim 0).lt y then y
  else if y.lt (.fin true lim 0) then .zero true
  else approx f act y (real y)

def rnd32 (v : Val) : Val := (rneTo fp32 v).1

/-- The segment of d: floor(d / w), kept within 0 to 15 (R218). -/
def segment (d w : Val) : Nat :=
  if d.isInf then (if d.neg then 0 else 15)
  else ((List.range 16).filter fun g => 0 < g && !d.lt ((Val.fin false g 0).mul w).1).length

/-- The table activation: its value and NV. DESIGN CHOICE: OCFG.FTZC flushes none of its bounds and coefficients, nor the slope of the leaky ReLU
and the clamp bounds when they are subnormal: R219 lists accumulator and vector elements only (log entry 153). -/
def actTable (t : BitVec 32768) (lo hi y : Val) : Val × Flags :=
  let y := rnd32 y
  let d := rnd32 (y.add .rne lo.negate).1
  let w := rnd32 ((rnd32 (hi.add .rne lo.negate).1).scale (-4))
  let g := segment d w
  let c (n : Nat) : Val := fp32.decode false (slice t (128 * g + 32 * n) 32)
  let step (a b z : Val) : Val × Flags :=
    let (v, fl) := Val.fma .rne a b z
    (rnd32 v, fl &&& flNV)
  let x := step (.fin true g 0) w d
  let z3 := step (c 3) x.1 (c 2)
  let z2 := step z3.1 x.1 (c 1)
  let z1 := step z2.1 x.1 (c 0)
  (z1.1, x.2 ||| z3.2 ||| z2.2 ||| z1.2)

/-- Stage 4 (R216): the value and its NV. -/
def activate (oc : Word) (wide : Bool) (f : Fmt) (table : BitVec 32768) (y : Val) : Val × Flags :=
  if y.isNan then (.nan false, 0)
  else
    let y24 := if wide then sig24 y else y
    match ocAct oc with
    | 0 => (y, 0)
    | 1 => (if (Val.zero false).lt y then y else .zero false, 0)
    | 2 =>
      if (Val.zero false).lt y then (y, 0)
      else
        let (v, fl) := y.mul (ocSlope oc)
        ((rneTo f v).1, fl &&& flNV)
    | 3 => ((Val.pick false true (Val.pick true true y (ocLo oc)).1 (ocHi oc)).1, 0)
    | 4 => (actSmooth f 4 4 geluReal y24, 0)
    | 5 => (actSmooth f 5 16 siluReal y24, 0)
    | 6 => (actExp2 f y24, 0)
    | _ => actTable table (ocLo oc) (ocHi oc) y24

/-! ## Stages 1 to 4 of one element (R213 to R216) -/

/-- What a `tout` reads besides its accumulator. -/
structure OutIn where
  oc : Word
  path : BitVec 2
  rscl : Nat
  scale : List Val
  bias : List Val
  table : BitVec 32768

def OutIn.wide (i : OutIn) : Bool := !(i.path = 0 || i.path = 1)
def OutIn.stage (i : OutIn) : Fmt := if i.wide then fp64 else st24

/-- The accumulator element as stage 1 reads it. -/
def OutIn.source (i : OutIn) (bits : Nat) : Val :=
  match i.path.toNat with
  | 0 => .zero false
  | 1 => fp32.decode (ocFtz i.oc) (bits % 2 ^ 32)
  | 2 => fp64.decode (ocFtz i.oc) bits
  | _ => .ofInt (accInt bits)

/-- y of R215 and its flags, for element [r][c]. -/
def OutIn.linear (i : OutIn) (bits r c : Nat) : Val × Flags :=
  let x := (i.source bits).scale i.rscl
  let pick (mode : Nat) (xs : List Val) : Val := xs.getD (match mode with | 1 => 0 | 2 => r | _ => c) (.zero false)
  let s := if ocSmode i.oc = 0 then Val.fin false 1 0 else pick (ocSmode i.oc) i.scale
  let (v, fl) := if ocBmode i.oc = 0 then x.mul s else Val.fma .rne x s (pick (ocBmode i.oc + 1) i.bias)
  let (code, fl2) := i.stage.round ⟨.rne, true, false, false⟩ v
  (i.stage.decode false code, fl ||| fl2)

/-- z of stage 4 with the flags of stages 1 to 4. -/
def OutIn.stages (i : OutIn) (bits r c : Nat) : Val × Flags :=
  let (y, fl) := i.linear bits r c
  let (z, fl4) := activate i.oc i.wide i.stage i.table y
  (z, fl ||| fl4)

/-! ## Stages 5 and 6 (R219, R221) -/

def ocCtl (oc : Word) : RoundCtl :=
  let rm := match (ocRm oc).toNat with | 1 => Rm.rtz | 2 => .rup | 3 => .rdn | 4 => .rna | 5 => .rto | _ => .rne
  ⟨rm, ocNonsat oc, ocFtz oc, false⟩

/-- Exponent of the largest finite value (R221). -/
def emaxOf (fmt : Nat) : Int :=
  match fmt with
  | 2 => 127
  | 3 => 15
  | 4 => 8
  | 5 => 15
  | 6 => 4
  | 7 => 2
  | 8 => 2
  | 9 => 0
  | 10 => 7
  | _ => 2

/-- z divided by the block scale, as the element format holds it: INT8 carries 2^-6 (R86). -/
def descale (fmt : Nat) (x : Int) (z : Val) : Val := z.scale (127 - x + (if fmt = 9 then 6 else 0))

/-- A finite element overflows, or saturates, under the mode in force. -/
def clips (oc : Word) (v : Val) : Bool :=
  let fl := (roundElem (ocFmt oc) (ocCtl oc) v).2
  !v.isNan && !v.isInf && (fl &&& (if 9 ≤ ocFmt oc then flNV else flOF)) ≠ 0

/-- The scale of a block of stage-4 values; 0xFF where it contains a NaN. -/
def blockScale (oc : Word) (zs : List Val) : Nat :=
  let exps := zs.filterMap fun z => match z with | .fin _ m e => if m = 0 then none else some (leadExp m e) | _ => none
  if zs.any (·.isNan) then 0xFF
  else match exps with
    | [] => 0x7F
    | e :: es =>
      let top := es.foldl (fun a b => if a < b then b else a) e
      let x := top - emaxOf (ocFmt oc) + 127
      let x := if zs.any fun z => clips oc (descale (ocFmt oc) x z) then x + 1 else x
      if x < 0 then 0 else if 0xFE < x then 0xFE else x.toNat

/-- Stage 5 of one element, under its block's scale if there is one: its bits and flags. DESIGN CHOICE: the elements of a block with a NaN, which
R221 writes as +0, raise no flag; R221 gives their value only (log entry 153). -/
def convertOut (oc : Word) (scale : Option Nat) (z : Val) : Nat × Flags :=
  match scale with
  | none => roundElem (ocFmt oc) (ocCtl oc) z
  | some x => if x = 0xFF then (0, 0) else roundElem (ocFmt oc) (ocCtl oc) (descale (ocFmt oc) x z)

/-- The result of a `tout`: 1,024 element codes with their flags, and the scale of each element's block. -/
structure OutResult where
  codes : Array (Nat × Flags)
  scales : Array Nat

/-- First element of the block of [r][c]. -/
def blockStart (oc : Word) (r c : Nat) : Nat × Nat :=
  let b := ocBlock oc
  if ocObdir oc then (r / b * b, c) else (r, c / b * b)

def OutIn.run (i : OutIn) (acc : BitVec 65536) : OutResult :=
  let zs : Array (Val × Flags) := ((List.range 1024).map fun n => i.stages (accBits acc n) (n / 32) (n % 32)).toArray
  let zAt (r c : Nat) : Val := match zs[32 * r + c]? with | some z => z.1 | none => .zero false
  let b := ocBlock i.oc
  let block (n : Nat) : Nat :=
    let (r, c) := blockStart i.oc (n / 32) (n % 32)
    blockScale i.oc ((List.range b).map fun j => if ocObdir i.oc then zAt (r + j) c else zAt r (c + j))
  let starts := (List.range 1024).filter fun n => blockStart i.oc (n / 32) (n % 32) = (n / 32, n % 32)
  let table : List (Nat × Nat) := if ocObsz i.oc = 0 then [] else starts.map fun n => (n, block n)
  let lookup : Array Nat := table.foldl (fun a p => a.set! p.1 p.2) (Array.replicate 1024 0)
  let scales : Array Nat := ((List.range 1024).map fun n =>
    let (r, c) := blockStart i.oc (n / 32) (n % 32)
    match lookup[32 * r + c]? with | some x => x | none => 0).toArray
  let codes := (List.range 1024).map fun n =>
    let sc := if ocObsz i.oc = 0 then none else scales[n]?
    let z := match zs[n]? with | some z => z | none => (.zero false, 0)
    let (code, fl) := convertOut i.oc sc z.1
    (code, fl ||| z.2)
  ⟨codes.toArray, scales⟩

end Machine
end Sys2Proof
end

