-- ==== Sys2Proof/Machine/Tile.lean ====
section
/-! DEFINITION. Tile instructions, class 0x14 (R114 to R150, R154, R195, R207 to R213). -/

namespace Sys2Proof
namespace Machine

/-! ## Tiles (R114, R128) -/

/-- Bytes in one row of the tile of a code: tile register, accumulator, scale register. -/
def rowBytes (t : Nat) : Nat := if t < 8 then 128 else if t < 16 then 256 else 32

/-- The accumulator of a code. -/
def accOf (t : Nat) : Fin 8 := Fin.ofNat 8 t

/-- A tile's bytes as one number, byte 0 least significant. -/
def Core.tile (k : Core) (t : Nat) : Nat :=
  let n := accOf t
  if t < 8 then (k.tl[n.val]).toNat else if t < 16 then (k.acc[n.val]).toNat else (k.sc[n.val]).toNat

def Core.setTile (k : Core) (t x : Nat) : Core :=
  let n := accOf t
  if t < 8 then { k with tl := k.tl.set n.val (BitVec.ofNat 32768 x) }
  else if t < 16 then { k with acc := k.acc.set n.val (BitVec.ofNat 65536 x) }
  else { k with sc := k.sc.set n.val (BitVec.ofNat 8192 x) }

def Core.useTile (k : Core) (t : Nat) : Core := { k with tuse := k.tuse ||| BitVec.ofNat 24 (2 ^ t) }

/-- Row r of a tile as bytes. -/
def Core.tileRow (k : Core) (t r : Nat) : List Byte :=
  let n := rowBytes t
  toLe n (k.tile t / 2 ^ (8 * n * r))

/-! ## The shape of a tile instruction -/

/-- The word of a tile instruction: operation and options in [11:0]. -/
def tileWord (op : Nat) (d a b : Nat) (opt : Nat) : BitVec 32 :=
  BitVec.ofNat 32 (0x14 * 2 ^ 27 + d * 2 ^ 22 + a * 2 ^ 17 + b * 2 ^ 12 + op * 64 + opt)

/-- The checks before any decode check: strongroom mode, then STATUS.TEN (R129); a stopped engine makes tile instructions wait (R174). -/
def tileOp (c : CoreId) (w : BitVec 32) (ok : Core → Bool) (body : M Next) : State → Host.Outcome State Fault Refusal :=
  instr c w false do
    let s ← get
    let k := s.core c
    if k.srm then illegal w
    else if !k.ten then raise 0x0A 0 none
    else if !ok k then illegal w
    else if k.mxStopped then await
    else body

/-- Wait for the operations in flight that name an accumulator, where the code names one. -/
def waitTile (c : CoreId) (t : Nat) : M Unit :=
  modify fun s => s.modCore c fun k => if 8 ≤ t && t < 16 then k.drainAcc (accOf t) else k

def waitAll (c : CoreId) : M Unit := modify fun s => s.modCore c (·.drainAll)

/-! ## Memory of a tile instruction (R133 to R137, R143) -/

/-- Check one part of a range: translation and permission, then what the address is (R134, R136, R244; log entry 112). `dev`: DEV leaves and
DEV windows are refused with control space and doorbell pages. -/
def tilePiece (c : CoreId) (dev : Bool) (need : Need) (a n : Nat) : M Piece := do
  let p ← checkPiece c false need (a % 2 ^ 64) n
  let refused : Bool := match p.kind with | .ctl _ _ => true | .bell _ _ _ => true | _ => dev && p.dev
  if refused then raise 3 2 (some (BitVec.ofNat 64 p.va)) else pure p

/-- Check a range whole, its parts in address order. -/
def tilePieces (c : CoreId) (dev : Bool) (need : Need) (a n : Nat) : M (List Piece) :=
  (splitLines a n).mapM fun p => tilePiece c dev need p.1 p.2

/-- Insert a range by its address. -/
def insertRange (x : Nat × Nat) : List (Nat × Nat) → List (Nat × Nat)
  | [] => [x]
  | y :: ys => if x.1 ≤ y.1 then x :: y :: ys else y :: insertRange x ys

def sortRanges (xs : List (Nat × Nat)) : List (Nat × Nat) := xs.foldr insertRange []

/-- Check ranges in rising address order, so that the lowest faulting byte is the one named. -/
def tileCheck (c : CoreId) (need : Need) (rs : List (Nat × Nat)) : M Unit :=
  (sortRanges rs).forM fun r => do
    let _ ← tilePieces c false need r.1 r.2

/-- Read checked ranges in rising address order: their bytes by address. -/
def tileRead (c : CoreId) (rs : List (Nat × Nat)) : M (List (Nat × List Byte)) :=
  (sortRanges rs).mapM fun r => do
    let ps ← tilePieces c false needR r.1 r.2
    let bs ← readPieces c ps
    pure (r.1, bs)

/-- Check ranges that will be written, and find where each goes. -/
def tilePlan (c : CoreId) (rs : List (Nat × Nat)) : M (List (List Piece)) := do
  tileCheck c needW rs
  rs.mapM fun r => tilePieces c false needW r.1 r.2

/-- Write a checked range: each part in a line is one buffered store of source `src` (R137, R288). -/
def storeParts (c : CoreId) (src : BitVec 2) (ps : List Piece) (bs : List Byte) : M Unit := do
  let _ ← ps.foldlM (fun (rest : List Byte) p => do
    writePieces c src p.va [p] (rest.take p.n)
    pure (rest.drop p.n)) bs

/-- Write checked ranges in order. -/
def tileWrite (c : CoreId) (plan : List (List Piece)) (data : List (List Byte)) : M Unit :=
  (plan.zip data).forM fun p => storeParts c 1 p.1 p.2

/-- Row addresses gA + r x gB of rows 0 to n. -/
def rowAddrs (base stride : Word) (n : Nat) : List Nat := (List.range (n + 1)).map fun r => (base + BitVec.ofNat 64 r * stride).toNat

/-- The lowest-numbered misaligned row raises cause 0x02 (R133). -/
def rowAlign (t : Nat) (as : List Nat) : M Unit :=
  match as.find? fun a => a % (if t < 16 then 64 else 32) ≠ 0 with
  | some a => raise 2 0 (some (BitVec.ofNat 64 a))
  | none => pure ()

/-! ## Moves (R131 to R139) -/

/-- Rows 0 to NR from memory; rows above are kept, or written zero under Z. -/
def execTld (c : CoreId) (t : BitVec 5) (a b : Reg) (z : Bool) (nr : BitVec 5) (s : State) : Host.Outcome State Fault Refusal :=
  let n := t.toNat
  let w := tileWord 0x00 n a.val b.val ((if z then 32 else 0) + nr.toNat)
  tileOp c w (fun _ => n < 24) (do
    let s ← get
    let as := rowAddrs (s.g c a) (s.g c b) nr.toNat
    rowAlign n as
    let sz := rowBytes n
    tileCheck c needR (as.map fun x => (x, sz))
    let got ← tileRead c (as.map fun x => (x, sz))
    waitTile c n
    modify fun s => s.modCore c fun k =>
      let rows := (List.range 32).map fun r =>
        match as[r]? with
        | some x => (match got.find? fun e => e.1 = x with | some e => e.2 | none => [])
        | none => if z then toLe sz 0 else k.tileRow n r
      (k.setTile n (fromLe rows.flatten)).useTile n
    pure .seq) s

/-- Rows 0 to NR to memory, in increasing order. -/
def execTst (c : CoreId) (t : BitVec 5) (a b : Reg) (z : Bool) (nr : BitVec 5) (s : State) : Host.Outcome State Fault Refusal :=
  let n := t.toNat
  let w := tileWord 0x01 n a.val b.val ((if z then 32 else 0) + nr.toNat)
  tileOp c w (fun _ => n < 24 && !z) (do
    let s ← get
    let as := rowAddrs (s.g c a) (s.g c b) nr.toNat
    rowAlign n as
    let sz := rowBytes n
    let plan ← tilePlan c (as.map fun x => (x, sz))
    waitTile c n
    let s ← get
    tileWrite c plan ((List.range 32).map fun r => (s.core c).tileRow n r)
    pure .seq) s

/-- Every byte zero, the TUSE bit clear, and TSTATn of an accumulator zero (R125, R138). -/
def execTzero (c : CoreId) (t : BitVec 5) (s : State) : Host.Outcome State Fault Refusal :=
  let n := t.toNat
  tileOp c (tileWord 0x02 n 0 0 0) (fun _ => n < 24) (do
    waitTile c n
    modify fun s => s.modCore c fun k =>
      let k := { k.setTile n 0 with tuse := k.tuse &&& ~~~(BitVec.ofNat 24 (2 ^ n)) }
      if 8 ≤ n && n < 16 then { k with tstat := k.tstat.set (accOf n).val 0 } else k
    pure .seq) s

/-- A write of TCFG, after every earlier tile instruction (R121, R123). -/
def writeTcfg (c : CoreId) (w : BitVec 32) (v : Word) : M Unit := do
  awaitStep c
  waitAll c
  if tcfgOk v then modify fun s => s.modCore c fun k => { k with tcfg := v } else illegal w

/-- TCFG := gA. -/
def execTcfg (c : CoreId) (a : Reg) (s : State) : Host.Outcome State Fault Refusal :=
  let w := tileWord 0x03 0 a.val 0 0
  tileOp c w (fun _ => true) (do
    let s ← get
    writeTcfg c w (s.g c a)
    pure .seq) s

/-- Wait for every earlier tile instruction (R139). -/
def execTsync (c : CoreId) (s : State) : Host.Outcome State Fault Refusal :=
  tileOp c (tileWord 0x06 0 0 0 0) (fun _ => true) (do
    waitAll c
    pure .seq) s

/-! ## The save image (R140 to R145) -/

/-- Offset and size of the tile of a code in the image. -/
def imagePart (t : Nat) : Nat × Nat :=
  if t < 8 then (0x100 + 0x1000 * t, 4096) else if t < 16 then (0x8100 + 0x2000 * (t - 8), 8192) else (0x18100 + 0x400 * (t - 16), 1024)

/-- The image's tiles that TUSE marks: code, address and size. -/
def imageTiles (base : Nat) (tuse : Word) : List (Nat × Nat × Nat) :=
  ((List.range 24).filter fun t => bit tuse t).map fun t => (t, (base + (imagePart t).1) % 2 ^ 64, (imagePart t).2)

/-- The header: 32 doublewords. -/
def Core.imageHeader (k : Core) : List Word :=
  [k.tuse.setWidth 64, k.tcfg, k.ocfg, 0] ++ k.tstat.toList ++ [1] ++ List.replicate 19 0

/-- An image's base is a multiple of 256. DEDUCED: EADDR of the cause is the base (R140, R283; log entry 126). -/
def imageAlign (base : Nat) : M Unit := if base % 256 ≠ 0 then raise 2 0 (some (BitVec.ofNat 64 base)) else pure ()

/-- A `tsave` that waits leaves its image partly written (R144). -/
def staying (c : CoreId) (m : M Next) : M Next := fun s =>
  match m s with
  | .error .wait t => .ok .stay (t.modCore c fun k => { k with begun := false })
  | r => r

/-- The header and every tile in use, to memory. -/
def execTsave (c : CoreId) (a : Reg) (s : State) : Host.Outcome State Fault Refusal :=
  tileOp c (tileWord 0x04 0 a.val 0 0) (fun _ => true) (do
    let s ← get
    let base := (s.g c a).toNat
    imageAlign base
    waitAll c
    let s ← get
    let k := s.core c
    let ts := imageTiles base (k.tuse.setWidth 64)
    let plan ← tilePlan c ((base, 256) :: ts.map (·.2))
    staying c do
      tileWrite c plan (k.imageHeader.flatMap (fun w => toLe 8 w.toNat) :: ts.map fun t => toLe t.2.2 (k.tile t.1))
      pure .seq) s

/-- A value that `syswr` may write to TSTATn, with no reserved bit set. -/
def tstatSaved (w : Word) : Bool := (fld w 32 7).toNat ≤ 64 && !bit w 39 && w.toNat < 2 ^ 50

/-- The header may be restored (R142). -/
def headerOk (h : List Word) : Bool :=
  let w (i : Nat) : Word := h.getD i 0
  (w 0).toNat < 2 ^ 24 && tcfgOk (w 1) && ocfgOk (w 2) && w 3 = 0 && ((h.drop 4).take 8).all tstatSaved && w 12 = 1 &&
    ((h.drop 13).all fun x => x = 0)

/-- The header, then every tile that it marks; the others become zero. -/
def execTrest (c : CoreId) (a : Reg) (s : State) : Host.Outcome State Fault Refusal :=
  let w := tileWord 0x05 0 a.val 0 0
  tileOp c w (fun _ => true) (do
    let s ← get
    let base := (s.g c a).toNat
    imageAlign base
    waitAll c
    markWait c (fun k => { k with imaging := true, begun := false }) do
    let ps ← tilePieces c false needR base 256
    let hb ← readPieces c ps
    let h : List Word := (List.range 32).map fun i => BitVec.ofNat 64 (fromLe ((hb.drop (8 * i)).take 8))
    if !headerOk h then illegal w
    else
      let ts := imageTiles base (h.getD 0 0)
      tileCheck c needR (ts.map (·.2))
      let got ← tileRead c (ts.map (·.2))
      modify fun s => s.modCore c fun k =>
        let k := (List.range 24).foldl (fun k t =>
          let x := match ts.find? fun e => e.1 = t with
            | some e => (match got.find? fun g => g.1 = e.2.1 with | some g => fromLe g.2 | none => 0)
            | none => 0
          k.setTile t x) k
        { k with tuse := (h.getD 0 0).setWidth 24, tcfg := h.getD 1 0, ocfg := h.getD 2 0,
                 tstat := Vector.ofFn fun n => h.getD (4 + n.val) 0 }
      pure .seq) s

/-! ## The matrix engine (R128, R151 to R156, R165, R177, R195, R196) -/

/-- Put an operation in flight; a fifth waits for the oldest to commit (R165). -/
def Core.issue (k : Core) (x : Flight) : Core :=
  let k := if k.flight.length < 4 then k else k.commitHead []
  { k with flight := k.flight ++ [x], mxGated := false }

/-- The variant has the path that TCFG selects (R96, R177). -/
def pathPresent (s : State) (c : CoreId) : Bool :=
  match route (s.core c).tcfg with | .fp64 => hasF64m s.variant | _ => true

/-- A multiply-accumulate into an accumulator; it commits under TMAC_COMMIT. -/
def execTmac (c : CoreId) (d a b : BitVec 5) (seg : BitVec 4) (neg z : Bool) (s : State) : Host.Outcome State Fault Refusal :=
  let w := tileWord 0x10 d.toNat a.toNat b.toNat (seg.toNat * 4 + (if neg then 2 else 0) + (if z then 1 else 0))
  let codes := 8 ≤ d.toNat && d.toNat < 16 && a.toNat < 8 && b.toNat < 8
  tileOp c w (fun k => codes && seg.toNat < pairSegs k.tcfg && pathPresent s c) (do
    modify fun s => s.modCore c fun k =>
      let x := accOf a.toNat
      let y := accOf b.toNat
      k.issue ⟨false, accOf d.toNat, 0, 0, k.tcfg, seg, neg, z, k.tl[x.val], k.tl[y.val], k.sc[x.val], k.sc[y.val]⟩
    pure .seq) s

/-- The sum of two accumulators; it commits under TFOLD_COMMIT. -/
def execTfold (c : CoreId) (d a b : BitVec 5) (opt : BitVec 6) (s : State) : Host.Outcome State Fault Refusal :=
  let w := tileWord 0x11 d.toNat a.toNat b.toNat opt.toNat
  let isAcc (x : BitVec 5) : Bool := 8 ≤ x.toNat && x.toNat < 16
  tileOp c w (fun _ => isAcc d && isAcc a && isAcc b && opt = 0 && pathPresent s c) (do
    modify fun s => s.modCore c fun k =>
      k.issue ⟨true, accOf d.toNat, accOf a.toNat, accOf b.toNat, k.tcfg, 0, false, false, 0, 0, 0, 0⟩
    pure .seq) s

/-- An engine has stopped: the cofferdam has the lane fault. A third mismatch, after a test that found no failed lane, fails the engine, and
the core is fenced (R174). -/
def laneFaulted (c : CoreId) (third : Bool) (s : State) : State :=
  let k := s.core c
  let p := s.corePort c
  if third then
    contain (fun s => fenceCore c { s with rooms := if h : p < 34 then s.rooms.set p { s.rooms[p] with engineFailed := true } else s.rooms })
      0x07 p k.polder 2 0 s
  else record 0x07 p k.polder 1 0 0 s

/-- The oldest operation in flight commits, if it is of the row's kind. -/
def commitRow (fold : Bool) (c : CoreId) (tries : List (List LaneDev)) (s : State) : State :=
  let k := s.core c
  match k.flight with
  | x :: _ =>
    if x.fold = fold && !k.forced then
      let s := s.setCore c (k.commitHead tries)
      if (s.core c).mxStopped && !k.mxStopped then laneFaulted c k.mxThird s else s
    else s
  | [] => s

/-- The CHK cycle of the oldest `tmac`: commit, replays, or the engine stops (R157, R173, R174, R203). -/
def execTmacCommit (c : CoreId) (tries : List (List LaneDev)) (s : State) : Host.Outcome State Fault Refusal :=
  .next (commitRow false c tries s)

/-- The commit of the oldest `tfold` (R198, R199). -/
def execTfoldCommit (c : CoreId) (tries : List (List LaneDev)) (s : State) : Host.Outcome State Fault Refusal :=
  .next (commitRow true c tries s)

/-! ## `tout` (R207 to R213, R220, R221) -/

/-- Valid column segments (R208). -/
def colOk (fmt col : Nat) : Bool := if fmt = 0 then col < 2 else col < rowLen fmt / 32

/-- A 32-element vector operand, read as FP32 (R213). -/
def Core.vecOperand (k : Core) (n : Nat) : List Val :=
  (List.range 32).map fun m => fp32.decode (ocFtz k.ocfg) (k.velem n 32 m)

/-- OCFG's vector operands lie within the cellar's registers (R213). -/
def Core.operandsFit (k : Core) : Bool :=
  let oc := k.ocfg
  k.vuOn || (!(2 ≤ ocSmode oc && 16 < ocSvreg oc) && !(ocBmode oc ≠ 0 && 16 < ocBvreg oc))

/-- Decode checks (R207, R213). -/
def Core.toutOk (k : Core) (d a b : BitVec 5) (m bit3 : Bool) (col : BitVec 3) : Bool :=
  8 ≤ a.toNat && a.toNat < 16 && !bit3 && k.operandsFit &&
    (if m then col = 0 && !(ocObsz k.ocfg ≠ 0 && b = 31) else d.toNat < 8 && b = 0 && colOk (ocFmt k.ocfg) col.toNat)

/-- What a `tout` of accumulator n reads. -/
def Core.outIn (k : Core) (n : Fin 8) : OutIn :=
  let st := k.tstatAt n
  ⟨k.ocfg, fld st 48 2, tsRscl st, k.vecOperand (ocSvreg k.ocfg), k.vecOperand (ocBvreg k.ocfg), k.tl[(ocXreg k.ocfg).val]⟩

/-- FLAGS of TSTATn from the elements written, then CLR (R125, R211, R220). DEDUCED: CLR writes its accumulator, and so sets its TUSE bit even where it
was 0 (R124; log entry 125). -/
def Core.outDone (k : Core) (n : Fin 8) (fl : Flags) (clr : Bool) : Core :=
  let st := k.tstatAt n ||| put fl 43
  if clr then
    { k.useTile (8 + n.val) with acc := k.acc.set n.val 0, tstat := k.tstat.set n.val (setFld (setFld st 0 (0 : BitVec 39)) 48 (0 : BitVec 2)) }
  else { k with tstat := k.tstat.set n.val st }

/-- Code and flags of element [r][c]. -/
def OutResult.at_ (o : OutResult) (r c : Nat) : Nat × Flags := match o.codes[32 * r + c]? with | some x => x | none => (0, 0)
def OutResult.scaleAt (o : OutResult) (r c : Nat) : Nat := match o.scales[32 * r + c]? with | some x => x | none => 0

/-- Elements that the tile form writes: all columns, or 16 for FP64. -/
def outCols (fmt col : Nat) : List Nat := if fmt = 0 then (List.range 16).map (· + 16 * col) else List.range 32

/-- tlD with the elements written (R208). -/
def outTile (oc : Word) (col : Nat) (o : OutResult) (old : Nat) : Nat :=
  let fmt := ocFmt oc
  let w := storageBits fmt
  (List.range 32).foldl (fun x r => (outCols fmt col).foldl (fun x c =>
    let k := if fmt = 0 then c - 16 * col else 32 * col + c
    replaceBits x (1024 * r + w * k) w (o.at_ r c).1) x) old

/-- scD with the block scales written at the bytes of R90. -/
def outScales (oc : Word) (col : Nat) (o : OutResult) (old : Nat) : Nat :=
  (List.range 32).foldl (fun x r => (List.range 32).foldl (fun x c =>
    replaceBits x (8 * scaleByte (rowLen (ocFmt oc)) (ocBlock oc) (ocObdir oc) r (32 * col + c)) 8 (o.scaleAt r c)) x) old

/-- Bytes of a written row, and of one scale area, in memory (R209). -/
def outRow (oc : Word) (o : OutResult) (r : Nat) : List Byte :=
  let w := storageBits (ocFmt oc)
  toLe (4 * w) ((List.range 32).foldl (fun x c => x + (o.at_ r c).1 % 2 ^ w * 2 ^ (w * c)) 0)

def outScaleBytes (oc : Word) (o : OutResult) : List Byte :=
  let b := ocBlock oc
  (List.range (1024 / b)).map fun i =>
    BitVec.ofNat 8 (if ocObdir oc then o.scaleAt (i / 32 * b) (i % 32) else o.scaleAt (i / (32 / b)) (i % (32 / b) * b))

def joinCodes (xs : List (Nat × Flags)) : Flags := joinFlags (xs.map (·.2))

/-- The tile form: M = 0. -/
def outToTile (c : CoreId) (d : Nat) (n : Fin 8) (clr : Bool) (col : Nat) : M Unit :=
  modify fun s => s.modCore c fun k =>
    let oc := k.ocfg
    let o := (k.outIn n).run (k.accAt n)
    let fl := joinCodes ((List.range 32).flatMap fun r => (outCols (ocFmt oc) col).map fun c => o.at_ r c)
    let k' := (k.setTile d (outTile oc col o (k.tile d))).useTile d
    let k' := if ocObsz oc = 0 then k' else (k'.setTile (16 + d) (outScales oc col o (k.tile (16 + d)))).useTile (16 + d)
    k'.outDone n fl clr

/-- The lowest misaligned address of the memory form raises cause 0x02 (R210). -/
def outAlign (rows : List Nat) (unit : Nat) (scale : Option Nat) : M Unit :=
  let bad := rows.filter (fun a => a % unit ≠ 0) ++ (match scale with | some a => if a % 32 ≠ 0 then [a] else [] | none => [])
  match bad with
  | [] => pure ()
  | a :: as => raise 2 0 (some (BitVec.ofNat 64 (as.foldl Nat.min a)))

/-- The memory form: M = 1 (R209, R210). -/
def outToMem (c : CoreId) (base stride : Word) (sb : Word) (n : Fin 8) (clr : Bool) : M Unit := do
  let s ← get
  let oc := (s.core c).ocfg
  let len := 4 * storageBits (ocFmt oc)
  let rows := rowAddrs base stride 31
  let scale := if ocObsz oc = 0 then none else some sb.toNat
  outAlign rows (Nat.min len 64) scale
  let plan ← tilePlan c (rows.map (fun a => (a, len)) ++ (match scale with | some a => [(a, 1024 / ocBlock oc)] | none => []))
  modify fun s => s.modCore c (·.drainAcc n)
  let s ← get
  let k := s.core c
  let o := (k.outIn n).run (k.accAt n)
  tileWrite c plan ((List.range 32).map (outRow oc o) ++ [outScaleBytes oc o])
  modify fun s => s.modCore c (·.outDone n (joinCodes o.codes.toList) clr)

/-- An accumulator through the output stage, to a tile register or to memory. -/
def execTout (c : CoreId) (d a b : BitVec 5) (m clr bit3 : Bool) (col : BitVec 3) (s : State) : Host.Outcome State Fault Refusal :=
  let w := tileWord 0x18 d.toNat a.toNat b.toNat
    ((if m then 32 else 0) + (if clr then 16 else 0) + (if bit3 then 8 else 0) + col.toNat)
  tileOp c w (fun k => k.toutOk d a b m bit3 col) (do
    let s ← get
    let k := s.core c
    let n := accOf a.toNat
    if (ocSmode k.ocfg ≠ 0 || ocBmode k.ocfg ≠ 0) && !k.ven then raise 0x0A 1 none
    else if m then outToMem c (s.g c d.toFin) (s.g c b.toFin) (s.g c (b + 1).toFin) n clr
    else do
      modify fun s => s.modCore c (·.drainAcc n)
      outToTile c d.toNat n clr col.toNat
    pure .seq) s

end Machine
end Sys2Proof
end

