-- ==== Sys2Proof/Machine/Fp.lean ====
section
/-! DEFINITION. Scalar floating-point instructions: classes FP-R, FP-FMA and FP-CVT (R50 to R57, R97 to R112). -/

namespace Sys2Proof
namespace Machine

/-! ## Control and results -/

/-- The formats of the fmt field (R50). -/
def fpFmt (fmt : Nat) : Option Fmt := match fmt with | 0 => some fp64 | 1 => some fp32 | _ => none

/-- The mode of a code; 0b110 is reserved, 0b101 only where round-to-odd is valid (R50, R100). -/
def rmCode (rto : Bool) (rm : BitVec 3) : Option Rm :=
  match rm.toNat with
  | 0 => some .rne
  | 1 => some .rtz
  | 2 => some .rup
  | 3 => some .rdn
  | 4 => some .rna
  | 5 => if rto then some .rto else none
  | _ => none

/-- The mode that an rm field selects, 0b111 being FCTL.RM (R50). -/
def Core.rmOf (k : Core) (rto : Bool) (rm : BitVec 3) : Option Rm :=
  if rm = 7 then rmCode false (fld k.fctl 0 3) else rmCode rto rm

def Core.fpFtz (k : Core) : Bool := bit k.fctl 9
def Core.fpTe (k : Core) : Flags := fld k.fctl 3 5
def Core.fpCtl (k : Core) (rm : Rm) (nonsat : Bool) : RoundCtl := ⟨rm, nonsat, k.fpFtz, bit k.fctl 6⟩

/-- The bits and the value of an f register in a format: binary32 is the low half (R37, R98). -/
def Core.fbits (k : Core) (f : Fmt) (r : Reg) : Nat := (k.rf r).toNat % 2 ^ f.width
def Core.fval (k : Core) (f : Fmt) (r : Reg) : Val := f.decode k.fpFtz (k.fbits f r)

/-- Flags into FSTAT; a flag whose trap is enabled makes cause 0x06 pending, the oldest trap being reported (R55, R286; log entry 7). -/
def Core.fpFlags (k : Core) (fl : Flags) : Core :=
  let k := { k with fstat := k.fstat ||| fl.setWidth 64 }
  if fl &&& k.fpTe ≠ 0 && k.fpPend.isNone then { k with fpPend := some (k.pc, !(bit k.fctl 8 || k.srm)) } else k

/-- A result in a format, rounded once, into fD; a binary32 result zeroes the top half (R37, R52). -/
def Core.fpWrite (k : Core) (f : Fmt) (ctl : RoundCtl) (d : Reg) (r : Val × Flags) : Core :=
  let (code, fl) := f.round ctl r.1
  (k.wf d (BitVec.ofNat 64 code)).fpFlags (fl ||| r.2)

/-- A result in gD with its flags. -/
def Core.gpWrite (k : Core) (d : Reg) (v : Word) (fl : Flags) : Core := (k.wg d v).fpFlags fl

/-- The shape of every scalar floating-point instruction: fmt and rm are checked, then the effect runs. -/
def fpOp (c : CoreId) (w : BitVec 32) (fmt : Nat) (rto : Bool) (rm : BitVec 3) (ok : Core → Bool) (f : Core → Fmt → Rm → Core) :
    State → Host.Outcome State Fault Refusal :=
  instr c w false do
    let s ← get
    let k := s.core c
    match fpFmt fmt, k.rmOf rto rm with
    | some x, some r => if ok k then onCore c fun k => f k x r else illegal w
    | _, _ => illegal w

/-- The function field of FP-R and FP-CVT: op, rm and fmt. -/
def fpFn (op : Nat) (rm fmt : BitVec 3) : BitVec 12 := BitVec.ofNat 12 (op * 64 + rm.toNat * 8 + fmt.toNat)

def always (_ : Core) : Bool := true

/-! ## FP-R -/

/-- A function of two values, rounded into fD. -/
def fpBin (op : Nat) (f : Fmt → Rm → Val → Val → Val × Flags) (c : CoreId) (fmt rm : BitVec 3) (d a b : Reg) (s : State) :
    Host.Outcome State Fault Refusal :=
  fpOp c (wordOf 0x0E d a b (fpFn op rm fmt)) fmt.toNat false rm always
    (fun k x r => k.fpWrite x (k.fpCtl r false) d (f x r (k.fval x a) (k.fval x b))) s

/-- A function of one value, rounded into fD. -/
def fpUn (op : Nat) (f : Fmt → Rm → Val → Val × Flags) (c : CoreId) (fmt rm : BitVec 3) (d a : Reg) (s : State) :
    Host.Outcome State Fault Refusal :=
  fpOp c (wordOf 0x0E d a 0 (fpFn op rm fmt)) fmt.toNat false rm always
    (fun k x r => k.fpWrite x (k.fpCtl r false) d (f x r (k.fval x a))) s

/-- fA with a sign made from both signs; the bits of a NaN pass unchanged. -/
def fpSign (op : Nat) (f : Bool → Bool → Bool) (c : CoreId) (fmt rm : BitVec 3) (d a b : Reg) (s : State) :
    Host.Outcome State Fault Refusal :=
  fpOp c (wordOf 0x0E d a b (fpFn op rm fmt)) fmt.toNat false rm always
    (fun k x _ =>
      let top := x.width - 1
      let neg := f (bit (k.rf a) top) (bit (k.rf b) top)
      k.wf d (BitVec.ofNat 64 (x.signed neg (k.fbits x a % 2 ^ top)))) s

/-- A comparison into gD; `signalling` sets the invalid flag for every NaN, else only a signalling one does (R52). -/
def fpCmp (op : Nat) (signalling : Bool) (f : Val → Val → Bool) (c : CoreId) (fmt rm : BitVec 3) (d a b : Reg) (s : State) :
    Host.Outcome State Fault Refusal :=
  fpOp c (wordOf 0x0E d a b (fpFn op rm fmt)) fmt.toNat false rm always
    (fun k x _ =>
      let u := k.fval x a
      let v := k.fval x b
      let unordered := u.isNan || v.isNan
      k.gpWrite d (b2w (!unordered && f u v)) (flagIf (u.isSnan || v.isSnan || (signalling && unordered)) flNV)) s

/-- Neither is below the other. -/
def Val.same (x y : Val) : Bool := !x.lt y && !y.lt x

/-- fA + fB (R50). -/
def execFadd (c : CoreId) (fmt rm : BitVec 3) (d a b : Reg) (s : State) : Host.Outcome State Fault Refusal :=
  fpBin 0x00 (fun _ r x y => x.add r y) c fmt rm d a b s

/-- fA - fB (R50). -/
def execFsub (c : CoreId) (fmt rm : BitVec 3) (d a b : Reg) (s : State) : Host.Outcome State Fault Refusal :=
  fpBin 0x01 (fun _ r x y => x.add r y.negate) c fmt rm d a b s

/-- fA times fB (R50). -/
def execFmul (c : CoreId) (fmt rm : BitVec 3) (d a b : Reg) (s : State) : Host.Outcome State Fault Refusal :=
  fpBin 0x02 (fun _ _ x y => x.mul y) c fmt rm d a b s

/-- fA divided by fB (R50). -/
def execFdiv (c : CoreId) (fmt rm : BitVec 3) (d a b : Reg) (s : State) : Host.Outcome State Fault Refusal :=
  fpBin 0x03 (fun f _ x y => Val.div f.width x y) c fmt rm d a b s

/-- Square root of fA (R50). -/
def execFsqrt (c : CoreId) (fmt rm : BitVec 3) (d a : Reg) (s : State) : Host.Outcome State Fault Refusal :=
  fpUn 0x04 (fun f _ x => Val.sqrt f.width x) c fmt rm d a s

/-- IEEE minimumNumber (R52). -/
def execFmin (c : CoreId) (fmt rm : BitVec 3) (d a b : Reg) (s : State) : Host.Outcome State Fault Refusal :=
  fpBin 0x05 (fun _ _ x y => Val.pick false true x y) c fmt rm d a b s

/-- IEEE maximumNumber (R52). -/
def execFmax (c : CoreId) (fmt rm : BitVec 3) (d a b : Reg) (s : State) : Host.Outcome State Fault Refusal :=
  fpBin 0x06 (fun _ _ x y => Val.pick true true x y) c fmt rm d a b s

/-- fA with the sign of fB; no flags. -/
def execFsgnj (c : CoreId) (fmt rm : BitVec 3) (d a b : Reg) (s : State) : Host.Outcome State Fault Refusal :=
  fpSign 0x07 (fun _ y => y) c fmt rm d a b s

/-- fA with the negated sign of fB; no flags. -/
def execFsgnjn (c : CoreId) (fmt rm : BitVec 3) (d a b : Reg) (s : State) : Host.Outcome State Fault Refusal :=
  fpSign 0x08 (fun _ y => !y) c fmt rm d a b s

/-- fA with the XOR of both signs; no flags. -/
def execFsgnjx (c : CoreId) (fmt rm : BitVec 3) (d a b : Reg) (s : State) : Host.Outcome State Fault Refusal :=
  fpSign 0x09 (fun x y => x != y) c fmt rm d a b s

/-- 1 if equal; quiet. -/
def execFeq (c : CoreId) (fmt rm : BitVec 3) (d a b : Reg) (s : State) : Host.Outcome State Fault Refusal :=
  fpCmp 0x0A false Val.same c fmt rm d a b s

/-- 1 if less; signalling. -/
def execFlt (c : CoreId) (fmt rm : BitVec 3) (d a b : Reg) (s : State) : Host.Outcome State Fault Refusal :=
  fpCmp 0x0B true Val.lt c fmt rm d a b s

/-- 1 if less or equal; signalling. -/
def execFle (c : CoreId) (fmt rm : BitVec 3) (d a b : Reg) (s : State) : Host.Outcome State Fault Refusal :=
  fpCmp 0x0C true (fun x y => !y.lt x) c fmt rm d a b s

/-- One-hot class of fA; no flags (FP-R table). DESIGN CHOICE: of the raw bits under FCTL.FTZC too, as the sign injections take theirs; R98
speaks of every subnormal input, R52 has these pass operand bits unchanged (log entry 153). -/
def execFclass (c : CoreId) (fmt rm : BitVec 3) (d a : Reg) (s : State) : Host.Outcome State Fault Refusal :=
  fpOp c (wordOf 0x0E d a 0 (fpFn 0x0D rm fmt)) fmt.toNat false rm always
    (fun k x _ => k.wg d (BitVec.ofNat 64 (x.classify (k.fbits x a)))) s

/-- IEEE remainder; illegal in strongroom mode (R278). -/
def execFrem (c : CoreId) (fmt rm : BitVec 3) (d a b : Reg) (s : State) : Host.Outcome State Fault Refusal :=
  fpOp c (wordOf 0x0E d a b (fpFn 0x0E rm fmt)) fmt.toNat false rm (fun k => !k.srm)
    (fun k x r => k.fpWrite x (k.fpCtl r false) d (Val.rem (k.fval x a) (k.fval x b))) s

/-- IEEE minimum, propagating NaN. -/
def execFmini (c : CoreId) (fmt rm : BitVec 3) (d a b : Reg) (s : State) : Host.Outcome State Fault Refusal :=
  fpBin 0x0F (fun _ _ x y => Val.pick false false x y) c fmt rm d a b s

/-- IEEE maximum, propagating NaN. -/
def execFmaxi (c : CoreId) (fmt rm : BitVec 3) (d a b : Reg) (s : State) : Host.Outcome State Fault Refusal :=
  fpBin 0x10 (fun _ _ x y => Val.pick true false x y) c fmt rm d a b s

/-- roundToIntegral in mode rm; inexact is not signalled. -/
def execFrint (c : CoreId) (fmt rm : BitVec 3) (d a : Reg) (s : State) : Host.Outcome State Fault Refusal :=
  fpUn 0x11 (fun _ r x => Val.rint r x) c fmt rm d a s

/-! ## FP-FMA -/

/-- One rounding of plus or minus (fA x fB), plus or minus fC (R52). -/
def fpFma (op : Nat) (negP negC : Bool) (c : CoreId) (fmt : BitVec 2) (rm : BitVec 3) (d a b e : Reg) (s : State) :
    Host.Outcome State Fault Refusal :=
  fpOp c (wordOf 0x0F d a b (BitVec.ofNat 12 (e.val * 128 + op * 32 + rm.toNat * 4 + fmt.toNat))) fmt.toNat false rm always
    (fun k x r =>
      let u := k.fval x a
      let z := k.fval x e
      k.fpWrite x (k.fpCtl r false) d (Val.fma r (if negP then u.negate else u) (k.fval x b) (if negC then z.negate else z))) s

/-- fA x fB + fC, rounded once. -/
def execFmadd (c : CoreId) (fmt : BitVec 2) (rm : BitVec 3) (d a b e : Reg) (s : State) : Host.Outcome State Fault Refusal :=
  fpFma 0 false false c fmt rm d a b e s

/-- fA x fB - fC, rounded once. -/
def execFmsub (c : CoreId) (fmt : BitVec 2) (rm : BitVec 3) (d a b e : Reg) (s : State) : Host.Outcome State Fault Refusal :=
  fpFma 1 false true c fmt rm d a b e s

/-- -(fA x fB) - fC, rounded once. -/
def execFnmadd (c : CoreId) (fmt : BitVec 2) (rm : BitVec 3) (d a b e : Reg) (s : State) : Host.Outcome State Fault Refusal :=
  fpFma 2 true true c fmt rm d a b e s

/-- -(fA x fB) + fC, rounded once. -/
def execFnmsub (c : CoreId) (fmt : BitVec 2) (rm : BitVec 3) (d a b e : Reg) (s : State) : Host.Outcome State Fault Refusal :=
  fpFma 3 true false c fmt rm d a b e s

/-! ## FP-CVT -/

/-- The word of a conversion. -/
def cvtWord (op : Nat) (rm fmt : BitVec 3) (d a : Reg) : BitVec 32 := wordOf 0x10 d a 0 (fpFn op rm fmt)

/-- binary32 to binary64. -/
def execFcvtDS (c : CoreId) (rm : BitVec 3) (d a : Reg) (s : State) : Host.Outcome State Fault Refusal :=
  fpOp c (cvtWord 0 rm 0 d a) 0 false rm always (fun k _ r => k.fpWrite fp64 (k.fpCtl r false) d (k.fval fp32 a, 0)) s

/-- binary64 to binary32; no overflow choice (R107). DEDUCED: rm 0b101 raises cause 0x01 here, as R50 allows it only to conversions that name it
(log entry 124). -/
def execFcvtSD (c : CoreId) (rm : BitVec 3) (d a : Reg) (s : State) : Host.Outcome State Fault Refusal :=
  fpOp c (cvtWord 0 rm 1 d a) 1 false rm always (fun k _ r => k.fpWrite fp32 (k.fpCtl r false) d (k.fval fp64 a, 0)) s

/-- To an integer of a range, into gD (R51). -/
def fpToInt (op : Nat) (lo hi : Int) (c : CoreId) (fmt rm : BitVec 3) (d a : Reg) (s : State) : Host.Outcome State Fault Refusal :=
  fpOp c (cvtWord op rm fmt d a) fmt.toNat false rm always
    (fun k x r => let (n, fl) := roundInt lo hi r (k.fval x a); k.gpWrite d (BitVec.ofInt 64 n) fl) s

/-- To a signed 64-bit integer. -/
def execFcvtGF (c : CoreId) (fmt rm : BitVec 3) (d a : Reg) (s : State) : Host.Outcome State Fault Refusal :=
  fpToInt 1 (-(2 ^ 63)) (2 ^ 63 - 1) c fmt rm d a s

/-- To an unsigned 64-bit integer. -/
def execFcvtGuF (c : CoreId) (fmt rm : BitVec 3) (d a : Reg) (s : State) : Host.Outcome State Fault Refusal :=
  fpToInt 2 0 (2 ^ 64 - 1) c fmt rm d a s

/-- From an integer in gA, into fD. -/
def fpOfInt (op : Nat) (f : Word → Int) (c : CoreId) (fmt rm : BitVec 3) (d a : Reg) (s : State) : Host.Outcome State Fault Refusal :=
  fpOp c (cvtWord op rm fmt d a) fmt.toNat false rm always
    (fun k x r => k.fpWrite x (k.fpCtl r false) d (.ofInt (f (k.rg a)), 0)) s

/-- From a signed 64-bit integer. -/
def execFcvtFG (c : CoreId) (fmt rm : BitVec 3) (d a : Reg) (s : State) : Host.Outcome State Fault Refusal :=
  fpOfInt 3 (fun x => x.toInt) c fmt rm d a s

/-- From an unsigned 64-bit integer. -/
def execFcvtFGu (c : CoreId) (fmt rm : BitVec 3) (d a : Reg) (s : State) : Host.Outcome State Fault Refusal :=
  fpOfInt 4 (fun x => (x.toNat : Int)) c fmt rm d a s

/-- Bits of fA to gD; with fmt 1 the low half, sign-extended; no flags (R37). -/
def execFmvGF (c : CoreId) (fmt rm : BitVec 3) (d a : Reg) (s : State) : Host.Outcome State Fault Refusal :=
  fpOp c (cvtWord 5 rm fmt d a) fmt.toNat false rm always
    (fun k _ _ => k.wg d (if fmt = 0 then k.rf a else sext32 (lo32 (k.rf a)))) s

/-- Bits of gA to fD; with fmt 1 the low half, zero-extended; no flags (R37). -/
def execFmvFG (c : CoreId) (fmt rm : BitVec 3) (d a : Reg) (s : State) : Host.Outcome State Fault Refusal :=
  fpOp c (cvtWord 6 rm fmt d a) fmt.toNat false rm always
    (fun k _ _ => k.wf d (if fmt = 0 then k.rg a else (lo32 (k.rg a)).setWidth 64)) s

/-- To a short format in gD, under an overflow choice; round-to-odd for float targets only (R101, R110). -/
def fpToShort (op lo hi : Nat) (nonsat : Bool) (c : CoreId) (code : BitVec 4) (fmt rm : BitVec 3) (d a : Reg) (s : State) :
    Host.Outcome State Fault Refusal :=
  let n := code.toNat
  fpOp c (cvtWord ((op + n) % 64) rm fmt d a) fmt.toNat (decide (n ≤ 8)) rm (fun _ => lo ≤ n && n ≤ hi)
    (fun k x r => let (v, fl) := roundElem n (k.fpCtl r nonsat) (k.fval x a); k.gpWrite d (BitVec.ofNat 64 v) fl) s

/-- To a short format, SATFINITE. -/
def execFcvtXF (c : CoreId) (code : BitVec 4) (fmt rm : BitVec 3) (d a : Reg) (s : State) : Host.Outcome State Fault Refusal :=
  fpToShort 0x20 2 11 false c code fmt rm d a s

/-- To BF16, FP16, E4M3 or E5M2, NONSAT. -/
def execFcvtXnF (c : CoreId) (code : BitVec 4) (fmt rm : BitVec 3) (d a : Reg) (s : State) : Host.Outcome State Fault Refusal :=
  fpToShort 0x2A 2 5 true c code fmt rm d a s

/-- A conversion that ignores rm, which must be 0 (R110). -/
def rmZero (rm : BitVec 3) (_ : Core) : Bool := rm = 0

/-- A short format in gA, widened exactly into fD (R110). -/
def execFcvtFX (c : CoreId) (code : BitVec 4) (fmt rm : BitVec 3) (d a : Reg) (s : State) : Host.Outcome State Fault Refusal :=
  let n := code.toNat
  fpOp c (cvtWord ((0x30 + n) % 64) rm fmt d a) fmt.toNat false rm (fun k => rmZero rm k && 2 ≤ n && n ≤ 11)
    (fun k x r => k.fpWrite x (k.fpCtl r false) d (decodeElem n k.fpFtz ((k.rg a).toNat % 2 ^ storageBits n), 0)) s

/-- An E8M0 scale in gA, exactly, into fD (R85, R110). FTZC has no effect on the scale that is read (R99). DEDUCED: X = 0 gives 2^-127, a subnormal of
binary32, and a subnormal result is flushed under FCTL.FTZC, with UF and NX (R98, R112; log entry 37). -/
def execFcvtFE8 (c : CoreId) (fmt rm : BitVec 3) (d a : Reg) (s : State) : Host.Outcome State Fault Refusal :=
  fpOp c (cvtWord 0x3C rm fmt d a) fmt.toNat false rm (rmZero rm)
    (fun k x r => k.fpWrite x (k.fpCtl r false) d (ofE8 ((k.rg a).toNat % 256), 0)) s

/-- fA to an E8M0 scale in gD (R111). -/
def execFcvtE8F (c : CoreId) (fmt rm : BitVec 3) (d a : Reg) (s : State) : Host.Outcome State Fault Refusal :=
  fpOp c (cvtWord 0x3D rm fmt d a) fmt.toNat false rm (rmZero rm)
    (fun k x _ => let (v, fl) := toE8 (k.fval x a); k.gpWrite d (BitVec.ofNat 64 v) fl) s

end Machine
end Sys2Proof
end

