-- ==== Sys2Proof/Machine/Vector.lean ====
section
/-! DEFINITION. Vector instructions, classes 0x18 to 0x1A, in either mode (R223 to R251). -/

namespace Sys2Proof
namespace Machine

/-! ## The shape of a vector instruction (R224 to R232, R243) -/

/-- The checks before any decode check: strongroom mode, then STATUS.VEN (R232). A gated unit that is enabled gets work, and ungates (R517). -/
def vecGuard (c : CoreId) (w : BitVec 32) (ok : Core → Bool) (body : M Next) : State → Host.Outcome State Fault Refusal :=
  instr c w false do
    let s ← get
    let k := s.core c
    if k.srm then illegal w
    else if !k.ven then raise 0x0A 1 none
    else if !ok k then illegal w
    else do
      modify fun s => s.modCore c fun k => { k with vuGated := k.vuGated && !k.vuOn }
      body

/-- A vector instruction completes: VRESUME is 0 (R243). -/
def vecDone (c : CoreId) : M Next := do
  modify fun s => s.modCore c fun k => { k with vresume := 0 }
  pure .seq

/-- A vector instruction that is never interrupted part way (R245). -/
def vecOp (c : CoreId) (w : BitVec 32) (ok : Core → Bool) (body : M Unit) : State → Host.Outcome State Fault Refusal :=
  vecGuard c w ok do
    body
    vecDone c

/-- A vector instruction whose whole effect is on its core's registers. -/
def vecReg (c : CoreId) (w : BitVec 32) (ok : Core → Bool) (f : Core → Core) (s : State) : Host.Outcome State Fault Refusal :=
  vecOp c w ok (modify fun s => s.modCore c f) s

/-- What an instruction with a scalar result writes: nothing with VCOUNT at 0 (R227). -/
def Core.counted (k : Core) (f : Core → Core) : Core := if k.vcnt = 0 then k else f k

/-- A group field holds a multiple of the group's size (R224). -/
def Core.grouped (k : Core) (r : Reg) : Bool := r.val % k.grp = 0
def isMask (r : Reg) : Bool := r.val < 16
def maskOf (r : Reg) : Fin 16 := Fin.ofNat 16 r.val
/-- Two ranges of registers share one. -/
def overlaps (a na b nb : Nat) : Bool := a < b + nb && b < a + na

/-- The active elements from an element on (R227). -/
def Core.active (k : Core) (mk : Fin 16) (start : Nat) : List Nat :=
  (List.range k.vcnt).filter fun e => start ≤ e && (mk = 0 || k.mbit mk e)
/-- Those of an element-wise instruction, which begins at VRESUME (R243). -/
def Core.elems (k : Core) (mk : Fin 16) : List Nat := k.active mk k.vresume.toNat

/-- Flags into VSTAT (R238). -/
def Core.vflags (k : Core) (fl : Flags) : Core := { k with vstat := k.vstat ||| fl.setWidth 64 }

/-- Write elements of width w of the group at vD, each from the old registers, and gather the flags. -/
def Core.vwrite (k : Core) (d w : Nat) (es : List Nat) (f : Nat → Nat × Flags) : Core :=
  let r := es.foldl (fun (acc : Core × Flags) e => (acc.1.setVelem d w e (f e).1, acc.2 ||| (f e).2)) (k, 0)
  r.1.vflags r.2

/-- Write mask bits. -/
def Core.mwrite (k : Core) (d : Fin 16) (es : List Nat) (f : Nat → Bool × Flags) : Core :=
  let r := es.foldl (fun (acc : Core × Flags) e => (acc.1.setMbit d e (f e).1, acc.2 ||| (f e).2)) (k, 0)
  r.1.vflags r.2

/-- Signed value of w bits, and the bits of an integer. -/
def signedOf (w x : Nat) : Int := if 2 * x < 2 ^ w then x else (x : Int) - 2 ^ w
def bitsOf (w : Nat) (x : Int) : Nat := (x % 2 ^ w).toNat

/-- The floating-point format of SEW (R234). -/
def Core.vfmt (k : Core) : Fmt := if k.sewLog = 3 then fp64 else fp32
def Core.vIsFp (k : Core) : Bool := 2 ≤ k.sewLog
def Core.vctl (k : Core) (rm : Rm) : RoundCtl := ⟨rm, false, k.fpFtz, false⟩
/-- FCTL.RM, which no instruction can set to a code that names no mode (R54). -/
def Core.vrm (k : Core) : Rm := (k.rmOf false 7).getD .rne

/-- Words of the three classes. -/
def vecAWord (d a b : Reg) (mk : Fin 16) (kind : BitVec 2) (op : Nat) : BitVec 32 :=
  wordOf 0x18 d a b (BitVec.ofNat 12 (mk.val * 256 + kind.toNat * 64 + op))
def vecMWord (d a b : Reg) (mk : Fin 16) (form : Nat) (iw : BitVec 2) : BitVec 32 :=
  wordOf 0x19 d a b (BitVec.ofNat 12 (mk.val * 256 + form * 16 + iw.toNat * 4))
def vecCWord (d a b : Reg) (mk : Fin 16) (rm : BitVec 3) (op : Nat) : BitVec 32 :=
  wordOf 0x1A d a b (BitVec.ofNat 12 (mk.val * 256 + rm.toNat * 32 + op))

/-! ## VEC-A -/

/-- Operand B of element e: a vector, or a broadcast register. -/
def Core.operandB (k : Core) (kind : BitVec 2) (b : Reg) (e : Nat) : Nat :=
  match kind.toNat with
  | 0 => k.velem b.val k.sew e
  | 1 => (k.rg b).toNat % 2 ^ k.sew
  | _ => (k.rf b).toNat % 2 ^ k.sew

/-- Decode checks of VEC-A: kind 3 is reserved, and the fields that name groups are aligned. -/
def vecAOk (fp toMask : Bool) (kind : BitVec 2) (d a b : Reg) (k : Core) : Bool :=
  kind ≠ 3 && (!fp || k.vIsFp) && (if toMask then isMask d else k.grouped d) && k.grouped a && (kind ≠ 0 || k.grouped b)

/-- An element-wise result from A, B and the old D. -/
def vecElem (op : Nat) (fp : Bool) (f : Core → Nat → Nat → Nat → Nat × Flags) (c : CoreId) (kind : BitVec 2) (d a b : Reg) (mk : Fin 16)
    (s : State) : Host.Outcome State Fault Refusal :=
  vecReg c (vecAWord d a b mk kind op) (vecAOk fp false kind d a b) (fun k =>
    k.vwrite d.val k.sew (k.elems mk) fun e => f k (k.velem a.val k.sew e) (k.operandB kind b e) (k.velem d.val k.sew e)) s

/-- A comparison into a mask. -/
def vecCmp (op : Nat) (fp : Bool) (f : Core → Nat → Nat → Bool × Flags) (c : CoreId) (kind : BitVec 2) (d a b : Reg) (mk : Fin 16)
    (s : State) : Host.Outcome State Fault Refusal :=
  vecReg c (vecAWord d a b mk kind op) (vecAOk fp true kind d a b) (fun k =>
    k.mwrite (maskOf d) (k.elems mk) fun e => f k (k.velem a.val k.sew e) (k.operandB kind b e)) s

/-- Integer results of SEW bits (R233): w, A, B. -/
def vecInt (op : Nat) (f : Nat → Nat → Nat → Nat) (c : CoreId) (kind : BitVec 2) (d a b : Reg) (mk : Fin 16) (s : State) :
    Host.Outcome State Fault Refusal :=
  vecElem op false (fun k x y _ => (f k.sew x y, 0)) c kind d a b mk s

def vecICmp (op : Nat) (f : Nat → Nat → Nat → Bool) (c : CoreId) (kind : BitVec 2) (d a b : Reg) (mk : Fin 16) (s : State) :
    Host.Outcome State Fault Refusal :=
  vecCmp op false (fun k x y => (f k.sew x y, 0)) c kind d a b mk s

/-- Floating-point results, rounded once in FCTL.RM (R234): format, A, B, D. -/
def vecFp (op : Nat) (f : Fmt → Rm → Val → Val → Val → Val × Flags) (c : CoreId) (kind : BitVec 2) (d a b : Reg) (mk : Fin 16)
    (s : State) : Host.Outcome State Fault Refusal :=
  vecElem op true (fun k x y z =>
    let g := k.vfmt
    let v (n : Nat) : Val := g.decode k.fpFtz n
    let r := f g k.vrm (v x) (v y) (v z)
    let (code, fl) := g.round (k.vctl k.vrm) r.1
    (code, fl ||| r.2)) c kind d a b mk s

/-- Floating-point comparisons, quiet or signalling. -/
def vecFCmp (op : Nat) (signalling : Bool) (f : Val → Val → Bool) (c : CoreId) (kind : BitVec 2) (d a b : Reg) (mk : Fin 16) (s : State) :
    Host.Outcome State Fault Refusal :=
  vecCmp op true (fun k x y =>
    let u := k.vfmt.decode k.fpFtz x
    let v := k.vfmt.decode k.fpFtz y
    let un := u.isNan || v.isNan
    (!un && f u v, flagIf (u.isSnan || v.isSnan || (signalling && un)) flNV)) c kind d a b mk s

/-- A + B. -/
def execVadd (c : CoreId) (kind : BitVec 2) (d a b : Reg) (mk : Fin 16) (s : State) : Host.Outcome State Fault Refusal :=
  vecInt 0x00 (fun _ x y => x + y) c kind d a b mk s

/-- A - B. -/
def execVsub (c : CoreId) (kind : BitVec 2) (d a b : Reg) (mk : Fin 16) (s : State) : Host.Outcome State Fault Refusal :=
  vecInt 0x01 (fun w x y => x + 2 ^ w - y) c kind d a b mk s

/-- A and B. -/
def execVand (c : CoreId) (kind : BitVec 2) (d a b : Reg) (mk : Fin 16) (s : State) : Host.Outcome State Fault Refusal :=
  vecInt 0x02 (fun _ x y => x &&& y) c kind d a b mk s

/-- A or B. -/
def execVor (c : CoreId) (kind : BitVec 2) (d a b : Reg) (mk : Fin 16) (s : State) : Host.Outcome State Fault Refusal :=
  vecInt 0x03 (fun _ x y => x ||| y) c kind d a b mk s

/-- A xor B. -/
def execVxor (c : CoreId) (kind : BitVec 2) (d a b : Reg) (mk : Fin 16) (s : State) : Host.Outcome State Fault Refusal :=
  vecInt 0x04 (fun _ x y => x ^^^ y) c kind d a b mk s

/-- A shifted left by the low log2 SEW bits of B. -/
def execVsll (c : CoreId) (kind : BitVec 2) (d a b : Reg) (mk : Fin 16) (s : State) : Host.Outcome State Fault Refusal :=
  vecInt 0x05 (fun w x y => x * 2 ^ (y % w)) c kind d a b mk s

/-- A shifted right, zero fill. -/
def execVsrl (c : CoreId) (kind : BitVec 2) (d a b : Reg) (mk : Fin 16) (s : State) : Host.Outcome State Fault Refusal :=
  vecInt 0x06 (fun w x y => x / 2 ^ (y % w)) c kind d a b mk s

/-- A shifted right, sign fill. -/
def execVsra (c : CoreId) (kind : BitVec 2) (d a b : Reg) (mk : Fin 16) (s : State) : Host.Outcome State Fault Refusal :=
  vecInt 0x07 (fun w x y => bitsOf w (signedOf w x / 2 ^ (y % w))) c kind d a b mk s

/-- Signed minimum. -/
def execVmin (c : CoreId) (kind : BitVec 2) (d a b : Reg) (mk : Fin 16) (s : State) : Host.Outcome State Fault Refusal :=
  vecInt 0x08 (fun w x y => if signedOf w x < signedOf w y then x else y) c kind d a b mk s

/-- Signed maximum. -/
def execVmax (c : CoreId) (kind : BitVec 2) (d a b : Reg) (mk : Fin 16) (s : State) : Host.Outcome State Fault Refusal :=
  vecInt 0x09 (fun w x y => if signedOf w x < signedOf w y then y else x) c kind d a b mk s

/-- Unsigned minimum. -/
def execVminu (c : CoreId) (kind : BitVec 2) (d a b : Reg) (mk : Fin 16) (s : State) : Host.Outcome State Fault Refusal :=
  vecInt 0x0A (fun _ x y => Nat.min x y) c kind d a b mk s

/-- Unsigned maximum. -/
def execVmaxu (c : CoreId) (kind : BitVec 2) (d a b : Reg) (mk : Fin 16) (s : State) : Host.Outcome State Fault Refusal :=
  vecInt 0x0B (fun _ x y => Nat.max x y) c kind d a b mk s

/-- Low half of A x B. -/
def execVmul (c : CoreId) (kind : BitVec 2) (d a b : Reg) (mk : Fin 16) (s : State) : Host.Outcome State Fault Refusal :=
  vecInt 0x0C (fun _ x y => x * y) c kind d a b mk s

/-- Signed high half of A x B. -/
def execVmulh (c : CoreId) (kind : BitVec 2) (d a b : Reg) (mk : Fin 16) (s : State) : Host.Outcome State Fault Refusal :=
  vecInt 0x0D (fun w x y => bitsOf w (signedOf w x * signedOf w y / 2 ^ w)) c kind d a b mk s

/-- Unsigned high half of A x B. -/
def execVmulhu (c : CoreId) (kind : BitVec 2) (d a b : Reg) (mk : Fin 16) (s : State) : Host.Outcome State Fault Refusal :=
  vecInt 0x0E (fun w x y => x * y / 2 ^ w) c kind d a b mk s

/-- A = B into mD. -/
def execVcmpeq (c : CoreId) (kind : BitVec 2) (d a b : Reg) (mk : Fin 16) (s : State) : Host.Outcome State Fault Refusal :=
  vecICmp 0x10 (fun _ x y => x = y) c kind d a b mk s

/-- A not equal to B into mD. -/
def execVcmpne (c : CoreId) (kind : BitVec 2) (d a b : Reg) (mk : Fin 16) (s : State) : Host.Outcome State Fault Refusal :=
  vecICmp 0x11 (fun _ x y => x ≠ y) c kind d a b mk s

/-- Signed A < B into mD. -/
def execVcmplt (c : CoreId) (kind : BitVec 2) (d a b : Reg) (mk : Fin 16) (s : State) : Host.Outcome State Fault Refusal :=
  vecICmp 0x12 (fun w x y => signedOf w x < signedOf w y) c kind d a b mk s

/-- Signed A <= B into mD. -/
def execVcmple (c : CoreId) (kind : BitVec 2) (d a b : Reg) (mk : Fin 16) (s : State) : Host.Outcome State Fault Refusal :=
  vecICmp 0x13 (fun w x y => signedOf w x ≤ signedOf w y) c kind d a b mk s

/-- Unsigned A < B into mD. -/
def execVcmpltu (c : CoreId) (kind : BitVec 2) (d a b : Reg) (mk : Fin 16) (s : State) : Host.Outcome State Fault Refusal :=
  vecICmp 0x14 (fun _ x y => x < y) c kind d a b mk s

/-- Unsigned A <= B into mD. -/
def execVcmpleu (c : CoreId) (kind : BitVec 2) (d a b : Reg) (mk : Fin 16) (s : State) : Host.Outcome State Fault Refusal :=
  vecICmp 0x15 (fun _ x y => x ≤ y) c kind d a b mk s

/-- A + B. -/
def execVfadd (c : CoreId) (kind : BitVec 2) (d a b : Reg) (mk : Fin 16) (s : State) : Host.Outcome State Fault Refusal :=
  vecFp 0x20 (fun _ r x y _ => x.add r y) c kind d a b mk s

/-- A - B. -/
def execVfsub (c : CoreId) (kind : BitVec 2) (d a b : Reg) (mk : Fin 16) (s : State) : Host.Outcome State Fault Refusal :=
  vecFp 0x21 (fun _ r x y _ => x.add r y.negate) c kind d a b mk s

/-- A x B. -/
def execVfmul (c : CoreId) (kind : BitVec 2) (d a b : Reg) (mk : Fin 16) (s : State) : Host.Outcome State Fault Refusal :=
  vecFp 0x22 (fun _ _ x y _ => x.mul y) c kind d a b mk s

/-- A / B. -/
def execVfdiv (c : CoreId) (kind : BitVec 2) (d a b : Reg) (mk : Fin 16) (s : State) : Host.Outcome State Fault Refusal :=
  vecFp 0x23 (fun f _ x y _ => Val.div f.width x y) c kind d a b mk s

/-- Square root of A; the B field and the kind are 0. -/
def execVfsqrt (c : CoreId) (kind : BitVec 2) (d a b : Reg) (mk : Fin 16) (s : State) : Host.Outcome State Fault Refusal :=
  vecReg c (vecAWord d a b mk kind 0x24) (fun k => kind = 0 && b = 0 && k.vIsFp && k.grouped d && k.grouped a) (fun k =>
    k.vwrite d.val k.sew (k.elems mk) fun e =>
      let r := Val.sqrt k.vfmt.width (k.vfmt.decode k.fpFtz (k.velem a.val k.sew e))
      let (code, fl) := k.vfmt.round (k.vctl k.vrm) r.1
      (code, fl ||| r.2)) s

/-- minimumNumber. -/
def execVfmin (c : CoreId) (kind : BitVec 2) (d a b : Reg) (mk : Fin 16) (s : State) : Host.Outcome State Fault Refusal :=
  vecFp 0x25 (fun _ _ x y _ => Val.pick false true x y) c kind d a b mk s

/-- maximumNumber. -/
def execVfmax (c : CoreId) (kind : BitVec 2) (d a b : Reg) (mk : Fin 16) (s : State) : Host.Outcome State Fault Refusal :=
  vecFp 0x26 (fun _ _ x y _ => Val.pick true true x y) c kind d a b mk s

/-- A x B + D, one rounding. -/
def execVfmadd (c : CoreId) (kind : BitVec 2) (d a b : Reg) (mk : Fin 16) (s : State) : Host.Outcome State Fault Refusal :=
  vecFp 0x27 (fun _ r x y z => Val.fma r x y z) c kind d a b mk s

/-- -(A x B) + D, one rounding. -/
def execVfnmsub (c : CoreId) (kind : BitVec 2) (d a b : Reg) (mk : Fin 16) (s : State) : Host.Outcome State Fault Refusal :=
  vecFp 0x28 (fun _ r x y z => Val.fma r x.negate y z) c kind d a b mk s

/-- A with the sign of B; no flags. -/
def execVfsgnj (c : CoreId) (kind : BitVec 2) (d a b : Reg) (mk : Fin 16) (s : State) : Host.Outcome State Fault Refusal :=
  vecElem 0x29 true (fun k x y _ => (x % 2 ^ (k.sew - 1) + y / 2 ^ (k.sew - 1) * 2 ^ (k.sew - 1), 0)) c kind d a b mk s

/-- Quiet equal into mD. -/
def execVfeq (c : CoreId) (kind : BitVec 2) (d a b : Reg) (mk : Fin 16) (s : State) : Host.Outcome State Fault Refusal :=
  vecFCmp 0x2A false Val.same c kind d a b mk s

/-- Signalling less into mD. -/
def execVflt (c : CoreId) (kind : BitVec 2) (d a b : Reg) (mk : Fin 16) (s : State) : Host.Outcome State Fault Refusal :=
  vecFCmp 0x2B true Val.lt c kind d a b mk s

/-- Signalling less or equal into mD. -/
def execVfle (c : CoreId) (kind : BitVec 2) (d a b : Reg) (mk : Fin 16) (s : State) : Host.Outcome State Fault Refusal :=
  vecFCmp 0x2C true (fun x y => !y.lt x) c kind d a b mk s

/-! ## VEC-C: count, conversions (R226, R230, R235) -/

/-- VSHAPE and VCOUNT in one step; gD := VCOUNT. -/
def execVsetl (c : CoreId) (d a : Reg) (shape : BitVec 4) (s : State) : Host.Outcome State Fault Refusal :=
  vecReg c (vecCWord d a 0 shape.toFin 0 0x00) (fun _ => true) (fun k =>
    let sh : Word := shape.setWidth 64
    let n := BitVec.ofNat 64 (Nat.min (k.rg a).toNat (vlmaxOf k.vlen sh))
    { k with vshape := sh, vcount := n }.wg d n) s

/-- Registers of a narrow group (R235). -/
def Core.narrowRegs (k : Core) (code : Nat) : Nat := Nat.max 1 (k.grp * storageBits code / k.sew)

/-- Codes, groups and overlap of `vcvt.n` and `vcvt.w`. -/
def Core.cvtOk (k : Core) (code : Nat) (narrow wide : Reg) : Bool :=
  let n := k.narrowRegs code
  k.vIsFp && ((2 ≤ code && code ≤ 11) || (code = 1 && k.sewLog = 3)) && k.grouped wide && narrow.val % n = 0 &&
    (narrow = wide || !overlaps narrow.val n wide.val k.grp)

/-- Floats of SEW to a short format, or to FP32. -/
def execVcvtN (c : CoreId) (d a : Reg) (ovsat : Bool) (code : BitVec 4) (rm : BitVec 3) (mk : Fin 16) (s : State) :
    Host.Outcome State Fault Refusal :=
  let t := code.toNat
  let b : Reg := Fin.ofNat 32 ((if ovsat then 16 else 0) + t)
  vecReg c (vecCWord d a b mk rm 0x01) (fun k =>
      k.cvtOk t d a && !(ovsat && (t = 1 || 9 ≤ t)) && (k.rmOf (decide (t ≤ 8)) rm).isSome) (fun k =>
    let r := (k.rmOf (decide (t ≤ 8)) rm).getD .rne
    k.vwrite d.val (storageBits t) (k.elems mk) fun e =>
      roundElem t ⟨r, ovsat, k.fpFtz, false⟩ (k.vfmt.decode k.fpFtz (k.velem a.val k.sew e))) s

/-- A short format, or FP32, exactly to floats of SEW. -/
def execVcvtW (c : CoreId) (d a : Reg) (code : BitVec 4) (rm : BitVec 3) (mk : Fin 16) (s : State) : Host.Outcome State Fault Refusal :=
  let t := code.toNat
  vecReg c (vecCWord d a (Fin.ofNat 32 t) mk rm 0x02) (fun k => k.cvtOk t a d && rm = 0) (fun k =>
    k.vwrite d.val k.sew (k.elems mk) fun e =>
      k.vfmt.round (k.vctl .rne) (decodeElem t k.fpFtz (k.velem a.val (storageBits t) e))) s

/-- Float to signed integer of SEW (R51). -/
def execVcvtIF (c : CoreId) (d a : Reg) (rm : BitVec 3) (mk : Fin 16) (s : State) : Host.Outcome State Fault Refusal :=
  vecReg c (vecCWord d a 0 mk rm 0x03) (fun k => k.vIsFp && k.grouped d && k.grouped a && (k.rmOf false rm).isSome) (fun k =>
    k.vwrite d.val k.sew (k.elems mk) fun e =>
      let lim : Int := 2 ^ (k.sew - 1)
      let (n, fl) := roundInt (-lim) (lim - 1) ((k.rmOf false rm).getD .rne) (k.vfmt.decode k.fpFtz (k.velem a.val k.sew e))
      (bitsOf k.sew n, fl)) s

/-- Signed integer of SEW to float. -/
def execVcvtFI (c : CoreId) (d a : Reg) (rm : BitVec 3) (mk : Fin 16) (s : State) : Host.Outcome State Fault Refusal :=
  vecReg c (vecCWord d a 0 mk rm 0x04) (fun k => k.vIsFp && k.grouped d && k.grouped a && (k.rmOf false rm).isSome) (fun k =>
    k.vwrite d.val k.sew (k.elems mk) fun e =>
      k.vfmt.round (k.vctl ((k.rmOf false rm).getD .rne)) (.ofInt (signedOf k.sew (k.velem a.val k.sew e)))) s

/-! ## Reductions (R236) -/

/-- One level of a reduction tree over positions that hold a value or are empty. -/
def reduceLevel (f : Nat → Nat → Nat × Flags) : List (Option Nat) → List (Option Nat) × Flags
  | some x :: some y :: t =>
    let (z, fl) := f x y
    let (zs, gl) := reduceLevel f t
    (some z :: zs, fl ||| gl)
  | some x :: none :: t => let (zs, gl) := reduceLevel f t; (some x :: zs, gl)
  | none :: y :: t => let (zs, gl) := reduceLevel f t; (y :: zs, gl)
  | xs => (xs, 0)

/-- A balanced tree over the positions, with a level to spare for each of them. -/
def reduceTree (f : Nat → Nat → Nat × Flags) : Nat → List (Option Nat) → Option Nat × Flags
  | 0, xs => (xs.headD none, 0)
  | n + 1, xs =>
    if xs.length ≤ 1 then (xs.headD none, 0)
    else
      let (ys, fl) := reduceLevel f xs
      let (r, gl) := reduceTree f n ys
      (r, fl ||| gl)

/-- B[0] combined with the tree of the active elements, into element 0 of vD; nothing is written with VCOUNT at 0. An odd last
position is paired with an empty one, as the positions up to the power of two are empty. -/
def Core.reduce (k : Core) (d a b : Reg) (mk : Fin 16) (f : Nat → Nat → Nat × Flags) : Core :=
  if k.vcnt = 0 then k
  else
    let act := k.active mk 0
    let pos := (List.range k.vcnt).map fun e => if act.contains e then some (k.velem a.val k.sew e) else none
    let (t, fl) := reduceTree f k.vcnt pos
    let b0 := k.velem b.val k.sew 0
    match t with
    | none => k.setVelem d.val k.sew 0 b0
    | some x => let (r, gl) := f b0 x; (k.setVelem d.val k.sew 0 r).vflags (fl ||| gl)

def vecReduce (op : Nat) (fp : Bool) (rm : BitVec 3) (rmOk : Core → Bool) (f : Core → Nat → Nat → Nat × Flags) (c : CoreId)
    (d a b : Reg) (mk : Fin 16) (s : State) : Host.Outcome State Fault Refusal :=
  vecReg c (vecCWord d a b mk rm op) (fun k => (!fp || k.vIsFp) && rmOk k && k.grouped d && k.grouped a && k.grouped b)
    (fun k => k.reduce d a b mk (f k)) s

/-- B[0] plus the active elements, wrapping. -/
def execVredsum (c : CoreId) (d a b : Reg) (mk : Fin 16) (s : State) : Host.Outcome State Fault Refusal :=
  vecReduce 0x08 false 0 always (fun k x y => ((x + y) % 2 ^ k.sew, 0)) c d a b mk s

/-- A tree of rounded sums; an exact zero follows R182. -/
def execVfredsum (c : CoreId) (d a b : Reg) (rm : BitVec 3) (mk : Fin 16) (s : State) : Host.Outcome State Fault Refusal :=
  vecReduce 0x09 true rm (fun k => (k.rmOf false rm).isSome) (fun k x y =>
    let v := (k.vfmt.decode k.fpFtz x).add .rne (k.vfmt.decode k.fpFtz y)
    let (code, fl) := k.vfmt.round (k.vctl ((k.rmOf false rm).getD .rne)) v.1
    (code, fl ||| v.2)) c d a b mk s

/-- Signed minimum of B[0] and the active elements. -/
def execVredmin (c : CoreId) (d a b : Reg) (mk : Fin 16) (s : State) : Host.Outcome State Fault Refusal :=
  vecReduce 0x0A false 0 always (fun k x y => (if signedOf k.sew x < signedOf k.sew y then x else y, 0)) c d a b mk s

/-- Signed maximum. -/
def execVredmax (c : CoreId) (d a b : Reg) (mk : Fin 16) (s : State) : Host.Outcome State Fault Refusal :=
  vecReduce 0x0B false 0 always (fun k x y => (if signedOf k.sew x < signedOf k.sew y then y else x, 0)) c d a b mk s

/-- A tree of minimumNumber or maximumNumber. -/
def fpPickCode (max : Bool) (k : Core) (x y : Nat) : Nat × Flags :=
  let v := Val.pick max true (k.vfmt.decode k.fpFtz x) (k.vfmt.decode k.fpFtz y)
  let (code, fl) := k.vfmt.round (k.vctl .rne) v.1
  (code, fl ||| v.2)

def execVfredmin (c : CoreId) (d a b : Reg) (mk : Fin 16) (s : State) : Host.Outcome State Fault Refusal :=
  vecReduce 0x0C true 0 always (fpPickCode false) c d a b mk s

def execVfredmax (c : CoreId) (d a b : Reg) (mk : Fin 16) (s : State) : Host.Outcome State Fault Refusal :=
  vecReduce 0x0D true 0 always (fpPickCode true) c d a b mk s

/-! ## Moves and permutations (R237) -/

/-- Broadcast of gA to the active elements. -/
def execVmvVG (c : CoreId) (d a : Reg) (mk : Fin 16) (s : State) : Host.Outcome State Fault Refusal :=
  vecReg c (vecCWord d a 0 mk 0 0x10) (fun k => k.grouped d) (fun k =>
    k.vwrite d.val k.sew (k.elems mk) fun _ => ((k.rg a).toNat, 0)) s

/-- Broadcast of fA. -/
def execVmvVF (c : CoreId) (d a : Reg) (mk : Fin 16) (s : State) : Host.Outcome State Fault Refusal :=
  vecReg c (vecCWord d a 0 mk 0 0x12) (fun k => k.grouped d) (fun k =>
    k.vwrite d.val k.sew (k.elems mk) fun _ => ((k.rf a).toNat, 0)) s

/-- Each active element's index. -/
def execVid (c : CoreId) (d : Reg) (mk : Fin 16) (s : State) : Host.Outcome State Fault Refusal :=
  vecReg c (vecCWord d 0 0 mk 0 0x1E) (fun k => k.grouped d) (fun k => k.vwrite d.val k.sew (k.elems mk) fun e => (e, 0)) s

/-- Element i of a group, or 0 from VLMAX on. -/
def Core.velemAt (k : Core) (a : Reg) (i : Nat) : Nat := if i < k.vlmax then k.velem a.val k.sew i else 0

/-- gD := A[gB], sign-extended. -/
def execVmvGV (c : CoreId) (d a b : Reg) (s : State) : Host.Outcome State Fault Refusal :=
  vecReg c (vecCWord d a b 0 0 0x11) (fun k => k.grouped a) (fun k =>
    k.counted fun k => k.wg d (BitVec.ofInt 64 (signedOf k.sew (k.velemAt a (k.rg b).toNat)))) s

/-- fD := A[gB], zero-extended. -/
def execVmvFV (c : CoreId) (d a b : Reg) (s : State) : Host.Outcome State Fault Refusal :=
  vecReg c (vecCWord d a b 0 0 0x13) (fun k => k.grouped a) (fun k =>
    k.counted fun k => k.wf d (BitVec.ofNat 64 (k.velemAt a (k.rg b).toNat))) s

/-- D does not overlap a source group. -/
def Core.apart (k : Core) (d a : Reg) : Bool := k.grouped d && k.grouped a && !overlaps d.val k.grp a.val k.grp

/-- D[e] := A[e + gB]. -/
def execVslidedn (c : CoreId) (d a b : Reg) (mk : Fin 16) (s : State) : Host.Outcome State Fault Refusal :=
  vecReg c (vecCWord d a b mk 0 0x14) (fun k => k.apart d a) (fun k =>
    k.vwrite d.val k.sew (k.active mk 0) fun e => (k.velemAt a (e + (k.rg b).toNat), 0)) s

/-- D[e] := A[e - gB] from element gB on. -/
def execVslideup (c : CoreId) (d a b : Reg) (mk : Fin 16) (s : State) : Host.Outcome State Fault Refusal :=
  vecReg c (vecCWord d a b mk 0 0x15) (fun k => k.apart d a) (fun k =>
    let n := (k.rg b).toNat
    k.vwrite d.val k.sew ((k.active mk 0).filter fun e => n ≤ e) fun e => (k.velem a.val k.sew (e - n), 0)) s

/-- D[e] := A[B[e]]. -/
def execVperm (c : CoreId) (d a b : Reg) (mk : Fin 16) (s : State) : Host.Outcome State Fault Refusal :=
  vecReg c (vecCWord d a b mk 0 0x16) (fun k => k.apart d a && k.apart d b) (fun k =>
    k.vwrite d.val k.sew (k.active mk 0) fun e => (k.velemAt a (k.velem b.val k.sew e), 0)) s

/-- The elements that mB selects, packed. -/
def execVcompress (c : CoreId) (d a : Reg) (mb : Fin 16) (s : State) : Host.Outcome State Fault Refusal :=
  vecReg c (vecCWord d a (Fin.ofNat 32 mb.val) 0 0 0x17) (fun k => k.apart d a) (fun k =>
    let src := ((List.range k.vcnt).filter fun e => k.mbit mb e).toArray
    k.vwrite d.val k.sew (List.range src.size) fun e => (match src[e]? with | some x => k.velem a.val k.sew x | none => 0, 0)) s

/-! ## Masks (R228, R237) -/

/-- Bits below VCOUNT of mD := mA op mB. -/
def vecMask (op : Nat) (f : Bool → Bool → Bool) (c : CoreId) (d a b : Reg) (s : State) : Host.Outcome State Fault Refusal :=
  vecReg c (vecCWord d a b 0 0 op) (fun _ => isMask d && isMask a && isMask b) (fun k =>
    k.mwrite (maskOf d) (List.range k.vcnt) fun e => (f (k.mbit (maskOf a) e) (k.mbit (maskOf b) e), 0)) s

/-- mA and mB. -/
def execVmand (c : CoreId) (d a b : Reg) (s : State) : Host.Outcome State Fault Refusal := vecMask 0x18 (· && ·) c d a b s
/-- mA or mB. -/
def execVmor (c : CoreId) (d a b : Reg) (s : State) : Host.Outcome State Fault Refusal := vecMask 0x19 (· || ·) c d a b s
/-- mA xor mB. -/
def execVmxor (c : CoreId) (d a b : Reg) (s : State) : Host.Outcome State Fault Refusal := vecMask 0x1A (· != ·) c d a b s
/-- mA and not mB. -/
def execVmandn (c : CoreId) (d a b : Reg) (s : State) : Host.Outcome State Fault Refusal := vecMask 0x1B (fun x y => x && !y) c d a b s

/-- The set bits of mA below VCOUNT. -/
def execVmpopc (c : CoreId) (d a : Reg) (s : State) : Host.Outcome State Fault Refusal :=
  vecReg c (vecCWord d a 0 0 0 0x1C) (fun _ => isMask a) (fun k =>
    k.counted fun k => k.wg d (BitVec.ofNat 64 ((List.range k.vcnt).filter fun e => k.mbit (maskOf a) e).length)) s

/-- The lowest set bit below VCOUNT, or -1. -/
def execVmfirst (c : CoreId) (d a : Reg) (s : State) : Host.Outcome State Fault Refusal :=
  vecReg c (vecCWord d a 0 0 0 0x1D) (fun _ => isMask a) (fun k =>
    k.counted fun k => k.wg d (match (List.range k.vcnt).find? fun e => k.mbit (maskOf a) e with
      | some e => BitVec.ofNat 64 e
      | none => BitVec.allOnes 64)) s

/-! ## Memory forms (R239 to R247) -/

/-- What a memory form does. -/
structure VMem where
  store : Bool
  firstFault : Bool
  /-- Fields of a record. -/
  fields : Nat
  /-- Addresses of element e's fields. -/
  addrs : Core → Nat → List Nat

/-- Add one field's address, wrapping. -/
def wrapAddr (base : Word) (off : Nat) : Nat := (base.toNat + off) % 2 ^ 64

/-- Check one field: alignment, then translation, permission and device memory (R244). -/
def vecField (c : CoreId) (store : Bool) (n a : Nat) : M (List Piece) :=
  if a % n ≠ 0 then raise 2 0 (some (BitVec.ofNat 64 a)) else tilePieces c true (if store then needW else needR) a n

/-- The physical addresses that element e of a store writes, as far as its parts lie in normal memory of this die (R253). -/
def storeAddrs (ps : List Piece) : List Nat := ps.flatMap fun p => match p.kind with | .norm => (List.range p.n).map (p.pa + ·) | _ => []

/-- A field of a list of fields by address. -/
def fieldAt {α : Type} (xs : List (Nat × α)) (a : Nat) (d : α) : α := match xs.find? fun e => e.1 = a with | some e => e.2 | none => d

/-- Perform element e. The fields of a store are all checked before one is stored; those of a load are checked and read one after the other;
in both cases in rising address order, so that the lowest faulting byte is the one named. -/
def vecAccess (c : CoreId) (x : VMem) (d : Reg) (k0 : Core) (e : Nat) : M Unit := do
  let n := k0.sew / 8
  let as := x.addrs k0 e
  let rs := sortRanges (as.map fun a => (a, n))
  let reg (f : Nat) : Nat := d.val + f * k0.grp
  if x.store then
    let plan ← rs.mapM fun r => do
      let ps ← vecField c true n r.1
      pure (r.1, ps)
    modify fun s => s.modCore c fun k => { k with storing := k.storing ++ plan.flatMap fun p => storeAddrs p.2 }
    ((List.range x.fields).zip as).forM fun p => storeParts c 2 (fieldAt plan p.2 []) (toLe n (k0.velem (reg p.1) k0.sew e))
  else
    let vals ← rs.mapM fun r => do
      let ps ← vecField c false n r.1
      let bs ← readPieces c ps
      pure (r.1, fromLe bs)
    modify fun s => s.modCore c fun k =>
      ((List.range x.fields).zip as).foldl (fun k p => k.setVelem (reg p.1) k0.sew e (fieldAt vals p.2 0)) k

/-- The core would take an event of the boundary here, were the instruction complete (R245, R306). -/
def State.stops (s : State) (c : CoreId) : Bool := s.boundary c ≠ .none

/-- The active elements in order; true where all are done. A fault stops at its element and sets VRESUME (R244); past the first active
element of a first-fault load it truncates VCOUNT instead, unless it is a misalignment (R247). Where an element must wait, those before it
stand, and VRESUME is the first not performed, so that an interrupt may be taken there (R245); a first-fault load is abandoned whole. A store
sent to the fabric for an element completes first, and then an event that waits is taken before the next element (R245, R295). -/
def vecElements (c : CoreId) (x : VMem) (d : Reg) (k0 : Core) : Bool → List Nat → M Bool
  | _, [] => pure true
  | first, e :: es => fun s =>
    match vecAccess c x d k0 e s with
    | .ok _ t =>
      let t := if x.firstFault then t else clearAnswers (.core c) (t.modCore c fun k => { k with begun := false })
      match es with
      | e' :: _ =>
        if k0.begun && first && !x.firstFault && t.stops c then .ok false (t.modCore c fun k => { k with vresume := BitVec.ofNat 64 e' })
        else vecElements c x d k0 false es t
      | [] => .ok true t
    | .error (.exc v) t =>
      if x.firstFault && !first && v.cause ≠ 2 then
        .ok true (s.modCore c fun k => { k with vcount := BitVec.ofNat 64 e, vstat := k.vstat ||| 0x20 })
      else .error (.exc v) (t.modCore c fun k => { k with vresume := BitVec.ofNat 64 e })
    | .error .wait t =>
      if x.firstFault then .error .wait t
      else .ok false ((s.waiting t).modCore c fun k => { k with vresume := BitVec.ofNat 64 e, storing := (t.core c).storing })
    | .error v t => .error v t

/-- Decode checks of the data groups (R224, R239). -/
def Core.dataOk (k : Core) (d : Reg) (fields : Nat) : Bool := k.grouped d && d.val + (fields - 1) * k.grp ≤ 31

def vecMem (c : CoreId) (w : BitVec 32) (x : VMem) (ok : Core → Bool) (d : Reg) (mk : Fin 16) (s : State) :
    Host.Outcome State Fault Refusal :=
  vecGuard c w (fun k => k.dataOk d x.fields && ok k) (do
    let s ← get
    let k := s.core c
    if ← vecElements c x d k true (k.elems mk) then vecDone c else pure .stay) s

/-- Unit stride, with n fields in a record. -/
def unitAddrs (a : Reg) (n : Nat) (k : Core) (e : Nat) : List Nat :=
  (List.range n).map fun f => wrapAddr (k.rg a) ((n * e + f) * (k.sew / 8))

/-- gA + e x gB, the stride signed. -/
def stridedAddrs (a b : Reg) (k : Core) (e : Nat) : List Nat := [(k.rg a + BitVec.ofNat 64 e * k.rg b).toNat]

/-- gA + idx[e]. -/
def indexedAddrs (a b : Reg) (iw : BitVec 2) (k : Core) (e : Nat) : List Nat :=
  [wrapAddr (k.rg a) (k.velem b.val (8 * 2 ^ iw.toNat) e)]

/-- The index group: at most 8 registers, aligned, and apart from the data group of a load (R239). -/
def Core.indexOk (k : Core) (load : Bool) (d b : Reg) (iw : BitVec 2) : Bool :=
  let n := Nat.max 1 (k.grp * (8 * 2 ^ iw.toNat) / k.sew)
  n ≤ 8 && b.val % n = 0 && !(load && overlaps b.val n d.val k.grp)

def vecUnit (form : Nat) (store ff : Bool) (n : Nat) (c : CoreId) (d a : Reg) (mk : Fin 16) (s : State) : Host.Outcome State Fault Refusal :=
  vecMem c (vecMWord d a 0 mk form 0) ⟨store, ff, n, unitAddrs a n⟩ always d mk s

/-- Unit-stride load. -/
def execVld (c : CoreId) (d a : Reg) (mk : Fin 16) (s : State) : Host.Outcome State Fault Refusal :=
  vecUnit 0x0 false false 1 c d a mk s

/-- Unit-stride store. -/
def execVst (c : CoreId) (d a : Reg) (mk : Fin 16) (s : State) : Host.Outcome State Fault Refusal :=
  vecUnit 0x1 true false 1 c d a mk s

/-- Strided load. -/
def execVlds (c : CoreId) (d a b : Reg) (mk : Fin 16) (s : State) : Host.Outcome State Fault Refusal :=
  vecMem c (vecMWord d a b mk 0x2 0) ⟨false, false, 1, stridedAddrs a b⟩ always d mk s

/-- Strided store. -/
def execVsts (c : CoreId) (d a b : Reg) (mk : Fin 16) (s : State) : Host.Outcome State Fault Refusal :=
  vecMem c (vecMWord d a b mk 0x3 0) ⟨true, false, 1, stridedAddrs a b⟩ always d mk s

/-- Gather. -/
def execVldx (c : CoreId) (d a b : Reg) (iw : BitVec 2) (mk : Fin 16) (s : State) : Host.Outcome State Fault Refusal :=
  vecMem c (vecMWord d a b mk 0x4 iw) ⟨false, false, 1, indexedAddrs a b iw⟩ (fun k => k.indexOk true d b iw) d mk s

/-- Scatter. -/
def execVstx (c : CoreId) (d a b : Reg) (iw : BitVec 2) (mk : Fin 16) (s : State) : Host.Outcome State Fault Refusal :=
  vecMem c (vecMWord d a b mk 0x5 iw) ⟨true, false, 1, indexedAddrs a b iw⟩ (fun k => k.indexOk false d b iw) d mk s

/-- First-fault gather. -/
def execVldxff (c : CoreId) (d a b : Reg) (iw : BitVec 2) (mk : Fin 16) (s : State) : Host.Outcome State Fault Refusal :=
  vecMem c (vecMWord d a b mk 0x7 iw) ⟨false, true, 1, indexedAddrs a b iw⟩ (fun k => k.indexOk true d b iw) d mk s

/-- First-fault unit-stride load. -/
def execVldff (c : CoreId) (d a : Reg) (mk : Fin 16) (s : State) : Host.Outcome State Fault Refusal :=
  vecUnit 0x6 false true 1 c d a mk s

/-- Load of records of 2 fields. -/
def execVld2 (c : CoreId) (d a : Reg) (mk : Fin 16) (s : State) : Host.Outcome State Fault Refusal :=
  vecUnit 8 false false 2 c d a mk s

/-- Load of records of 3 fields. -/
def execVld3 (c : CoreId) (d a : Reg) (mk : Fin 16) (s : State) : Host.Outcome State Fault Refusal :=
  vecUnit 9 false false 3 c d a mk s

/-- Load of records of 4 fields. -/
def execVld4 (c : CoreId) (d a : Reg) (mk : Fin 16) (s : State) : Host.Outcome State Fault Refusal :=
  vecUnit 10 false false 4 c d a mk s

/-- Store of records of 2 fields. -/
def execVst2 (c : CoreId) (d a : Reg) (mk : Fin 16) (s : State) : Host.Outcome State Fault Refusal :=
  vecUnit 11 true false 2 c d a mk s

/-- Store of records of 3 fields. -/
def execVst3 (c : CoreId) (d a : Reg) (mk : Fin 16) (s : State) : Host.Outcome State Fault Refusal :=
  vecUnit 12 true false 3 c d a mk s

/-- Store of records of 4 fields. -/
def execVst4 (c : CoreId) (d a : Reg) (mk : Fin 16) (s : State) : Host.Outcome State Fault Refusal :=
  vecUnit 13 true false 4 c d a mk s

/-- VBYTES bytes of a mask register's memory: base aligned to 8, then checked whole. -/
def maskPieces (c : CoreId) (need : Need) (a : Word) (n : Nat) : M (List Piece) :=
  if a.toNat % 8 ≠ 0 then raise 2 0 (some a) else tilePieces c true need a.toNat n

/-- A mask register from memory; VCOUNT is ignored. -/
def execVlm (c : CoreId) (d a : Reg) (s : State) : Host.Outcome State Fault Refusal :=
  vecOp c (vecMWord d a 0 0 0xE 0) (fun _ => isMask d) (do
    let s ← get
    let ps ← maskPieces c needR (s.g c a) ((s.core c).vlen / 8)
    let bs ← readPieces c ps
    modify fun s => s.modCore c fun k => k.setMreg (maskOf d) (fromLe bs)) s

/-- A mask register to memory. -/
def execVsm (c : CoreId) (d a : Reg) (s : State) : Host.Outcome State Fault Refusal :=
  vecOp c (vecMWord d a 0 0 0xF 0) (fun _ => isMask d) (do
    let s ← get
    let k := s.core c
    let ps ← maskPieces c needW (s.g c a) (k.vlen / 8)
    storeParts c 2 ps (toLe (k.vlen / 8) (k.mreg (maskOf d)))) s

end Machine
end Sys2Proof
end

