-- ==== Sys2Proof/Machine/System.lean ====
section
/-! DEFINITION. System registers, barriers, calls, returns, sleep and the strongroom mode change: class 0x0C (R38 to R45, R69 to R76,
R121, R126, R212, R226, R274 to R277, R288 to R290, R298, R512). -/

namespace Sys2Proof
namespace Machine

/-! ## The table of system registers (R42) -/

/-- Minimum read level, and minimum write level where the register is writable; none for a number absent from the table. -/
def sysLevel (n : Nat) : Option (Nat × Option Nat) :=
  match n with
  | 0x000 | 0x001 => some (0, some 1)
  | 0x002 | 0x004 => some (0, none)
  | 0x003 => some (1, some 2)
  | 0x010 | 0x011 => some (0, some 0)
  | 0x020 | 0x021 | 0x022 | 0x023 => some (1, some 1)
  | 0x024 => some (2, some 2)
  | 0x028 => some (1, none)
  | 0x029 | 0x02A => some (1, some 1)
  | 0x038 | 0x039 => some (3, some 3)
  | 0x040 | 0x041 | 0x042 => some (0, some 0)
  | 0x048 => some (1, some 1)
  | 0x049 => some (2, some 2)
  | 0x100 | 0x101 => some (0, some 0)
  | 0x102 => some (0, none)
  | 0x120 | 0x121 | 0x122 | 0x124 => some (0, some 0)
  | 0x123 => some (0, none)
  | n =>
    if 0x030 ≤ n && n < 0x034 then some (n - 0x030, some (n - 0x030))
    else if 0x034 ≤ n && n < 0x038 then some (n - 0x034, some (n - 0x034))
    else if 0x108 ≤ n && n < 0x110 then some (0, some 0)
    else none

/-- Registers that need STATUS.TEN, and those that need STATUS.VEN (R44). -/
def sysTile (n : Nat) : Bool := (0x100 ≤ n && n < 0x103) || (0x108 ≤ n && n < 0x110)
def sysVec (n : Nat) : Bool := n = 0x120 || n = 0x121 || n = 0x122 || n = 0x124

/-- Level, then enable checks. -/
def sysCheck (k : Core) (n level : Nat) : M Unit :=
  if k.pl.toNat < level then raise 5 2 none
  else if sysTile n && !k.ten then raise 0x0A 0 none
  else if sysVec n && !k.ven then raise 0x0A 1 none
  else pure ()

/-- A read or write of TSTATn waits for the operations in flight that name accn, and a write of TCFG or OCFG for every one; where the engine
has stopped, for their replay (R123, R127, R148, R174). -/
def sysDrain (c : CoreId) (write : Bool) (n : Nat) : M Unit := fun s =>
  let k := s.core c
  if 0x108 ≤ n && n < 0x110 then
    if k.mxStopped && k.flight.any (·.names (Fin.ofNat 8 n)) then .error .wait s else .ok () (s.modCore c (·.drainAcc (Fin.ofNat 8 n)))
  else if write && (n = 0x100 || n = 0x101) then
    if k.mxStopped then .error .wait s else .ok () (s.modCore c (·.drainAll))
  else .ok () s

/-- TUSE as the tile instructions so far leave it: an operation in flight sets the bit of its accumulator whatever its result (R147, R198). -/
def Core.tuseSeen (k : Core) : BitVec 24 := k.flight.foldl (fun u x => u ||| BitVec.ofNat 24 (2 ^ (8 + x.d.val))) k.tuse

/-! ## Reading -/

/-- The deferred store queue is hidden from PL1 (R290). -/
def Core.dseHidden (k : Core) : Bool :=
  k.pl = 1 && match k.dse with | e :: _ => e.polder ≠ k.polder || !e.pl.ult 2 | [] => false

def DseEntry.info (e : DseEntry) : Word :=
  put e.size 0 ||| put e.kind 4 ||| put e.pl 8 ||| put e.polder 10 ||| put e.src 22 ||| flag true 31

def Core.dseAddr (k : Core) : Word := if k.dseHidden then 0 else match k.dse with | e :: _ => e.addr | [] => 0
def Core.dseInfo (k : Core) : Word := if k.dseHidden then 0 else match k.dse with | e :: _ => e.info | [] => 0
def Core.dseCount (k : Core) : Word :=
  if k.dseHidden then 0 else BitVec.ofNat 64 k.dse.length ||| flag k.dseOvf 8 ||| put k.dseDropped 16

/-- The value of a system register. -/
def sysVal (s : State) (c : CoreId) (n : Nat) : Word :=
  let k := s.core c
  match n with
  | 0x000 => k.status
  | 0x001 => k.mode
  | 0x002 => BitVec.ofNat 64 c.val
  | 0x003 => put k.polder 0
  | 0x004 => s.ltime
  | 0x010 => k.fctl
  | 0x011 => k.fstat
  | 0x020 => k.epc
  | 0x021 => k.estatus
  | 0x022 => k.ecause
  | 0x023 => k.eaddr
  | 0x024 => k.edeleg
  | 0x028 => k.dseAddr
  | 0x029 => k.dseInfo
  | 0x02A => k.dseCount
  | 0x038 => k.dfvec
  | 0x039 => k.dfsp
  | 0x040 => k.lstart
  | 0x041 => k.lend
  | 0x042 => k.lcount
  | 0x048 => k.gptb
  | 0x049 => k.iptb
  | 0x100 => k.tcfg
  | 0x101 => k.ocfg
  | 0x102 => k.tuseSeen.setWidth 64
  | 0x120 => k.vshape
  | 0x121 => k.vcount
  | 0x122 => k.vresume
  | 0x123 => BitVec.ofNat 64 (k.vlen / 8)
  | 0x124 => k.vstat
  | n =>
    if 0x030 ≤ n && n < 0x034 then k.vbase[n % 4]'(Nat.mod_lt _ (by decide))
    else if 0x034 ≤ n && n < 0x038 then k.spx[n % 4]'(Nat.mod_lt _ (by decide))
    else if 0x108 ≤ n && n < 0x110 then k.tstat[n % 8]'(Nat.mod_lt _ (by decide))
    else 0

/-- gD := the register. -/
def execSysrd (c : CoreId) (d : Reg) (n : BitVec 12) (s : State) : Host.Outcome State Fault Refusal :=
  let w := wordOf 0x0C d 0 0 n
  instr c w false (do
    let s ← get
    match sysLevel n.toNat with
    | none => illegal w
    | some (r, _) =>
      sysCheck (s.core c) n.toNat r
      sysDrain c false n.toNat
      modify fun s => s.setG c d (sysVal s c n.toNat)
      pure .seq) s

/-! ## Writing -/

/-- STATUS: PL and SRM keep their value, SRGNT too at PL1 (R45). -/
def Core.writeStatus (k : Core) (v : Word) : Core :=
  let m : Word := if k.pl.ult 2 then 0x3C else 0x7C
  { k with status := (v &&& m) ||| (k.status &&& ~~~m) }

/-- Discard the oldest deferred store error; cause 0x07 stays pending only while the queue holds an entry (R288, R289). -/
def Core.dsePop (k : Core) : Core :=
  let q := k.dse.drop 1
  { k with dse := q, dsePend := k.dsePend && !q.isEmpty }

def Core.clampVcount (k : Core) (n : Nat) : Core := { k with vcount := BitVec.ofNat 64 (Nat.min n k.vlmax) }

/-- The writable part of TSTATn: PATH and bit 39 stay (R126). -/
def tstatMask : Word := 0x0000FF7FFFFFFFFF

/-- A write of MODE (R274 to R277). -/
def writeMode (c : CoreId) (v : Word) : M Unit := do
  let s ← get
  let k := s.core c
  if bit v 0 && k.pl = 1 && !bit k.status 6 then raise 5 2 none
  else
    awaitStep c
    if !bit v 0 then set (s.setCore c { k with mode := 0, status := k.status &&& ~~~(0x80 : Word) })
    else if k.mxStopped then await
    else set (s.modCore c fun k => { k.drainAll with mode := 1, status := k.status ||| 0x80 })

/-- A write of a value to a register, all checks passed. `w` is the instruction's word. -/
def sysPut (c : CoreId) (w : BitVec 32) (n : Nat) (v : Word) : M Unit := do
  let on (f : Core → Core) : M Unit := modify fun s => s.modCore c f
  match n with
  | 0x000 => on (·.writeStatus v)
  | 0x001 => writeMode c v
  | 0x003 => do
    on fun k => { k with polder := fld v 0 12 }
    modify (releaseHeld c)
  | 0x010 => if 4 < (fld v 0 3).toNat then illegal w else on fun k => { k with fctl := v &&& 0x3FF }
  | 0x011 => on fun k => { k with fstat := v &&& 0x1F }
  | 0x020 => on fun k => { k with epc := v }
  | 0x021 => on fun k => { k with estatus := v &&& 0xFF }
  | 0x022 => on fun k => { k with ecause := v &&& 0x3FF7FF }
  | 0x023 => on fun k => { k with eaddr := v }
  | 0x024 => on fun k => { k with edeleg := v &&& 0x6FE }
  | 0x029 => on fun k => if k.dseHidden || !bit v 63 then k else k.dsePop
  | 0x02A => on fun k => if k.dseHidden || !bit v 8 then k else { k with dseOvf := false, dseDropped := 0 }
  | 0x038 => on fun k => { k with dfvec := v }
  | 0x039 => on fun k => { k with dfsp := v }
  | 0x040 => on fun k => { k with lstart := v }
  | 0x041 => on fun k => { k with lend := v }
  | 0x042 => on fun k => { k with lcount := v }
  | 0x048 => on fun k => { k with gptb := v &&& 0xFFFFFFFFFF001 }
  | 0x049 => on fun k => { k with iptb := v &&& 0xFFFFFFFFFF000 }
  | 0x100 => writeTcfg c w v
  | 0x101 => do
    awaitStep c
    if ocfgOk v then on fun k => { k with ocfg := v } else illegal w
  | 0x120 => on fun k =>
    let k := { k with vshape := v &&& 0xF }
    k.clampVcount k.vcnt
  | 0x121 => on fun k => k.clampVcount v.toNat
  | 0x122 => on fun k => { k with vresume := v &&& 0x1FFF }
  | 0x124 => on fun k => { k with vstat := v &&& 0x3F }
  | n =>
    if 0x030 ≤ n && n < 0x034 then on fun k => { k with vbase := k.vbase.set (n % 4) v (Nat.mod_lt _ (by decide)) }
    else if 0x034 ≤ n && n < 0x038 then on fun k => { k with spx := k.spx.set (n % 4) v (Nat.mod_lt _ (by decide)) }
    else if 0x108 ≤ n && n < 0x110 then
      if 64 < (fld v 32 7).toNat then illegal w
      else on fun k =>
        let old := k.tstat[n % 8]'(Nat.mod_lt _ (by decide))
        { k with tstat := k.tstat.set (n % 8) ((v &&& tstatMask) ||| (old &&& ~~~tstatMask)) (Nat.mod_lt _ (by decide)) }
    else pure ()

/-- The checks and the effect of a write: R42 to R44, then the register's own rules. -/
def sysWrite (c : CoreId) (w : BitVec 32) (n : Nat) (a : Reg) : M Next := do
  let s ← get
  match sysLevel n with
  | none => illegal w
  | some (r, none) =>
    sysCheck (s.core c) n r
    pure .seq
  | some (_, some l) =>
    sysCheck (s.core c) n l
    sysDrain c true n
    sysPut c w n (s.g c a)
    pure .seq

/-- `syswr` of register number n. One that waits completes before an interrupt (R295); a write of TCFG that waits has not started (R123). -/
def sysWriteInstr (c : CoreId) (n : BitVec 12) (a : Reg) (s : State) : Host.Outcome State Fault Refusal :=
  let w := wordOf 0x0C 0 a 1 n
  let m := sysWrite c w n.toNat a
  instr c w false (if n = 0x100 then m else completing c m) s

/-- Every register that has no row of its own. -/
def execSyswr (c : CoreId) (n : BitVec 12) (a : Reg) (s : State) : Host.Outcome State Fault Refusal := sysWriteInstr c n a s
/-- STATUS. -/
def execSyswrStatus (c : CoreId) (a : Reg) (s : State) : Host.Outcome State Fault Refusal := sysWriteInstr c 0x000 a s
/-- FCTL. -/
def execSyswrFctl (c : CoreId) (a : Reg) (s : State) : Host.Outcome State Fault Refusal := sysWriteInstr c 0x010 a s
/-- TCFG. -/
def execSyswrTcfg (c : CoreId) (a : Reg) (s : State) : Host.Outcome State Fault Refusal := sysWriteInstr c 0x100 a s
/-- OCFG. -/
def execSyswrOcfg (c : CoreId) (a : Reg) (s : State) : Host.Outcome State Fault Refusal := sysWriteInstr c 0x101 a s
/-- TSTATn. -/
def execSyswrTstat (c : CoreId) (n : Fin 8) (a : Reg) (s : State) : Host.Outcome State Fault Refusal :=
  sysWriteInstr c (BitVec.ofNat 12 (0x108 + n.val)) a s
/-- VCOUNT. -/
def execSyswrVcount (c : CoreId) (a : Reg) (s : State) : Host.Outcome State Fault Refusal := sysWriteInstr c 0x121 a s
/-- VSHAPE. -/
def execSyswrVshape (c : CoreId) (a : Reg) (s : State) : Host.Outcome State Fault Refusal := sysWriteInstr c 0x120 a s
/-- LCOUNT. -/
def execSyswrLcount (c : CoreId) (a : Reg) (s : State) : Host.Outcome State Fault Refusal := sysWriteInstr c 0x042 a s
/-- DSE_INFO. -/
def execDseNext (c : CoreId) (a : Reg) (s : State) : Host.Outcome State Fault Refusal := sysWriteInstr c 0x029 a s
/-- DSE_COUNT. -/
def execDseOvfClear (c : CoreId) (a : Reg) (s : State) : Host.Outcome State Fault Refusal := sysWriteInstr c 0x02A a s
/-- MODE with SR to be set. -/
def execStrongroomEntry (c : CoreId) (a : Reg) (s : State) : Host.Outcome State Fault Refusal := sysWriteInstr c 0x001 a s
/-- MODE with SR to be cleared. -/
def execStrongroomExit (c : CoreId) (a : Reg) (s : State) : Host.Outcome State Fault Refusal := sysWriteInstr c 0x001 a s

/-! ## Barriers, calls and returns (R41, R70 to R76, R298) -/

/-- A SYS function with every other field zero. -/
def sysFn (fn : Reg) (isBranch : Bool) (body : M Next) (c : CoreId) (s : State) : Host.Outcome State Fault Refusal :=
  instr c (wordOf 0x0C 0 0 fn 0) isBranch body s

/-- Loads before loads and stores: accesses are in program order here (log entry 10). -/
def execFenceR (c : CoreId) (s : State) : Host.Outcome State Fault Refusal := sysFn 0x08 false (pure .seq) c s
/-- Stores before stores; an outstanding STEP store is waited for (R416). -/
def execFenceW (c : CoreId) (s : State) : Host.Outcome State Fault Refusal := sysFn 0x09 false (do awaitStep c; pure .seq) c s
/-- Loads and stores before loads and stores. -/
def execFenceRw (c : CoreId) (s : State) : Host.Outcome State Fault Refusal := sysFn 0x0A false (do awaitStep c; pure .seq) c s
/-- Every earlier instruction completes; GPTB and IPTB govern fetch from here on (R43). -/
def execIsync (c : CoreId) (s : State) : Host.Outcome State Fault Refusal :=
  sysFn 0x0B false (do
    awaitStep c
    modify fun s => s.modCore c fun k => { k with fetchGptb := k.gptb, fetchIptb := k.iptb, fetchBuf := [] }
    pure .seq) c s
/-- Cause 0x08 at the level above (R41). -/
def execEcall (c : CoreId) (s : State) : Host.Outcome State Fault Refusal := sysFn 0x10 false (raise 8 0 none) c s
/-- Cause 0x09. -/
def execEbreak (c : CoreId) (s : State) : Host.Outcome State Fault Refusal := sysFn 0x11 false (raise 9 0 none) c s
/-- Return from the frame at SPX of the current level. -/
def execEret (c : CoreId) (s : State) : Host.Outcome State Fault Refusal :=
  sysFn 0x12 true (do
    returnFrom c
    pure .here) c s

/-! ## Sleep (R512 to R514) -/

/-- The core idles at the next instruction, unless a wake condition holds already. -/
def execSleep (c : CoreId) (s : State) : Host.Outcome State Fault Refusal :=
  sysFn 0x1F false (do
    modify fun s => if s.wakes c then s else settleDoor c (s.modCore c fun k => { k with asleep := true })
    pure .seq) c s

/-- A sleeping core whose wake condition holds goes on (R512, R514); in die-quiet it waits for the die (R519). -/
def execCoreWake (c : CoreId) (s : State) : Host.Outcome State Fault Refusal :=
  .next (if (s.core c).asleep && s.wakes c && !s.power.inQuiet then settleDoor c (s.modCore c fun k => { k with asleep := false }) else s)

end Machine
end Sys2Proof
end

