-- ==== Sys2Proof/Machine/Isa.lean ====
section
/-! DEFINITION. The reserved 32-bit words of the core's instruction set: those that no instruction row of the table spells (R47, R71,
and the encoding tables of ch02, ch03, ch04, ch05, ch07 and ch08). -/

namespace Sys2Proof
namespace Machine
namespace Isa

/-- Some instruction row spells the word. -/
def spelled (w : BitVec 32) : Bool := (coreCommand 0 w).isSome

/-- What a core raises on a word that no row spells: the tile and vector classes check their enable first (R129, R232, R278). -/
def reservedExc (k : Core) (w : BitVec 32) : Option Exc :=
  let bad : Exc := ⟨1, 0, some (w.setWidth 64)⟩
  if spelled w then none
  else
    match CoreWord.cls w with
    | 0x14 => if k.srm || k.ten then some bad else some ⟨0x0A, 0, none⟩
    | 0x18 | 0x19 | 0x1A => if k.srm || k.ven then some bad else some ⟨0x0A, 1, none⟩
    | _ => some bad

end Isa
end Machine
end Sys2Proof
end

