-- ==== Sys2Proof/Machine/Events.lean ====
section
/-! DEFINITION. Events of a core and of the interrupt router (R283 to R306). -/

namespace Sys2Proof
namespace Machine

/-- The boundary of a core whose next word is `w`: the boundary's event, else the fetch, else the word if it is reserved. A word that
some row spells is that row's command. -/
def boundaryOf (c : CoreId) (w : BitVec 32) : M Unit := fun s =>
  match takeBoundary c s with
  | .error e t => .error e t
  | .ok true t => .ok () t
  | .ok false t =>
    match fetchCheck c (t.pc c) t with
    | .ok _ u => match Isa.reservedExc (u.core c) w with | some e => takeExc c e u | none => .ok () u
    | .error (.exc e) u => takeExc c e u
    | .error e u => .error e u

/-- The event of a boundary, a fetch fault, or a reserved word writes a frame and enters its handler (R292, R306). -/
def execExceptionEntry (c : CoreId) (word : BitVec 32) (s : State) : Host.Outcome State Fault Refusal :=
  if !s.runs c then .next s
  else if ((s.core c).pausing || (s.core c).armPausing) && canPause s c then .next (pauseHere c s)
  else outcome (boundaryOf c word) s

/-- A bus error meets a store of the core after it retired (R288). -/
def execDeferredStoreError (c : CoreId) (addr : Word) (size : BitVec 4) (kind : BitVec 4) (pl : BitVec 2) (polder : BitVec 12)
    (src : BitVec 2) (s : State) : Host.Outcome State Fault Refusal :=
  .next (if s.present c then pushDse c ⟨addr, size, kind, pl, polder, src⟩ s else s)

/-- A unit, or another die, sends a message to a routing entry (R304, R305). -/
def execInterruptMessage (n : Fin 1024) (s : State) : Host.Outcome State Fault Refusal := .next (irteMessage n s)

/-- A write to IRTEn (R304, R305). -/
def execIrteWrite (w : Writer) (n : Fin 1024) (v : Word) (s : State) : Host.Outcome State Fault Refusal :=
  if writerShut w s then .next (gated w id s) else outcome (asWriter (writerTrusted w s) (irteStore n v)) s

/-- A write to ISWI of a core (R304). -/
def execIswi (w : Writer) (c : CoreId) (v : Word) (s : State) : Host.Outcome State Fault Refusal := .next (gated w (iswiStore c v) s)

/-- LTIME, while it counts, reaches TIMECMP: cause 0x20 is pending from here on (R305, R498, R503; log entry 9). -/
def execCoreTimer (c : CoreId) (s : State) : Host.Outcome State Fault Refusal :=
  .next (if s.present c && s.power.rootLock && !s.power.rootOff && s.ltime.ult (s.core c).timecmp then { s with ltime := (s.core c).timecmp } else s)

end Machine
end Sys2Proof
end

