-- ==== Sys2Proof/Machine/LoadStore.lean ====
section
/-! DEFINITION. Scalar loads, stores and atomics (R58 to R64). -/

namespace Sys2Proof
namespace Machine

/-- The address gA + offset12. -/
def effAddr (s : State) (c : CoreId) (a : Reg) (off : BitVec 12) : Word := s.g c a + sx off

/-- A load into a general register. -/
def loadG (kind : Reg) (n : Nat) (signed : Bool) (c : CoreId) (d a : Reg) (off : BitVec 12) (s : State) : Host.Outcome State Fault Refusal :=
  instr c (wordOf 4 d a kind off) false (do
    let s ← get
    let v ← loadScalar c (effAddr s c a off) n
    modify fun s => s.setG c d (extend n signed v)
    pure .seq) s

/-- A load into an f register; a word is written with bits [63:32] zero (R37). -/
def loadF (kind : Reg) (n : Nat) (c : CoreId) (d a : Reg) (off : BitVec 12) (s : State) : Host.Outcome State Fault Refusal :=
  instr c (wordOf 4 d a kind off) false (do
    let s ← get
    let v ← loadScalar c (effAddr s c a off) n
    modify fun s => s.setF c d (BitVec.ofNat 64 v)
    pure .seq) s

/-- A store of the low n bytes of gS. -/
def storeG (kind : Reg) (n : Nat) (c : CoreId) (r a : Reg) (off : BitVec 12) (s : State) : Host.Outcome State Fault Refusal :=
  instr c (wordOf 5 r a kind off) false (do
    let s ← get
    storeScalar c (effAddr s c a off) n (s.g c r)
    pure .seq) s

/-- A store of the low n bytes of fS. -/
def storeF (kind : Reg) (n : Nat) (c : CoreId) (r a : Reg) (off : BitVec 12) (s : State) : Host.Outcome State Fault Refusal :=
  instr c (wordOf 5 r a kind off) false (do
    let s ← get
    storeScalar c (effAddr s c a off) n (s.f c r)
    pure .seq) s

/-- An atomic: gD := the old memory value, as `lw` or `ld` gives it (R60). -/
def atomic (op : Nat) (c : CoreId) (d a b : Reg) (dbl aq rl : Bool) (s : State) : Host.Outcome State Fault Refusal :=
  let fn : BitVec 12 := BitVec.ofNat 12 ((if aq then 2048 else 0) + (if rl then 1024 else 0) + (if dbl then 512 else 0) + op)
  instr c (wordOf 6 d a b fn) false (do
    let s ← get
    let old ← completing c <| atomicAccess c op dbl (s.g c a) (s.g c b) (s.g c d)
    modify fun s => s.setG c d (if dbl then old else sext32 (lo32 old))
    pure .seq) s

/-- Byte, sign-extended. -/
def execLb (c : CoreId) (d a : Reg) (off : BitVec 12) (s : State) : Host.Outcome State Fault Refusal := loadG 0x00 1 true c d a off s
/-- Byte, zero-extended. -/
def execLbu (c : CoreId) (d a : Reg) (off : BitVec 12) (s : State) : Host.Outcome State Fault Refusal := loadG 0x02 1 false c d a off s
/-- Halfword, sign-extended. -/
def execLh (c : CoreId) (d a : Reg) (off : BitVec 12) (s : State) : Host.Outcome State Fault Refusal := loadG 0x04 2 true c d a off s
/-- Halfword, zero-extended. -/
def execLhu (c : CoreId) (d a : Reg) (off : BitVec 12) (s : State) : Host.Outcome State Fault Refusal := loadG 0x06 2 false c d a off s
/-- Word, sign-extended. -/
def execLw (c : CoreId) (d a : Reg) (off : BitVec 12) (s : State) : Host.Outcome State Fault Refusal := loadG 0x08 4 true c d a off s
/-- Word, zero-extended. -/
def execLwu (c : CoreId) (d a : Reg) (off : BitVec 12) (s : State) : Host.Outcome State Fault Refusal := loadG 0x0A 4 false c d a off s
/-- Doubleword. -/
def execLd (c : CoreId) (d a : Reg) (off : BitVec 12) (s : State) : Host.Outcome State Fault Refusal := loadG 0x0C 8 false c d a off s
/-- Word into an f register. -/
def execFldS (c : CoreId) (d a : Reg) (off : BitVec 12) (s : State) : Host.Outcome State Fault Refusal := loadF 0x18 4 c d a off s
/-- Doubleword into an f register. -/
def execFldD (c : CoreId) (d a : Reg) (off : BitVec 12) (s : State) : Host.Outcome State Fault Refusal := loadF 0x1C 8 c d a off s
/-- Byte. -/
def execSb (c : CoreId) (rs a : Reg) (off : BitVec 12) (s : State) : Host.Outcome State Fault Refusal := storeG 0x00 1 c rs a off s
/-- Halfword. -/
def execSh (c : CoreId) (rs a : Reg) (off : BitVec 12) (s : State) : Host.Outcome State Fault Refusal := storeG 0x04 2 c rs a off s
/-- Word. -/
def execSw (c : CoreId) (rs a : Reg) (off : BitVec 12) (s : State) : Host.Outcome State Fault Refusal := storeG 0x08 4 c rs a off s
/-- Doubleword. -/
def execSd (c : CoreId) (rs a : Reg) (off : BitVec 12) (s : State) : Host.Outcome State Fault Refusal := storeG 0x0C 8 c rs a off s
/-- Word from an f register. -/
def execFsdS (c : CoreId) (rs a : Reg) (off : BitVec 12) (s : State) : Host.Outcome State Fault Refusal := storeF 0x18 4 c rs a off s
/-- Doubleword from an f register. -/
def execFsdD (c : CoreId) (rs a : Reg) (off : BitVec 12) (s : State) : Host.Outcome State Fault Refusal := storeF 0x1C 8 c rs a off s
/-- Swap. -/
def execAmoswap (c : CoreId) (d a b : Reg) (dbl aq rl : Bool) (s : State) : Host.Outcome State Fault Refusal := atomic 0 c d a b dbl aq rl s
/-- Add. -/
def execAmoadd (c : CoreId) (d a b : Reg) (dbl aq rl : Bool) (s : State) : Host.Outcome State Fault Refusal := atomic 1 c d a b dbl aq rl s
/-- AND. -/
def execAmoand (c : CoreId) (d a b : Reg) (dbl aq rl : Bool) (s : State) : Host.Outcome State Fault Refusal := atomic 2 c d a b dbl aq rl s
/-- OR. -/
def execAmoor (c : CoreId) (d a b : Reg) (dbl aq rl : Bool) (s : State) : Host.Outcome State Fault Refusal := atomic 3 c d a b dbl aq rl s
/-- XOR. -/
def execAmoxor (c : CoreId) (d a b : Reg) (dbl aq rl : Bool) (s : State) : Host.Outcome State Fault Refusal := atomic 4 c d a b dbl aq rl s
/-- Signed minimum. -/
def execAmomin (c : CoreId) (d a b : Reg) (dbl aq rl : Bool) (s : State) : Host.Outcome State Fault Refusal := atomic 5 c d a b dbl aq rl s
/-- Signed maximum. -/
def execAmomax (c : CoreId) (d a b : Reg) (dbl aq rl : Bool) (s : State) : Host.Outcome State Fault Refusal := atomic 6 c d a b dbl aq rl s
/-- Unsigned minimum. -/
def execAmominu (c : CoreId) (d a b : Reg) (dbl aq rl : Bool) (s : State) : Host.Outcome State Fault Refusal := atomic 7 c d a b dbl aq rl s
/-- Unsigned maximum. -/
def execAmomaxu (c : CoreId) (d a b : Reg) (dbl aq rl : Bool) (s : State) : Host.Outcome State Fault Refusal := atomic 8 c d a b dbl aq rl s
/-- Compare with the prior gD, and store gB where equal. -/
def execCas (c : CoreId) (d a b : Reg) (dbl aq rl : Bool) (s : State) : Host.Outcome State Fault Refusal := atomic 9 c d a b dbl aq rl s

end Machine
end Sys2Proof
end

