-- ==== Sys2Proof/Machine/PorchBase.lean ====
section
/-! DEFINITION. Serving porch commands: posting, the order of refusals, replies (R481 to R491, R585). -/

namespace Sys2Proof
namespace Machine

/-! ## Packets (ch18, "Command packet") -/

/-- The doublewords of a command slot. -/
def packetWords (op : BitVec 8) (p : Packet) : List Word :=
  [put op 0 ||| put p.flags 8 ||| put p.tag 16 ||| put p.polder 32 ||| put p.rsv 44 ||| put p.length 48, p.paddr, p.p2, p.p3, p.p4, p.p5, p.p6, p.p7]

def slotWords (s : State) (n : BitVec 32) : List Word := (List.range 8).map fun j => mget 0 s.porch.slots (n.toNat % 256 * 8 + j)

/-- The host posts a command (R481). -/
def post (op : BitVec 8) (p : Packet) (s : State) : State :=
  let i := s.porch.cmdPi.toNat % 256 * 8
  let ws := packetWords op p
  let slots := (List.range 8).foldl (fun t j => mset 0 t (i + j) (ws.getD j 0)) s.porch.slots
  setEvent 0 { s with porch := { s.porch with slots := slots, cmdPi := s.porch.cmdPi + 1 } }

/-- FLAGS.FENCE and FLAGS.QUIET. -/
def fenced (p : Packet) : Bool := bit p.flags 0
def quietly (p : Packet) : Bool := bit p.flags 1

/-- The opcodes of R492. -/
def opcodes : List Nat :=
  [0x01, 0x10, 0x11, 0x12, 0x13, 0x20, 0x21, 0x22, 0x23, 0x30, 0x31, 0x40, 0x41, 0x42, 0x43, 0x44, 0x45, 0x46, 0x47, 0x50, 0x51, 0x52, 0x53,
   0x54, 0x60, 0x61, 0x62, 0x63, 0x70, 0x71, 0x72, 0x80, 0x90, 0x91, 0xF0, 0xF1]

/-! ## Results -/

/-- What a served command comes to. -/
inductive Served where
  /-- A direct reply: STATUS, DETAIL, RES0 to RES2. -/
  | reply (status : BitVec 8) (detail : BitVec 16) (r0 r1 r2 : Word)
  /-- ACCEPTED (R487): its object, a count and data. -/
  | accepted (obj n : Nat) (x : Word)
  /-- A direct reply that comes when the effect is complete. -/
  | later (obj : Nat) (x : Word)
  deriving DecidableEq, Repr

def ok0 : Served := .reply 0 0 0 0 0
def busy : Served := .reply 0x10 0 0 0 0
def noResource : Served := .reply 0x20 0 0 0 0
def notPresent : Served := .reply 0x30 0 0 0 0
def failed (detail : BitVec 16) : Served := .reply 0xFE detail 0 0 0

/-! ## Serving (R482 to R491, R585) -/

/-- The pumphouse can start a command: it serves commands, the reply ring has room, no direct command is under way, and the recovery
of every queued event is complete (R482, R486, R487, R489, R454). A command posted in die-quiet waits for its end (R519); after a SHUTDOWN
the die serves what R498 leaves. -/
def canServe (s : State) : Bool :=
  (s.porch.ready || s.porch.fwOnly) && !s.coff.dieStop && !s.inReset && (!s.power.inQuiet || s.porch.down) && !s.rfull && s.porch.direct.isNone && (nextRecovery s).isNone

/-- A command is taken from the ring. -/
def takeSlot (s : State) : State := { s with porch := { s.porch with cmdCi := s.porch.cmdCi + 1 } }

/-- Write a direct reply, unless QUIET asks for none on OK. One that finds the ring full, since the command itself has told the host something,
waits as any reply does (R486). -/
def answer (quiet : Bool) (tag : BitVec 16) (op : BitVec 8) (st : BitVec 8) (d : BitVec 16) (r0 r1 r2 : Word) (s : State) : State :=
  if quiet && st = 0 then s else notify ⟨tag, st, d, op, r0, r1, r2⟩ s

/-- Commands with a reserved OPCODE at the front of the ring are refused with FAILED 0xFF01 (R483). -/
def skipReserved : Nat → State → State
  | 0, s => s
  | fuel + 1, s =>
    let w := (slotWords s s.porch.cmdCi).headD 0
    if s.porch.cmdCi = s.porch.cmdPi || !canServe s || opcodes.contains (fld w 0 8).toNat || (bit w 8 && !s.porch.accepted.isEmpty) then s
    else skipReserved fuel (answer false (fld w 16 16) (fld w 0 8) 0xFE 0xFF01 0 0 0 (takeSlot s))

/-- The pumphouse takes the events that it can, and refuses reserved commands at the front of the ring. -/
def pumphouseTurn (s : State) : State :=
  if (s.porch.ready || s.porch.fwOnly) && !s.coff.dieStop && !s.inReset then skipReserved 256 (takeEvents s) else s

/-- Reason 1 of R585: flags, reserved fields, LENGTH, PADDR (R483). `ms` are the defined bits of P2 on. -/
def badFormat (lenOk : Bool) (ms : List Word) (p : Packet) : Bool :=
  let ps := [p.p2, p.p3, p.p4, p.p5, p.p6, p.p7]
  fld p.flags 2 6 ≠ 0 || p.rsv ≠ 0 || !lenOk || (List.range 6).any (fun i => ps.getD i 0 &&& ~~~(ms.getD i 0) ≠ 0) ||
    (p.length ≠ 0 && fld p.paddr 0 6 ≠ 0)

/-- Reason 2 of R585: the die serves only some commands (R480, R497, R498). -/
def onlySome (op : BitVec 8) (s : State) : Bool :=
  (s.porch.down && !(op = 0x01 || op = 0x70 || op = 0xF1)) || (s.porch.fwOnly && !(op = 0x70 || op = 0x72 || op = 0xF1))

/-- Reply ACCEPTED and go on in the background. -/
def startBackground (b : Background) (s : State) : State :=
  notify ⟨b.tag, 1, 0, b.opcode, 0, 0, 0⟩ { s with porch := { s.porch with accepted := s.porch.accepted ++ [b] } }

/-- Serve the command at the front of the ring, which is this one. `first` is read before the refusals, and `good` tells a LENGTH that it
refutes (R496). -/
def serveFront {α : Type} (op : BitVec 8) (p : Packet) (lenOk : Bool) (first : M α) (good : α → Bool) (ms : List Word) (body : α → M Served) :
    M Served := do
  let s ← get
  let r ←
    if badFormat lenOk ms p then pure (failed 0xFF01)
    else do
      let x ← first
      if !good x then pure (failed 0xFF01)
      else if onlySome op s then pure busy
      else body x
  modify takeSlot
  match r with
  | .reply st d r0 r1 r2 => modify (answer (quietly p) p.tag op st d r0 r1 r2)
  | .accepted obj n x => modify (startBackground ⟨p.tag, op, quietly p, obj, n, x⟩)
  | .later obj x => modify (startDirect ⟨p.tag, op, quietly p, obj, 0, x⟩)
  pure r

/-- A porch row: the host posts the command, unless the front of the ring is this command, waiting; the pumphouse serves it if it is
at the front and may start. `after` runs behind the reply, with what the command came to. -/
def porchRowIf {α : Type} (op : BitVec 8) (p : Packet) (lenOk : Bool) (first : M α) (good : α → Bool) (ms : List Word) (body : α → M Served)
    (after : Served → State → State) (s : State) : Host.Outcome State Fault Refusal :=
  let words := packetWords op p
  let front (s : State) : Bool := s.porch.cmdCi ≠ s.porch.cmdPi && slotWords s s.porch.cmdCi = words
  let s := mirrored (pumphouseTurn s)
  if !front s && s.porch.cmdPi - s.porch.cmdCi = 256 then .fault (.undefinedOutcome 501)
  else
    outcome (do
      modify fun s => if front s then s else pumphouseTurn (post op p s)
      let s ← get
      if front s && canServe s && !(fenced p && !s.porch.accepted.isEmpty) then
        let r ← serveFront op p lenOk first good ms body
        modify (after r)
        modify (clearAnswers .pump)
      modify mirrored) s

/-- A row whose LENGTH is told by the packet alone. -/
def porchRow (op : BitVec 8) (p : Packet) (lenOk : Bool) (ms : List Word) (body : M Served) (after : Served → State → State) (s : State) :
    Host.Outcome State Fault Refusal :=
  porchRowIf op p lenOk (pure ()) (fun _ => true) ms (fun _ => body) after s

/-! ## Parts that commands share -/

/-- Read the payload with tag 0 (R484). -/
def payload (p : Packet) : M (Option (List Byte)) := do
  let r ← agentRead .pump 0 true p.paddr.toNat (64 * p.length.toNat)
  pure (if r.1 = 0 then some r.2 else none)

def wordAt (bs : List Byte) (i : Nat) : Word := BitVec.ofNat 64 (fromLe ((bs.drop (8 * i)).take 8))

/-- One more command may be ACCEPTED (R488). -/
def roomToAccept (s : State) : Bool := decide (s.porch.accepted.length < 16)

def maskCores (m : Word) : List CoreId := allCores.filter fun c => m.getLsbD c.val

/-- A core is the object of a background command, or recovery holds it (R490). -/
def coreHeld (s : State) (c : CoreId) : Bool := (s.background 0x63 c.val).isSome || s.coff.events.any (wantsMove s c)

/-- The refusals of a command with a core mask: absent, offline, held. -/
def maskRefusal (s : State) (m : Word) (offlineOk : Bool) : Option Served :=
  let cs := maskCores m
  if cs.any fun c => !s.present c then some notPresent
  else if !offlineOk && cs.any s.offline then some (failed 0xFF05)
  else if cs.any (coreHeld s) then some busy
  else none

end Machine
end Sys2Proof
end

