-- ==== Sys2Proof/Machine/Pump.lean ====
section
/-! DEFINITION. The pumphouse sequencer: one instruction word, the mover, events and the timer (ch17). -/

namespace Sys2Proof
namespace Machine

/-! ## Words (R458, R460, R462) -/

/-- The word of a move into a port on one of the buses. -/
def phWord (port : BitVec 8) : PhMove → BitVec 32
  | .bus0 src rest => BitVec.ofNat 32 (src.toNat * 2 ^ 24 + port.toNat * 2 ^ 16 + rest.toNat)
  | .bus1 src rest => BitVec.ofNat 32 (rest.toNat * 2 ^ 16 + src.toNat * 2 ^ 8 + port.toNat)

def phSourceOk (id : Nat) : Bool :=
  id = 0 || id = 2 || id = 8 || id = 9 || (0x10 ≤ id && id < 0x20) || id = 0x30 || (0x38 ≤ id && id < 0x3B) || id = 0x40 || id = 0x48 ||
    id = 0x50 || 0xC0 ≤ id

def phDestOk (id : Nat) : Bool :=
  id = 0 || id = 8 || (0x10 ≤ id && id < 0x1C) || (0x20 ≤ id && id < 0x45) || id = 0x48 || id = 0x49 || (0x50 ≤ id && id < 0x5A) || id = 0x60 ||
    (0x68 ≤ id && id < 0x6C)

/-- Unit of a trigger port: ALU, pointer, LSU, stack, branch, event; none of another port. -/
def phUnit (id : Nat) : Option Nat :=
  if 0x10 ≤ id && id < 0x1C then some 0 else if 0x38 ≤ id && id < 0x40 then some 1 else if 0x41 ≤ id && id < 0x45 then some 2
  else if id = 0x48 then some 3 else if 0x50 ≤ id && id < 0x5A then some 4 else if id = 0x68 || id = 0x69 then some 5 else none

/-- The moves of a word: source and destination IDs. A long-immediate word has one. -/
def phMoves (w : BitVec 32) : List (Nat × Nat) :=
  let f (lo : Nat) : Nat := (fld w lo 8).toNat
  if f 24 = 2 then [(2, f 16)] else [(f 24, f 16), (f 8, f 0)]

/-- R460. Both moves may discard their values into destination 0x00. -/
def phIllegal (w : BitVec 32) : Bool :=
  match phMoves w with
  | [(s0, d0), (s1, d1)] =>
    !phSourceOk s0 || !phSourceOk s1 || s1 = 2 || !phDestOk d0 || !phDestOk d1 || (d0 = d1 && d0 ≠ 0) || ((phUnit d0).isSome && phUnit d0 = phUnit d1)
  | ms => ms.any fun m => !phDestOk m.2

/-! ## Memory of the sequencer (R468) -/

def inData (a : Nat) : Bool := 0xA000 ≤ a && a < 0xE000

/-- A byte of code SRAM, data SRAM or boot ROM. -/
def Pump.byte (p : Pump) (a : Nat) : Byte :=
  if a < 0xA000 then mget 0 p.code a else if a < 0xE000 then mget 0 p.data (a - 0xA000) else mget 0 p.rom (a - 0xF000)

def Pump.setData (p : Pump) (a : Nat) (b : Byte) : Pump := { p.freshCheck a 1 with data := mset 0 p.data (a - 0xA000) b }

/-- A read of n bytes: single-bit errors among them are corrected, written back and counted (R457). -/
def Pump.correct (a n : Nat) (p : Pump) : Pump :=
  let hit (x : Nat) : Bool := decide (a ≤ x) && decide (x < a + n)
  { p with ecc := satAdd p.ecc (p.softSram.filter hit).length, softSram := p.softSram.filter fun x => !hit x }

/-- The same; each correction is an event (R434). -/
def sramRead (a n : Nat) (s : State) : State :=
  let k := s.pump.softSram.countP fun x => decide (a ≤ x) && decide (x < a + n)
  (List.range k).foldl (fun t _ => recordFile 0xFF 0 t) { s with pump := s.pump.correct a n }

/-- Some of n bytes cannot be corrected. -/
def Pump.spoilt (p : Pump) (a n : Nat) : Bool := (List.range n).any fun i => p.badSram.contains (a + i)

/-- The data SRAM address of a doubleword of control space that lies in the view. -/
def viewAddr (d : Nat) : Option Nat := if 0x24000 ≤ d && d < 0x28000 then some (0xA000 + (d - 0x24000)) else none

/-- `evt.pend` (R475). -/
def evtPend (s : State) : Byte :=
  (s.pump.events &&& 0x7D) ||| (if s.coff.events.isEmpty then 0 else 2) ||| (if s.power.alert then 0x80 else 0)

/-- A halt at a word, and the die stop that it brings (R461). An uncorrectable SRAM error is an event, too (R434). -/
def phHalt (cause : BitVec 4) (s : State) : State :=
  let s := dieStop { s with pump := { s.pump with run := false, halt := true, hcause := cause, haltPc := s.pump.pc } }
  if cause = 6 then recordOwn 6 s else s

/-! ## The ALU (R463) -/

def phFlags (r : Byte) (c v : Bool) : BitVec 4 := BitVec.ofNat 4 (flagNat (r = 0) 0 + flagNat c 1 + flagNat (bit r 7) 2 + flagNat v 3)
def flagNat' (b : Bool) : Nat := if b then 1 else 0

/-- Result and flags of an ALU trigger port, from operands A and B and the flags before. -/
def phAlu (op : Nat) (a b : Byte) (f : BitVec 4) : Byte × BitVec 4 :=
  let cin := flagNat' (bit f 1)
  let add (n : Nat) : Byte × BitVec 4 :=
    let r := BitVec.ofNat 8 (a.toNat + b.toNat + n)
    (r, phFlags r (256 ≤ a.toNat + b.toNat + n) (bit ((a ^^^ r) &&& (b ^^^ r)) 7))
  let sub (n : Nat) : Byte × BitVec 4 :=
    let r := BitVec.ofNat 8 (a.toNat + 512 - b.toNat - n)
    (r, phFlags r (a.toNat < b.toNat + n) (bit ((a ^^^ b) &&& (a ^^^ r)) 7))
  let logic (r : Byte) : Byte × BitVec 4 := (r, phFlags r false false)
  match op with
  | 0x10 => add 0
  | 0x11 => add cin
  | 0x12 | 0x17 => sub 0
  | 0x13 => sub cin
  | 0x14 => logic (a &&& b)
  | 0x15 => logic (a ||| b)
  | 0x16 => logic (a ^^^ b)
  | 0x18 => let r := b <<< 1; (r, phFlags r (bit b 7) false)
  | 0x19 => let r := b >>> 1; (r, phFlags r (bit b 0) false)
  | 0x1A => let r := b.sshiftRight 1; (r, phFlags r (bit b 0) false)
  | _ => (b, phFlags b (bit f 1) (bit f 3))

/-! ## Reading sources -/

/-- Value of a source at the start of the word. `stk.top` outside data SRAM has no stated value. -/
def phSource (id : Nat) (imm : BitVec 16) : M (BitVec 16) := do
  let s ← get
  let p := s.pump
  let b (x : Byte) : BitVec 16 := x.setWidth 16
  if id = 2 then pure imm
  else if id = 8 then pure (b p.aluR)
  else if id = 9 then pure (p.flags.setWidth 16)
  else if 0x10 ≤ id && id < 0x18 then pure (p.ptrs.toList.getD (id - 0x10) 0)
  else if 0x18 ≤ id && id < 0x20 then pure (p.ptrs.toList.getD (id - 0x18) 0 >>> 8)
  else if id = 0x30 then pure (b p.lsuR)
  else if id = 0x38 || id = 0x39 then
    if inData p.dsp.toNat then
      set (sramRead p.dsp.toNat 1 s)
      pure (b (p.byte p.dsp.toNat))
    else
      let v ← takeFree
      pure (fld v 0 8 |>.setWidth 16)
  else if id = 0x3A then pure p.dsp
  else if id = 0x40 then pure (BitVec.ofNat 16 p.rstack.length)
  else if id = 0x48 then pure (p.hatchPg.setWidth 16)
  else if id = 0x50 then pure (b (evtPend s))
  else if 0xC0 ≤ id then pure (BitVec.ofNat 16 (id - 0xC0))
  else pure 0

/-- The word is fetched and its sources are read: its moves as destination and value. -/
def phSources (w : BitVec 32) : M (List (Nat × BitVec 16)) := do
  let s ← get
  set (sramRead s.pump.pc.toNat 4 s)
  (phMoves w).mapM fun m => do
    let v ← phSource m.1 (fld w 0 16)
    pure (m.2, v)

/-! ## Effects of the destinations -/

/-- A branch trigger is taken, by the flags at the start of its word (R465). -/
def phTaken (port : Nat) (f : BitVec 4) : Bool :=
  match port with
  | 0x51 => bit f 0
  | 0x52 => !bit f 0
  | 0x53 => bit f 1
  | 0x54 => !bit f 1
  | 0x55 => bit f 2
  | 0x56 => bit f 2 != bit f 3
  | 0x57 => bit f 2 == bit f 3
  | _ => true

/-- The LSU address of a load or store port; the pointer registers are those before the word. -/
def lsuAddr (p : Pump) (port : Nat) (v : BitVec 16) : Nat :=
  if port = 0x41 || port = 0x42 then (p.ptrs.toList.getD (v.toNat % 8) 0 + BitVec.ofNat 16 (v.toNat / 8 % 32)).toNat else v.toNat

/-- DSP after the operand writes of the word and its pop. -/
def dspAfter (p : Pump) (pop : Bool) (ms : List (Nat × BitVec 16)) : BitVec 16 :=
  match ms.find? fun m => m.1 = 0x49 with
  | some m => m.2
  | none => if pop then p.dsp + 1 else p.dsp

/-- A move into a port that is no trigger. -/
def phOperand (p : Pump) (m : Nat × BitVec 16) : Pump :=
  let port := m.1
  let v := m.2
  let lo : Byte := fld v 0 8
  let setP (i : Nat) (x : BitVec 16) : Pump := if h : i < 8 then { p with ptrs := p.ptrs.set i x h } else p
  let old (i : Nat) : BitVec 16 := p.ptrs.toList.getD i 0
  if port = 8 then { p with aluA := lo }
  else if 0x20 ≤ port && port < 0x28 then setP (port - 0x20) v
  else if 0x28 ≤ port && port < 0x30 then setP (port - 0x28) (setFld (old (port - 0x28)) 0 lo)
  else if 0x30 ≤ port && port < 0x38 then setP (port - 0x30) (setFld (old (port - 0x30)) 8 lo)
  else if port = 0x40 then { p with lsuD := lo }
  else if port = 0x60 then { p with hatchPg := fld v 0 12 }
  else p

/-- The doubleword that a load from hatch address x reads, unless the snapshot holds it (R471). -/
def Pump.hatchWord (p : Pump) (x : Nat) : Option Nat :=
  let off := p.hatchPg.toNat * 4096 + x
  let d := off / 8 * 8
  match p.snap with
  | some (e, _) => if off % 8 ≠ 0 && e = d then none else some d
  | none => some d

/-- A load meets an uncorrectable byte: of SRAM or the boot ROM, or through the hatch of data SRAM's view (R457). -/
def loadSpoilt (p : Pump) (a : Nat) : Bool :=
  if 0xE000 ≤ a && a < 0xF000 then ((p.hatchWord (a - 0xE000)).bind viewAddr).any fun b => p.spoilt b 8 else p.badSram.contains a

/-- The halt that a move brings about, checked before the word has any effect. `q` is the pumphouse with the word's operands. -/
def moveHalts (p q : Pump) (dsp : BitVec 16) (m : Nat × BitVec 16) : Option (BitVec 4) :=
  if 0x50 ≤ m.1 && m.1 < 0x59 then
    if !phTaken m.1 p.flags then none
    else if fld m.2 0 2 ≠ 0 then some 2
    else if m.1 = 0x58 && 64 ≤ p.rstack.length then some 3
    else none
  else if m.1 = 0x59 then (if p.rstack.isEmpty then some 4 else none)
  else if m.1 = 0x48 then (if inData (dsp - 1).toNat then none else some 5)
  else if m.1 = 0x41 || m.1 = 0x43 then (if loadSpoilt q (lsuAddr p m.1 m.2) then some 6 else none)
  else none

/-- A word that writes a pointer and one of its bytes leaves that byte unstated: a free value. -/
def ptrClash (ms : List (Nat × BitVec 16)) : Option (Nat × Nat) :=
  let d := ms.map (·.1)
  (List.range 8).findSome? fun i =>
    if !d.contains (0x20 + i) then none
    else if d.contains (0x28 + i) then some (i, 0) else if d.contains (0x30 + i) then some (i, 8) else none

/-- Load a byte from the hatch (R471): the snapshot, or a new one. -/
def hatchLoad (x : Nat) : M Byte := do
  let s ← get
  let p := s.pump
  let off := p.hatchPg.toNat * 4096 + x
  let d := off / 8 * 8
  let k := off % 8
  match p.hatchWord x with
  | none => pure (match p.snap with | some (_, w) => fld w (8 * k) 8 | none => 0)
  | some _ =>
    let s := match viewAddr d with | some a => sramRead a 8 s | none => s
    let w := ctlRead s d 0 true
    set { s with pump := { s.pump with snap := some (d, w) } }
    pure (fld w (8 * k) 8)

/-- Store a byte to the hatch (R472). -/
def hatchPut (x : Nat) (b : Byte) : M Unit := do
  let s ← get
  let p := s.pump
  let off := p.hatchPg.toNat * 4096 + x
  let d := off / 8 * 8
  let k := off % 8
  if k = 0 then set { s with pump := { p with stage := some (d, put b 0) } }
  else
    match p.stage with
    | some (e, w) =>
      if e ≠ d then set { s with pump := { p with hatchErr := satInc p.hatchErr } }
      else
        let w := setFld w (8 * k) b
        if k = 7 then
          set { s with pump := { p with stage := none } }
          regWrite .hatch d 8 w 0 true
        else set { s with pump := { p with stage := some (d, w) } }
    | none => set { s with pump := { p with hatchErr := satInc p.hatchErr } }

/-- A load: its result is readable two cycles after the trigger. -/
def phLoad (a : Nat) : M Unit := do
  let s ← get
  let b ←
    if 0xE000 ≤ a && a < 0xF000 then hatchLoad (a - 0xE000)
    else do
      set (sramRead a 1 s)
      pure (s.pump.byte a)
  modify fun s => { s with pump := { s.pump with loads := s.pump.loads ++ [(2, b)] } }

/-- A store of `lsu.d` (R468). -/
def phStore (a : Nat) : M Unit := do
  let s ← get
  let p := s.pump
  if a < 0xA000 then
    if p.lock then set { s with pump := { p with codeErr := satInc p.codeErr } }
    else set { s with pump := { p.freshCheck a 1 with code := mset 0 p.code a p.lsuD } }
  else if a < 0xE000 then set { s with pump := p.setData a p.lsuD }
  else if a < 0xF000 then hatchPut (a - 0xE000) p.lsuD
  else pure ()

/-- A trigger starts its operation. `old` is the pumphouse before the word; `v` the value moved in. -/
def phTrigger (old : Pump) (m : Nat × BitVec 16) : M Unit := do
  let s ← get
  let p := s.pump
  let v := m.2
  let port := m.1
  if 0x10 ≤ port && port < 0x1C then
    let (r, f) := phAlu port p.aluA (fld v 0 8) old.flags
    set { s with pump := { p with aluR := if port = 0x17 then p.aluR else r, flags := f } }
  else if 0x38 ≤ port && port < 0x40 then
    if h : port - 0x38 < 8 then set { s with pump := { p with ptrs := p.ptrs.set (port - 0x38) (p.ptrs[port - 0x38] + (fld v 0 8 : Byte).signExtend 16) h } }
  else if port = 0x41 || port = 0x43 then phLoad (lsuAddr old port v)
  else if port = 0x42 || port = 0x44 then phStore (lsuAddr old port v)
  else if port = 0x48 then set { s with pump := { (p.setData (p.dsp - 1).toNat (fld v 0 8)) with dsp := p.dsp - 1 } }
  else if port = 0x58 then set { s with pump := { p with pc := v, rstack := (old.pc + 4) :: p.rstack } }
  else if port = 0x59 then set { s with pump := { p with pc := p.rstack.headD 0, rstack := p.rstack.tail } }
  else if 0x50 ≤ port && port < 0x58 then
    if phTaken port old.flags then set { s with pump := { p with pc := v } }
  else if port = 0x68 then
    let mask : Byte := fld v 0 8
    if mask ≠ 0 && (evtPend s &&& mask) = 0 then set { s with pump := { p with waiting := some mask } }
  else if port = 0x69 then set { s with pump := { p with events := p.events &&& ~~~(fld v 0 8) } }
  else if port = 0x6A then
    set { s with pump := { p with timer := if v = 0 then none else some (s.ltime + BitVec.ofNat 64 (100 * v.toNat)) } }
  else if port = 0x6B then set { s with side := { s.side with beatLow := if s.coff.dieStop then s.side.beatLow else !s.side.beatLow } }

/-- n pumphouse cycles pass: loads whose two cycles are over are readable. -/
def tickLoads (n : Nat) (p : Pump) : Pump :=
  let done := p.loads.filter fun l => l.1 ≤ n
  { p with loads := (p.loads.filter fun l => n < l.1).map fun l => (l.1 - n, l.2), lsuR := match done.getLast? with | some l => l.2 | none => p.lsuR }

/-- The moves' effects, and the time that the word takes: 2 cycles with a taken branch, and a wait lets every load end. -/
def phExecute (p : Pump) (pop : Bool) (ms : List (Nat × BitVec 16)) : M Unit := do
  let q := ms.foldl phOperand p
  let q := { q with dsp := dspAfter p pop ms, pc := p.pc + 4 }
  let q ← match ptrClash ms with
    | some (i, lo) => do
      let f ← takeFree
      pure (if h : i < 8 then { q with ptrs := q.ptrs.set i (setFld q.ptrs[i] lo (fld f 0 8)) h } else q)
    | none => pure q
  modify fun s => { s with pump := q }
  ms.forM (phTrigger p)
  let taken := ms.any fun m => 0x50 ≤ m.1 && m.1 < 0x5A && phTaken m.1 p.flags
  modify fun s => { s with pump := tickLoads (if s.pump.waiting.isSome || taken then 2 else 1) s.pump }

/-- The sequencer executes: it has not halted, nor has the die in its start-up (R525). -/
def phRuns (s : State) : Bool := s.pump.run && !s.pump.halt && s.pump.waiting.isNone && !s.inReset && s.power.haltStep = 0

/-- One instruction word (R456 to R468). The word is the one at PC; that its address may be fetched is checked, its bits are not
compared with the SRAM (log entry 4). -/
def phStep (w : BitVec 32) : M Unit := do
  let s ← get
  let p := s.pump
  let pc := p.pc.toNat
  let srcs := (phMoves w).map (·.1)
  let pop := srcs.contains 0x39
  if !phRuns s then pure ()
  else if pc % 4 ≠ 0 || (0xA000 ≤ pc && pc < 0xF000) then set (phHalt 2 s)
  else if p.spoilt pc 4 then set (phHalt 6 s)
  else if phIllegal w then set (phHalt 1 s)
  else if pop && !inData p.dsp.toNat then set (phHalt 5 s)
  else if (pop || srcs.contains 0x38) && p.badSram.contains p.dsp.toNat then set (phHalt 6 s)
  else
    let ms ← phSources w
    match ms.findSome? (moveHalts p (ms.foldl phOperand p) (dspAfter p pop ms)) with
    | some c => modify (phHalt c)
    | none =>
      let s ← get
      phExecute s.pump pop ms

def phRow (port : BitVec 8) (m : PhMove) (s : State) : Host.Outcome State Fault Refusal := outcome (phStep (phWord port m)) s

def execAluAddT (m : PhMove) (s : State) : Host.Outcome State Fault Refusal := phRow 0x10 m s
def execAluAdcT (m : PhMove) (s : State) : Host.Outcome State Fault Refusal := phRow 0x11 m s
def execAluSubT (m : PhMove) (s : State) : Host.Outcome State Fault Refusal := phRow 0x12 m s
def execAluSbcT (m : PhMove) (s : State) : Host.Outcome State Fault Refusal := phRow 0x13 m s
def execAluAndT (m : PhMove) (s : State) : Host.Outcome State Fault Refusal := phRow 0x14 m s
def execAluOrT (m : PhMove) (s : State) : Host.Outcome State Fault Refusal := phRow 0x15 m s
def execAluXorT (m : PhMove) (s : State) : Host.Outcome State Fault Refusal := phRow 0x16 m s
def execAluCmpT (m : PhMove) (s : State) : Host.Outcome State Fault Refusal := phRow 0x17 m s
def execAluShlT (m : PhMove) (s : State) : Host.Outcome State Fault Refusal := phRow 0x18 m s
def execAluShrT (m : PhMove) (s : State) : Host.Outcome State Fault Refusal := phRow 0x19 m s
def execAluSarT (m : PhMove) (s : State) : Host.Outcome State Fault Refusal := phRow 0x1A m s
def execAluMovT (m : PhMove) (s : State) : Host.Outcome State Fault Refusal := phRow 0x1B m s
def execPtrAddT (n : Fin 8) (m : PhMove) (s : State) : Host.Outcome State Fault Refusal := phRow (BitVec.ofNat 8 (0x38 + n.val)) m s
def execLsuLdpT (m : PhMove) (s : State) : Host.Outcome State Fault Refusal := phRow 0x41 m s
def execLsuStpT (m : PhMove) (s : State) : Host.Outcome State Fault Refusal := phRow 0x42 m s
def execLsuLdaT (m : PhMove) (s : State) : Host.Outcome State Fault Refusal := phRow 0x43 m s
def execLsuStaT (m : PhMove) (s : State) : Host.Outcome State Fault Refusal := phRow 0x44 m s
def execStkPushT (m : PhMove) (s : State) : Host.Outcome State Fault Refusal := phRow 0x48 m s
/-- A word that reads `stk.pop`. -/
def execStkPop (second : Bool) (dst : BitVec 8) (rest : BitVec 16) (s : State) : Host.Outcome State Fault Refusal :=
  phRow dst (if second then .bus1 0x39 rest else .bus0 0x39 rest) s
def execBrJmpT (m : PhMove) (s : State) : Host.Outcome State Fault Refusal := phRow 0x50 m s
def execBrZT (m : PhMove) (s : State) : Host.Outcome State Fault Refusal := phRow 0x51 m s
def execBrNzT (m : PhMove) (s : State) : Host.Outcome State Fault Refusal := phRow 0x52 m s
def execBrCT (m : PhMove) (s : State) : Host.Outcome State Fault Refusal := phRow 0x53 m s
def execBrNcT (m : PhMove) (s : State) : Host.Outcome State Fault Refusal := phRow 0x54 m s
def execBrNT (m : PhMove) (s : State) : Host.Outcome State Fault Refusal := phRow 0x55 m s
def execBrLtT (m : PhMove) (s : State) : Host.Outcome State Fault Refusal := phRow 0x56 m s
def execBrGeT (m : PhMove) (s : State) : Host.Outcome State Fault Refusal := phRow 0x57 m s
def execBrCallT (m : PhMove) (s : State) : Host.Outcome State Fault Refusal := phRow 0x58 m s
def execBrRetT (m : PhMove) (s : State) : Host.Outcome State Fault Refusal := phRow 0x59 m s
def execEvtWaitT (m : PhMove) (s : State) : Host.Outcome State Fault Refusal := phRow 0x68 m s
def execEvtClrT (m : PhMove) (s : State) : Host.Outcome State Fault Refusal := phRow 0x69 m s
def execTmrT (m : PhMove) (s : State) : Host.Outcome State Fault Refusal := phRow 0x6A m s
def execHbT (m : PhMove) (s : State) : Host.Outcome State Fault Refusal := phRow 0x6B m s

/-! ## Events, timer, mover (R474, R475) -/

/-- A masked event is pending: the sequencer goes on. -/
def evtWaitResume (s : State) : State :=
  match s.pump.waiting with
  | some m => if (evtPend s &&& m) = 0 then s else { s with pump := { s.pump with waiting := none } }
  | none => s
def execEvtWaitResume (s : State) : Host.Outcome State Fault Refusal := .next (evtWaitResume s)

/-- The one-shot timer expires: LTIME, once it counts, reaches its moment (R503; log entry 9). -/
def timerExpiry (s : State) : State :=
  match s.pump.timer with
  | some t =>
    if !s.power.rootLock && s.ltime.ult t then s
    else setEvent 2 { s with pump := { s.pump with timer := none }, ltime := if s.ltime.ult t then t else s.ltime }
  | none => s
def execTimerExpiry (s : State) : Host.Outcome State Fault Refusal := .next (timerExpiry s)

/-- The pumphouse writes PH_MVCTL. -/
def execMoverGo (v : Word) (s : State) : Host.Outcome State Fault Refusal := .next (mvctlStore v s)

/-- Bytes into code or data SRAM. -/
def Pump.putBytes (p : Pump) (a : Nat) (bs : List Byte) : Pump :=
  let p := p.freshCheck a bs.length
  if a < 0xA000 then { p with code := wrBytes p.code a bs } else { p with data := wrBytes p.data (a - 0xA000) bs }

/-- n free bytes. -/
def freeBytes : Nat → M (List Byte)
  | 0 => pure []
  | n + 1 => do
    let v ← takeFree
    let bs ← freeBytes n
    pure (fld v 0 8 :: bs)

/-- The mover has ended: BUSY clears, ERR tells of an error, the event is set. -/
def moverEnd (err : Bool) (s : State) : State :=
  let w := s.pump.mvCtl &&& ~~~(flag true 18 ||| flag true 19)
  setEvent 4 { s with pump := { s.pump with mvCtl := w ||| flag err 19 } }

/-- A failed move is recorded with the cofferdam: a line of this die that it has lost is an event already (R474). -/
def moverError (before : State) (mem : Nat) (tag : BitVec 12) (s : State) : State :=
  if s.coff.nSev = before.coff.nSev then record 0x03 0xFF tag 1 0 (BitVec.ofNat 64 mem) s else s

/-- What a failed move leaves of its destination in this die's memory: free values. A page of the lost-page table is not written (R438), and
neither is an unsaved granule (R418). -/
def spoilRange (tag : BitVec 12) (a : Nat) (bs : List Byte) (s : State) : State :=
  (splitLines a bs.length).foldl (fun t p =>
    if t.ownMem p.1 && !t.lost p.1 && !t.unsaved p.1 then homeWrite tag p.1 ((bs.drop (p.1 - a)).take p.2) t else t) s

/-- The move that PH_MVCTL describes: its bytes go over, or it ends with ERR and leaves its destination free (R474). -/
def moverRun : M Unit := do
  let s ← get
  let p := s.pump
  let n := (fld p.mvCtl 0 13).toNat
  let a := p.mvSram.toNat
  let tag : BitVec 12 := fld p.mvCtl 32 12
  let mem := p.mvAddr.toNat
  if bit p.mvCtl 16 then
    if p.spoilt a n then set (phHalt 6 s)
    else
      set (sramRead a n s)
      let st ← agentWrite .pump tag true mem ((List.range n).map fun i => p.byte (a + i))
      if st = 0 then modify (moverEnd false)
      else
        let bs ← freeBytes n
        modify fun t => moverEnd true (moverError s mem tag (spoilRange tag mem bs t))
  else
    let r ← agentRead .pump tag true mem n
    if r.1 = 0 then modify fun s => moverEnd false { s with pump := s.pump.putBytes a r.2 }
    else
      let bs ← freeBytes n
      modify fun t => let t := moverError s mem tag t; moverEnd true { t with pump := t.pump.putBytes a bs }

/-- The mover works off its move. After a die stop nothing reaches memory (R454). -/
def execMoverDone (s : State) : Host.Outcome State Fault Refusal :=
  if bit s.pump.mvCtl 18 && !s.inReset && !s.coff.dieStop then outcome (do moverRun; modify (clearAnswers .pump)) s else .next s

/-- A write to PH_MBOX sets the event MBOX. -/
def execPhMboxWrite (by_ : Writer) (v : Word) (s : State) : Host.Outcome State Fault Refusal :=
  .next (gated by_ (fun s => setEvent 3 { s with pump := { s.pump with mbox := v } }) s)

end Machine
end Sys2Proof
end

