-- ==== Sys2Proof/Machine/Flit.lean ====
section
/-! DEFINITION. Threshold messages as units, and flits (R531 to R533, R539 to R542). -/

namespace Sys2Proof
namespace Machine

/-! ## Messages as units (R540 to R542) -/

/-- Units of a message by class, opcode and, of an Atomic, SUBOP; none for a reserved opcode. -/
def unitsOf (cls : BitVec 2) (op : BitVec 6) (cas : Bool) : Option Nat :=
  let o := op.toNat
  match cls.toNat with
  | 0 =>
    if (1 ≤ o && o ≤ 8) || o = 0xA || o = 0x10 then some 4
    else if o = 9 then some (if cas then 8 else 6)
    else if o = 0x11 then some 6
    else if o = 0x18 || o = 0x19 then some 2
    else none
  | 1 => if o = 1 || o = 2 || o = 5 then some 2 else if o = 3 || o = 4 then some 4 else none
  | 2 => if 1 ≤ o && o ≤ 4 then some 3 else none
  | _ => if o = 6 then some 19 else if 1 ≤ o && o ≤ 10 then some 17 else none

/-- Unit 0. -/
def unit0 (w : Wire) (len : Nat) : BitVec 32 :=
  (put w.cls 0 ||| put w.op 2 ||| put w.m.tag 8 ||| put w.m.src 20 ||| put w.m.dst 23 ||| BitVec.ofNat 64 ((len - 1) * 2 ^ 27)).setWidth 32

/-- Split a doubleword into its units, low first. -/
def units2 (v : Word) : List (BitVec 32) := [fld v 0 32, fld v 32 32]
def lineUnits (x : BitVec 512) : List (BitVec 32) := (List.range 16).map fun i => x.extractLsb' (32 * i) 32

/-- The units of a message to send. -/
def wireUnits (w : Wire) : List (BitVec 32) :=
  let m := w.m
  let len := (unitsOf w.cls w.op (m.subop = 9)).getD 2
  let req : BitVec 32 := (put m.polder 0 ||| put m.port 12 ||| put m.inc 20 ||| put m.size 28 ||| flag m.tr 31).setWidth 32
  let body : List (BitVec 32) :=
    match w.cls.toNat with
    | 0 =>
      if w.op = 0x18 then [m.op0.setWidth 32]
      else if w.op = 0x19 then [(put m.port 12 ||| put m.inc 20).setWidth 32]
      else (req :: units2 (put m.addr 0 ||| put m.subop 52)) ++ units2 m.op0 ++ units2 m.op1
    | 1 => (put m.status 0 ||| put m.state 4).setWidth 32 :: units2 m.op0
    | 2 => units2 (put m.addr 0)
    | _ => (if w.op = 6 then units2 m.mask else []) ++ lineUnits m.line
  unit0 w len :: body.take (len - 1)

/-- The bits of n units from unit i on. -/
def bitsAt (us : List (BitVec 32)) (i n : Nat) : Nat := ((us.drop i).take n).foldr (fun u x => u.toNat + x * 2 ^ 32) 0
def wordUnit (us : List (BitVec 32)) (i : Nat) : Word := BitVec.ofNat 64 (bitsAt us i 2)

/-- Whether a received unit 0 has a length that the table gives its opcode, and that length. -/
def headLen (u : BitVec 32) : Option Nat :=
  let len := (fld (u.setWidth 64) 27 5).toNat + 1
  let cls : BitVec 2 := fld (u.setWidth 64) 0 2
  let op : BitVec 6 := fld (u.setWidth 64) 2 6
  if unitsOf cls op false = some len || unitsOf cls op true = some len then some len else none

/-- Read a whole message; none where its length differs from its opcode's. -/
def parseWire (us : List (BitVec 32)) : Option Wire :=
  let u0 : Word := (us.headD 0).setWidth 64
  let cls : BitVec 2 := fld u0 0 2
  let op : BitVec 6 := fld u0 2 6
  let u1 : Word := (us.getD 1 0).setWidth 64
  let w2 := wordUnit us 2
  let base : ThMsg := { ThMsg.zero with tag := fld u0 8 12, src := fld u0 20 3, dst := fld u0 23 3 }
  let m : ThMsg :=
    match cls.toNat with
    | 0 =>
      if op = 0x18 then { base with op0 := u1 }
      else if op = 0x19 then { base with port := fld u1 12 8, inc := fld u1 20 8 }
      else { base with polder := fld u1 0 12, port := fld u1 12 8, inc := fld u1 20 8, size := fld u1 28 3, tr := bit u1 31,
                       addr := fld w2 0 52, subop := fld w2 52 4, op0 := wordUnit us 4, op1 := wordUnit us 6 }
    | 1 => { base with status := fld u1 0 4, state := fld u1 4 3, op0 := w2 }
    | 2 => { base with addr := fld (wordUnit us 1) 0 52 }
    | _ => if op = 6 then { base with mask := BitVec.ofNat 64 (bitsAt us 1 2), line := BitVec.ofNat 512 (bitsAt us 3 16) }
           else { base with line := BitVec.ofNat 512 (bitsAt us 1 16) }
  if unitsOf cls op (m.subop = 9) = some us.length then some ⟨cls, op, m⟩ else none

/-! ## Flits (R531, R532) -/

def flitHdr (b : BitVec 2048) : Word := b.extractLsb' 0 64
def flitUnits (b : BitVec 2048) : List (BitVec 32) := (List.range 61).map fun i => b.extractLsb' (64 + 32 * i) 32
def flitCrc (b : BitVec 2048) : BitVec 32 := crc32c ((List.range 252).map fun i => b.extractLsb' (8 * i) 8)
def flitGood (b : BitVec 2048) : Bool := b.extractLsb' 2016 32 = flitCrc b

/-- A flit of a header and units, with its CRC. -/
def mkFlit (hdr : Word) (us : List (BitVec 32)) : BitVec 2048 :=
  let b := BitVec.ofNat 2048 (hdr.toNat + 2 ^ 64 * ((us.take 61).foldr (fun u x => u.toNat + x * 2 ^ 32) 0))
  b ||| BitVec.ofNat 2048 ((flitCrc b).toNat * 2 ^ 2016)

/-- What the units of a flit hold, after the part of a message from before: whole messages, the part that goes on in the next flit, and
the first unit that begins a message. None where a length is not its opcode's. -/
def parseUnits : List (BitVec 32) → Nat → List (BitVec 32) → Option Nat → List Wire → Option (List Wire × List (BitVec 32) × Option Nat)
  | [], _, cur, first, acc => some (acc, cur, first)
  | u :: us, i, cur, first, acc =>
    match cur with
    | [] => if u = 0 then parseUnits us (i + 1) [] first acc
            else if (headLen u).isNone then none
            else parseUnits us (i + 1) [u] (first.orElse fun _ => some i) acc
    | h :: t =>
      let now := (h :: t) ++ [u]
      if headLen h = some now.length then
        match parseWire now with
        | some w => parseUnits us (i + 1) [] first (acc ++ [w])
        | none => none
      else parseUnits us (i + 1) now first acc

/-! ## Sending (R532, R533, R539) -/

/-- The messages that may go now: each class in its order while its credits last, with room left in the flit. The messages taken, those
that stay, and the credits left. -/
def takeMsgs : List Wire → Nat → List Nat → List Nat → List Wire × List Wire × List Nat
  | [], _, cr, _ => ([], [], cr)
  | w :: ws, used, cr, blocked =>
    let k := w.cls.toNat
    if 61 ≤ used then ([], w :: ws, cr)
    else if blocked.contains k || cr.getD k 0 = 0 then
      let r := takeMsgs ws used cr (k :: blocked)
      (r.1, w :: r.2.1, r.2.2)
    else
      let r := takeMsgs ws (used + (wireUnits w).length) (cr.set k (cr.getD k 0 - 1)) blocked
      (w :: r.1, r.2.1, r.2.2)

/-- Credits of each class that one flit returns. -/
def creditBits (owed : Vector Nat 4) : Word :=
  put (BitVec.ofNat 6 (Nat.min 63 owed[0])) 24 ||| put (BitVec.ofNat 6 (Nat.min 63 owed[1])) 30 |||
    put (BitVec.ofNat 6 (Nat.min 63 owed[2])) 36 ||| put (BitVec.ofNat 6 (Nat.min 63 owed[3])) 42

/-- Send one flit: messages that wait, or a credit flit (R533). A peer that has quiesced gets no new message (R554). -/
def sendFlit (n : Fin 8) (s : State) : State :=
  let d := s.doors[n.val]
  let full : Bool := 256 ≤ d.unacked.length
  let quiet := match d.peer with | some k => s.th.quiesced.contains k | none => true
  let (go, stay, cr) :=
    if full || quiet then ([], d.tx, d.credits.toList.map BitVec.toNat)
    else takeMsgs d.tx d.txRest.length (d.credits.toList.map BitVec.toNat) []
  let us := if full then [] else d.txRest ++ go.flatMap wireUnits
  let seq := !us.isEmpty
  let first : BitVec 6 := if go.isEmpty then 63 else BitVec.ofNat 6 d.txRest.length
  let hdr : Word := put (if seq then d.txSeq else d.txSeq - 1) 0 ||| put d.rxSeq 10 ||| flag d.nakOut 20 ||| creditBits d.owed ||| put first 48
  let b := mkFlit hdr us
  s.setDoor n { d with
    tx := stay
    txRest := if full then d.txRest else us.drop 61
    credits := #v[BitVec.ofNat 16 (cr.getD 0 0), BitVec.ofNat 16 (cr.getD 1 0), BitVec.ofNat 16 (cr.getD 2 0), BitVec.ofNat 16 (cr.getD 3 0)]
    owed := d.owed.map fun k => k - 63
    nakOut := false
    l1 := false
    txSeq := if seq then d.txSeq + 1 else d.txSeq
    txflit := if seq then d.txflit + 1 else d.txflit
    unacked := if seq then d.unacked ++ [b] else d.unacked }

/-- A doorway in L1 with nothing to send stays in it (R530). -/
def mustSend (d : Door) : Bool := d.up && !d.training && d.peer.isSome && (!d.l1 || !d.tx.isEmpty || !d.txRest.isEmpty || d.nakOut)

end Machine
end Sys2Proof
end

