-- ==== Sys2Proof/Machine/P384.lean ====
section
/-! DEFINITION. ECDSA over P-384, by the standard that R479 names (PRESUMED: the curve is that of FIPS 186-5 and SP 800-186; log entry 119). -/

namespace Sys2Proof
namespace Machine
namespace P384

open Sha384 (strict)

/-- The field's prime. -/
def prime : Nat := 2 ^ 384 - 2 ^ 128 - 2 ^ 96 + 2 ^ 32 - 1
/-- The order of the base point. -/
def order : Nat := 0xFFFFFFFFFFFFFFFFFFFFFFFFFFFFFFFFFFFFFFFFFFFFFFFFC7634D81F4372DDF581A0DB248B0A77AECEC196ACCC52973
def coeffB : Nat := 0xB3312FA7E23EE7E4988E056BE3F82D19181D9C6EFE8141120314088F5013875AC656398D8A2ED19D2A85C8EDD3EC2AEF
def baseX : Nat := 0xAA87CA22BE8B05378EB1C71EF320AD746E1D3B628BA79B9859F741E082542A385502F25DBF55296C3A545E3872760AB7
def baseY : Nat := 0x3617DE4A96262C6F5D9E98BF9292DC29F8F41DBD289A147CE9DA3113B5F0B8C00A60B1CE1D7E819D7A431D7C90EA0E5F

/-- Difference in the field. -/
def fsub (a b : Nat) : Nat := (a + (prime - b % prime)) % prime

/-- A point (X / Z^2, Y / Z^3); Z = 0 is the point at infinity. -/
structure Point where
  x : Nat
  y : Nat
  z : Nat
  deriving DecidableEq, Repr

def Point.infinity : Point := ⟨1, 1, 0⟩

/-- `k p`, with p evaluated first. -/
def Point.eval {α : Type} (p : Point) (k : Point → α) : α :=
  match p with
  | ⟨x, y, z⟩ => strict x fun x => strict y fun y => strict z fun z => k ⟨x, y, z⟩

/-- y^2 = x^3 - 3x + b. -/
def onCurve (x y : Nat) : Bool := y * y % prime = (x * x % prime * x + (prime - 3) * x + coeffB) % prime

/-- Twice a point. -/
def double (p : Point) : Point :=
  if p.z = 0 || p.y = 0 then Point.infinity
  else
    strict (p.z * p.z % prime) fun zz =>
    strict (p.y * p.y % prime) fun yy =>
    strict (4 * p.x * yy % prime) fun s =>
    strict (3 * fsub p.x zz * ((p.x + zz) % prime) % prime) fun m =>
    strict (fsub (m * m) (2 * s)) fun x =>
    strict (fsub (m * fsub s x) (8 * yy * yy)) fun y =>
    strict (2 * p.y * p.z % prime) fun z => ⟨x, y, z⟩

/-- The sum of two points. -/
def add (p q : Point) : Point :=
  if p.z = 0 then q else if q.z = 0 then p
  else
    strict (p.z * p.z % prime) fun pz =>
    strict (q.z * q.z % prime) fun qz =>
    strict (p.x * qz % prime) fun u =>
    strict (p.y * qz % prime * q.z % prime) fun s =>
    strict (fsub (q.x * pz) u) fun h =>
    strict (fsub (q.y * pz % prime * p.z) s) fun r =>
      if h = 0 then (if r = 0 then double p else Point.infinity)
      else
        strict (h * h % prime) fun hh =>
        strict (h * hh % prime) fun hhh =>
        strict (u * hh % prime) fun v =>
        strict (fsub (r * r) (hhh + 2 * v)) fun x =>
        strict (fsub (r * fsub v x) (s * hhh)) fun y =>
        strict (h * p.z % prime * q.z % prime) fun z => ⟨x, y, z⟩

/-- a P + b Q, from bit n - 1 of a and b on; `pq` is P + Q. -/
def combine (a b : Nat) (p q pq : Point) : Nat → Point → Point
  | 0, acc => acc
  | n + 1, acc =>
    (double acc).eval fun acc =>
    Point.eval (if a.testBit n then (if b.testBit n then add acc pq else add acc p) else if b.testBit n then add acc q else acc) fun acc =>
      combine a b p q pq n acc

/-- x^e modulo the order, from bit n - 1 of e on. -/
def power (x e : Nat) : Nat → Nat → Nat
  | 0, acc => acc
  | n + 1, acc =>
    strict (acc * acc % order) fun sq => strict (if e.testBit n then sq * x % order else sq) fun r => power x e n r

/-- r and s sign the digest under the public key (x, y). -/
def verify (x y digest r s : Nat) : Bool :=
  if r = 0 || s = 0 || order ≤ r || order ≤ s || prime ≤ x || prime ≤ y || !onCurve x y then false
  else
    strict (power s (order - 2) 384 1) fun w =>
    strict (digest * w % order) fun a =>
    strict (r * w % order) fun b =>
      let g : Point := ⟨baseX, baseY, 1⟩
      let q : Point := ⟨x, y, 1⟩
      (add g q).eval fun gq =>
      (combine a b g q gq 384 Point.infinity).eval fun t =>
        t.z ≠ 0 && (t.x = r * t.z % prime * t.z % prime || (r + order < prime && t.x = (r + order) * t.z % prime * t.z % prime))

end P384
end Machine
end Sys2Proof
end

