-- ==== Sys2Proof/Machine/Porch.lean ====
section
/-! DEFINITION. The porch's commands on cores, power, keys, the sluice, the levee, containment, firmware and temperature (ch18). -/

namespace Sys2Proof
namespace Machine

/-- A command that needs nothing but its format. -/
def plain (op : BitVec 8) (p : Packet) (ms : List Word) (body : M Served) (s : State) : Host.Outcome State Fault Refusal :=
  porchRow op p (p.length = 0) ms body (fun _ s => s) s

/-- A PO_RPLCI store: replies that the host has consumed (R486). -/
def execPoRplciWrite (by_ : Writer) (v : Word) (s : State) : Host.Outcome State Fault Refusal :=
  .next (gated by_ (fun s => takeEvents (rplciStore (fld v 0 32) s)) s)

/-! ## Identity, latency, power (R492, R493, R507, R518) -/

def execIdentify (p : Packet) (s : State) : Host.Outcome State Fault Refusal :=
  plain 0x01 p [] (do let s ← get; pure (.reply 0 0 (featVariant s) (feat0 s.variant) (feat1 s.variant))) s

/-- The deepest door state that each present core may enter, two bits a core. -/
def allowedDoors (s : State) : Word :=
  (allCores.filter s.present).foldl (fun w c => w ||| put (tolDoor (s.core c).tol) (2 * c.val)) 0

/-- PW_TOL of a core. One that idles in a state below Open takes it at its next entry (R516); one that idles Open enters the deepest state
allowed now (R513). -/
def setTol (c : CoreId) (tol : BitVec 32) (s : State) : State :=
  let s := s.modCore c fun k => { k with tol := tol }
  if (s.core c).forced then s else settleDoor c s

def setLatency (p : Packet) : M Served := do
  let s ← get
  match maskRefusal s p.p2 true with
  | some r => pure r
  | none =>
    set ((maskCores p.p2).foldl (fun t c => setTol c (fld p.p3 0 32) t) s)
    let s ← get
    pure (.reply 0 0 (allowedDoors s) 0 0)
def execSetLatency (p : Packet) (s : State) : Host.Outcome State Fault Refusal := plain 0x10 p [0xFFFFFFFF, 0xFFFFFFFF] (setLatency p) s

def setQuiet (p : Packet) : M Served := do
  modify fun s => { s with power := { s.power with quiet := fld p.p2 0 32 } }
  let s ← get
  pure (.reply 0 0 (flag (quietAllowed s) 0) 0 0)
def execSetQuiet (p : Packet) (s : State) : Host.Outcome State Fault Refusal := plain 0x11 p [0xFFFFFFFF] (setQuiet p) s

def setPowerCap (p : Packet) : M Served := do
  if p.p2.ult 100 || (300 : Word).ult p.p2 then pure (failed 0xFF02)
  else
    modify fun s => { s with power := { s.power with limit := fld p.p2 0 16, raiseWait := 0 } }
    pure (.reply 0 0 p.p2 0 0)
def execSetPowerCap (p : Packet) (s : State) : Host.Outcome State Fault Refusal := plain 0x12 p [0xFFFF] (setPowerCap p) s

def execPowerStatus (p : Packet) (s : State) : Host.Outcome State Fault Refusal :=
  plain 0x13 p [] (do
    let s ← get
    let k := stepInForce s
    pure (.reply 0 0 (put s.power.power 0) (put k 0 ||| flag (k ≠ 0) 8) (pwDoor s))) s

/-! ## Cores (R434, R516, R523) -/

/-- Ask a core to pause: it is paused at once unless it waits for a device access or an atomic (R434, R516). -/
def askPause (c : CoreId) (s : State) : State :=
  if canPause s c then settleDoor c (setEvent 5 (s.modCore c fun k => { k with paused := true, pausing := false }))
  else s.modCore c fun k => { k with pausing := true }

def corePause (p : Packet) : M Served := do
  let s ← get
  match maskRefusal s p.p2 false with
  | some r => pure r
  | none =>
    set ((maskCores p.p2).foldl (fun t c => askPause c t) s)
    pure (.later (fld p.p2 0 32).toNat 0)
def execCorePause (p : Packet) (s : State) : Host.Outcome State Fault Refusal :=
  porchRow 0x20 p (p.length = 0) [0xFFFFFFFF] (corePause p) (fun _ s => settlePause s) s

def coreResume (p : Packet) : M Served := do
  let s ← get
  match maskRefusal s p.p2 false with
  | some r => pure r
  | none =>
    set ((maskCores p.p2).foldl (fun t c => settleDoor c (t.modCore c fun k => { k with paused := false, pausing := false })) s)
    pure ok0
def execCoreResume (p : Packet) (s : State) : Host.Outcome State Fault Refusal := plain 0x21 p [0xFFFFFFFF] (coreResume p) s

def coreReset (p : Packet) : M Served := do
  let s ← get
  match maskRefusal s p.p2 false with
  | some r => pure r
  | none =>
    set ((maskCores p.p2).foldl (fun t c => settleDoor c (resetCore c false (cleanCore c t))) s)
    pure ok0
def execCoreReset (p : Packet) (s : State) : Host.Outcome State Fault Refusal := plain 0x22 p [0xFFFFFFFF] (coreReset p) s

def execCoreStatus (p : Packet) (s : State) : Host.Outcome State Fault Refusal :=
  plain 0x23 p [] (do
    let s ← get
    let cs := allCores.filter s.present
    let paused := cs.foldl (fun w c => w ||| flag ((s.core c).paused || (s.core c).armPaused) c.val) 0
    let offline := cs.foldl (fun w c => w ||| flag (s.offline c) c.val) 0
    let map := (cs.take 8).foldl (fun w c => w ||| put (s.phys c) (8 * c.val)) 0
    pure (.reply 0 0 paused offline map)) s

/-! ## Keys (R331, R494) -/

def setKey (polder : BitVec 12) (k : Key) (s : State) : State := { s with mem := { s.mem with keys := mset Key.none s.mem.keys polder.toNat k } }

def keyLoad (p : Packet) : M Served := do
  match ← payload p with
  | none => pure (failed 0xFF04)
  | some bs =>
    modify (setKey p.polder ⟨BitVec.ofNat 256 (fromLe (bs.take 32)), BitVec.ofNat 256 (fromLe (bs.drop 32)), bit p.p2 0⟩)
    pure ok0
def execKeyLoad (p : Packet) (s : State) : Host.Outcome State Fault Refusal := porchRow 0x30 p (p.length = 1) [1] (keyLoad p) (fun _ s => s) s

def execKeyErase (p : Packet) (s : State) : Host.Outcome State Fault Refusal :=
  plain 0x31 p [] (do modify (setKey p.polder Key.none); pure ok0) s

/-! ## Sluice objects (R348 to R358, R376 to R380, R402 to R406, R495) -/

/-- A command to the sluice: refused while it is fenced (R491). -/
def toSluice (body : M Served) : M Served := do
  let s ← get
  if s.coff.sluiceFenced then pure (failed 0xFF05) else body

def anyQp (s : State) : Bool := !s.sluice.qps.isEmpty

def slConfig (p : Packet) : M Served := do
  let s ← get
  if anyQp s then pure busy
  else
    set { s with sluice := { s.sluice with
      enabled := true, endpoint := fld p.p2 0 16, udpport := fld p.p2 16 16, bsbase := p.p3 &&& 0xFFFFFFFF00000, hostStore := bit p.p3 0 } }
    pure ok0
def execSlConfig (p : Packet) (s : State) : Host.Outcome State Fault Refusal :=
  plain 0x40 p [0xFFFFFFFF, 0xFFFFFFFF00001] (toSluice (slConfig p)) s

def regionRegister (p : Packet) : M Served := do
  let s ← get
  let i := (fld p.p2 0 18).toNat
  let r := s.region i
  let pgsz : BitVec 2 := fld p.p5 5 2
  let stash : BitVec 3 := fld p.p5 7 3
  if r.state = .revoking then pure busy
  else if p.p4 = 0 || (0x10000000000 : Word).ult p.p4 || pgsz = 3 || (4 : BitVec 3).ult stash || fld p.p6 0 3 ≠ 0 then pure (failed 0xFF02)
  else if !s.sluice.enabled then pure (failed 0xFF03)
  else if r.state = .valid then pure (failed 1)
  else
    let gen := r.gen + 1
    let s := s.setRegion i { Region.none with
      base := p.p3, len := p.p4, polder := p.polder, access := fld p.p5 0 5, state := .valid, gen := gen, pgsz := pgsz, plist := p.p6, stash := stash }
    let miss := s.sluice.ctxmiss
    let s := bringRegion i s
    set { s with sluice := { s.sluice with ctxmiss := miss } }
    pure (.reply 0 0 (put gen 18 ||| BitVec.ofNat 64 i) 0 0)
def execRegionRegister (p : Packet) (s : State) : Host.Outcome State Fault Refusal :=
  plain 0x41 p [0x3FFFF, BitVec.allOnes 64, BitVec.allOnes 64, 0x3FF, BitVec.allOnes 64] (toSluice (regionRegister p)) s

def regionRevoke (p : Packet) : M Served := do
  let s ← get
  let i := (fld p.p2 0 18).toNat
  let r := s.region i
  if r.state = .revoking then pure busy
  else if !roomToAccept s then pure noResource
  else if r.state = .free then pure (failed 1)
  else
    set (s.setRegion i { r with state := .revoking })
    pure (.accepted i 0 0)
def execRegionRevoke (p : Packet) (s : State) : Host.Outcome State Fault Refusal :=
  porchRow 0x42 p (p.length = 0) [0x3FFFF] (toSluice (regionRevoke p)) (fun _ s => settleRegions s) s

/-- A queue pair as created: state RESET, its counters zero, the transport parameters at their defaults. -/
def newQp (polder : BitVec 12) (irte : BitVec 10) (w : Nat → Word) : QueuePair where
  polder := polder
  irte := irte
  sqAddr := w 0
  rqAddr := w 1
  cqAddr := w 2
  sqKey := fld (w 3) 0 32
  rqKey := fld (w 3) 32 32
  cqKey := fld (w 4) 0 32
  sqLog := fld (w 4) 32 5
  rqLog := fld (w 4) 40 5
  cqLog := fld (w 4) 48 5
  pin := bit (w 5) 0
  sqPi := 0
  rqPi := 0
  sqCi := 0
  rqCi := 0
  cqPi := 0
  arm := false
  scnt := 0
  rcnt := 0
  state := 0
  err := 0
  peer := 0
  peerQpn := 0
  ipv6 := false
  ip := 0
  dscp := 0
  mtu := 2
  rtoexp := 4
  retry := 7
  rnrt := 16
  rnrretry := 7
  rmax := 2000
  nextPsn := 0
  opens := []
  held := none
  unacked := []
  peerPsn := 0
  timeouts := 0
  rtoStart := 0
  rnrPsn := 0
  rnrCount := 0
  backoff := none
  rung := 0
  cleanWin := 0
  winM := 0
  winA := 0
  epsn := 0
  ahead := []
  rx := none
  early := []
  msn := 0
  sinceAck := 0
  owed := false
  ce := 0
  atomics := []
  nak := none
  anteNak := none
  parked := []
  onDie := false
  used := 0

/-- The rings of a queue pair pass the checks of R358 and have the sizes of R349. -/
def ringsOk (s : State) (x : QueuePair) : Bool :=
  let ring (key : BitVec 32) (a : Word) (log lo hi size right : Nat) : Bool :=
    decide (lo ≤ log) && decide (log ≤ hi) && fld a 0 6 = 0 && regionOk s x.polder key a.toNat (2 ^ log * size) right false
  ring x.sqKey x.sqAddr x.sqLog.toNat 4 16 64 0 && ring x.rqKey x.rqAddr x.rqLog.toNat 4 16 32 0 && ring x.cqKey x.cqAddr x.cqLog.toNat 6 18 32 1

def pinsFull (s : State) : Bool := decide (12288 ≤ qpCount s (·.pin))

def qpCreate (p : Packet) : M Served := do
  match ← payload p with
  | none => pure (failed 0xFF04)
  | some bs =>
    let s ← get
    let q := (fld p.p2 0 20).toNat
    let x := newQp p.polder (fld p.p2 20 10) (wordAt bs)
    if x.pin && pinsFull s then pure noResource
    else if !s.sluice.enabled then pure (failed 0xFF03)
    else if (s.qp q).isSome then pure (failed 1)
    else if !ringsOk s x then pure (failed 2)
    else
      set (bringQp q (s.setQp q x))
      pure ok0
def execQpCreate (p : Packet) (s : State) : Host.Outcome State Fault Refusal :=
  porchRow 0x43 p (p.length = 1) [0x3FFFFFFF] (toSluice (qpCreate p)) (fun _ s => s) s

/-- The queue pair with its connection set anew: transport parameters, PSNs at 0, no NAK latched (R376, R398, R495). -/
def connect (x : QueuePair) (p : Packet) : QueuePair :=
  { newQp x.polder x.irte (fun _ => 0) with
    sqAddr := x.sqAddr, rqAddr := x.rqAddr, cqAddr := x.cqAddr, sqKey := x.sqKey, rqKey := x.rqKey, cqKey := x.cqKey
    sqLog := x.sqLog, rqLog := x.rqLog, cqLog := x.cqLog, pin := bit p.p7 12
    sqPi := x.sqPi, rqPi := x.rqPi, sqCi := x.sqCi, rqCi := x.rqCi, cqPi := x.cqPi, arm := x.arm, scnt := x.scnt, rcnt := x.rcnt
    state := 2, err := x.err, peer := fld p.p3 0 16, peerQpn := fld p.p3 16 20, ipv6 := bit p.p6 0
    ip := p.p4 ++ p.p5, dscp := fld p.p6 1 6, mtu := fld p.p6 7 2, rtoexp := fld p.p6 9 4, retry := fld p.p6 13 3
    rnrt := fld p.p6 16 16, rnrretry := fld p.p6 32 3, rmax := fld p.p7 0 12, onDie := x.onDie, used := x.used, parked := x.parked }

/-- The transport parameters lie in their ranges. -/
def transportOk (p : Packet) : Bool :=
  2 ≤ (fld p.p6 9 4).toNat && fld p.p6 16 16 ≠ 0 && 1 ≤ (fld p.p7 0 12).toNat && (fld p.p7 0 12).toNat ≤ 2000

/-- A transition of R376 by QP_MODIFY. -/
def mayMove (old new : Nat) : Bool :=
  new = 4 || (old = 0 && new = 1) || (old = 1 && (new = 2 || new = 0)) || (old = 2 && new = 3) || (old = 4 && new = 0)

/-- QP_MODIFY (R373, R376, R377). DESIGN CHOICE: QPSTAT.ERR keeps its status through RESET and the next connection, until the next error;
R376 does not say when it clears (log entry 147). -/
def qpModify (p : Packet) : M Served := do
  let s ← get
  let q := (fld p.p2 0 20).toNat
  let new := (fld p.p2 20 3).toNat
  match s.qp q with
  | none => pure (failed 0xFF02)
  | some x =>
    if new = 2 && bit p.p7 12 && !x.pin && pinsFull s then pure noResource
    else if 4 < new || (new = 2 && !transportOk p) then pure (failed 0xFF02)
    else if !mayMove x.state.toNat new then pure (failed 0xFF03)
    else
      if new = 4 then do
        let f ← takeFree
        failQp q (fld f 0 8) none
      else
        let y := match new with
          | 2 => connect x p
          | 3 => { x with state := 3, rung := 0, cleanWin := 0 }
          | 0 => { x with state := 0, nak := none, anteNak := none }
          | _ => { x with state := 1 }
        set (s.setQp q y)
        if new = 0 then breakWaits q
      let s ← get
      pure (.reply 0 0 (match s.qp q with | some x => qpstat x | none => 0) 0 0)

/-- The defined bits of QP_MODIFY's parameters, by the target state. -/
def modifyMasks (p : Packet) : List Word :=
  if fld p.p2 20 3 = 2 then
    let ip6 := bit p.p6 0
    [0x7FFFFF, 0xFFFFFFFFF, if ip6 then BitVec.allOnes 64 else 0xFFFFFFFF, if ip6 then BitVec.allOnes 64 else 0, 0x7FFFFFFFF, 0x1FFF]
  else [0x7FFFFF]
def execQpModify (p : Packet) (s : State) : Host.Outcome State Fault Refusal :=
  porchRow 0x44 p (p.length = 0) (modifyMasks p) (toSluice (qpModify p)) (fun _ s => settleRegions s) s

def qpDestroy (p : Packet) : M Served := do
  let s ← get
  let q := (fld p.p2 0 20).toNat
  match s.qp q with
  | none => pure (failed 0xFF02)
  | some x =>
    if x.state ≠ 0 then pure (failed 0xFF03)
    else
      set { s with sluice := { s.sluice with qps := mset none s.sluice.qps q none } }
      pure ok0
def execQpDestroy (p : Packet) (s : State) : Host.Outcome State Fault Refusal := plain 0x45 p [0xFFFFF] (toSluice (qpDestroy p)) s

def qpQuery (p : Packet) : M Served := do
  let s ← get
  match s.qp (fld p.p2 0 20).toNat with
  | none => pure (failed 0xFF02)
  | some x => pure (.reply 0 0 (qpstat x) (put x.scnt 0 ||| put x.rcnt 32) (put x.peer 0 ||| put x.peerQpn 16))
def execQpQuery (p : Packet) (s : State) : Host.Outcome State Fault Refusal := plain 0x46 p [0xFFFFF] (toSluice (qpQuery p)) s

def anteQuota (p : Packet) : M Served := do
  let s ← get
  if 512 < (fld p.p2 0 10).toNat then pure (failed 0xFF02)
  else if !s.sluice.enabled then pure (failed 0xFF03)
  else
    set { s with sluice := { s.sluice with quota := mset 16 s.sluice.quota p.polder.toNat (fld p.p2 0 10) } }
    pure ok0
def execAnteQuota (p : Packet) (s : State) : Host.Outcome State Fault Refusal := plain 0x47 p [0x3FF] (toSluice (anteQuota p)) s

/-! ## Levee shards (R408, R409, R427, R430, R496) -/

def toLevee (body : M Served) : M Served := do
  let s ← get
  if s.coff.leveeFenced then pure (failed 0xFF05) else body

def shardOf (p : Packet) : Fin 16 := (fld p.p2 0 4).toFin

def overlap (a n b m : Nat) : Bool := decide (a < b + m) && decide (b < a + n)

/-- Base and length of a shard's regions under a region table. -/
def regionSpans (t : Table (Word × Word)) (first n : Nat) : List (Nat × Nat) :=
  (List.range n).map fun i => let e := mget (0, 0) t (first + i); ((fld e.1 18 34).toNat * 2 ^ 18, (fld e.2 0 21).toNat * 2 ^ 18)

/-- The region table with a payload's entries written from FIRST on. -/
def putRegions (t : Table (Word × Word)) (first n : Nat) (bs : List Byte) : Table (Word × Word) :=
  (List.range n).foldl (fun t i => mset (0, 0) t (first + i) (wordAt bs (2 * i) &&& 0xFFFFFFFFC0000, wordAt bs (2 * i + 1) &&& 0x1FFFFF)) t

/-- Bytes of a shard's slot: 4 KiB and its granules. -/
def slotBytes (spans : List (Nat × Nat)) : Nat := 4096 + spans.foldl (fun n r => n + r.2) 0

/-- The local memory that a shard's slots or its staging ring take. -/
def Shard.ownSpans (x : Shard) (spans : List (Nat × Nat)) : List (Nat × Nat) :=
  if x.remote then [(x.stgBase, x.stgLen)] else [(x.slot false, slotBytes spans), (x.slot true, slotBytes spans)]

/-- R409: what makes a definition fail with DETAIL 1. -/
def shardBad (s : State) (i : Fin 16) (x : Shard) (t : Table (Word × Word)) : Bool :=
  let mine := regionSpans t x.first x.nreg
  let others := (List.finRange 16).flatMap fun j =>
    let y := s.shard j
    if j = i || y.state = .disabled then [] else regionSpans t y.first y.nreg
  let theirs := (List.finRange 16).flatMap fun j =>
    let y := s.shard j
    if j = i || y.state = .disabled then [] else y.ownSpans (regionSpans t y.first y.nreg)
  let all := mine ++ others
  let len := slotBytes mine
  let hits (rs : List (Nat × Nat)) (r : Nat × Nat) : Bool := rs.any fun q => overlap r.1 r.2 q.1 q.2
  mine.any (fun r => !s.ownMem r.1 || !s.ownMem (r.1 + r.2 - 1)) ||
    (List.range mine.length).any (fun a => (List.range all.length).any fun b =>
      a ≠ b && overlap (mine.getD a (0, 0)).1 (mine.getD a (0, 0)).2 (all.getD b (0, 0)).1 (all.getD b (0, 0)).2) ||
    (x.ownSpans mine).any (hits all) || theirs.any (hits mine) ||
    overlap (x.slot false) len (x.slot true) len ||
    allCores.any (fun c => x.cores.getLsbD c.val && !s.present c) ||
    (x.remote && (match s.qp x.qpn with | some q => q.polder ≠ x.polder | none => true))

/-- A parameter of a descriptor or region entry is out of its range. -/
def shardRange (x : Shard) (t : Table (Word × Word)) : Bool :=
  !bit x.desc[0] 44 || 256 < x.first + x.nreg ||
    (regionSpans t x.first x.nreg).any (fun r => r.2 = 0 || 2 ^ 38 < r.2) ||
    (if x.remote then x.stgLen < 8 * 2 ^ 20 || 4096 * 2 ^ 20 < x.stgLen
     else fld x.desc[2] 0 12 ≠ 0 || fld x.desc[3] 0 12 ≠ 0)

/-- The reserved bits of a descriptor and of region entries read as zero (R16, R408). -/
def descMasks : List Word :=
  [~~~(put (3 : Word) 46), put (BitVec.allOnes 42 : BitVec 42) 0, BitVec.allOnes 64, BitVec.allOnes 64,
   0xFFFFFFFF000FFFFF, 0xFFFFFFFFFF000, 0xFFFF, 0]
def maskDesc (bs : List Byte) : Vector Word 8 := Vector.ofFn fun k : Fin 8 => wordAt bs k.val &&& descMasks.getD k.val 0

/-- The length that a SHARD_DEFINE must have for its NREG. -/
def defineLength (bs : List Byte) : Nat := 1 + ((fld (wordAt bs 0) 56 8).toNat + 1 + 3) / 4

/-- LENGTH is the one that the payload asks for; a payload that cannot be read tells nothing. -/
def defineGood (p : Packet) (bytes : Option (List Byte)) : Bool := bytes.all fun bs => p.length.toNat = defineLength bs

def shardDefine (p : Packet) (bytes : Option (List Byte)) : M Served := do
  match bytes with
  | none => pure (failed 0xFF04)
  | some bs =>
    let s ← get
    let i := shardOf p
    let old := s.shard i
    let x : Shard := { old with desc := maskDesc bs }
    let t := putRegions s.levee.regions x.first x.nreg (bs.drop 64)
    if old.state ≠ .idle && old.state ≠ .disabled then pure busy
    else if shardRange x t then pure (failed 0xFF02)
    else if shardBad s i x t then pure (failed 1)
    else
      set (({ s with levee := { s.levee with regions := t } }).setShard i { x with state := .idle })
      pure ok0
def execShardDefine (p : Packet) (s : State) : Host.Outcome State Fault Refusal :=
  porchRowIf 0x50 p (2 ≤ p.length.toNat && p.length.toNat ≤ 65) (payload p) (defineGood p) [0xF] (fun bs => toLevee (shardDefine p bs)) (fun _ s => s) s

def shardDisable (p : Packet) : M Served := do
  let s ← get
  let x := s.shard (shardOf p)
  if x.state ≠ .idle && x.state ≠ .disabled then pure busy
  else
    set (s.setShard (shardOf p) { x with state := .disabled, desc := x.desc.set 0 (x.desc[0] &&& ~~~(flag true 44)) })
    pure ok0
def execShardDisable (p : Packet) (s : State) : Host.Outcome State Fault Refusal := plain 0x51 p [0xF] (toLevee (shardDisable p)) s

/-- The command trigger; a shard that is not IDLE skips it (R413). -/
def leveeCheckpoint (p : Packet) : M Served := do
  let s ← get
  let (started, t) := trigger (shardOf p) 2 s
  set t
  pure (if started then .later (shardOf p).val 0 else busy)
def execLeveeCheckpoint (p : Packet) (s : State) : Host.Outcome State Fault Refusal := plain 0x52 p [0xF] (toLevee (leveeCheckpoint p)) s

def leveeRestore (p : Packet) : M Served := do
  let s ← get
  let i := shardOf p
  let x := s.shard i
  let sel := (fld p.p2 4 2).toNat
  if x.state ≠ .idle then pure busy
  else if !roomToAccept s then pure noResource
  else
    set (s.setShard i { x with state := .restoring, rslot := false, rnewest := sel = 2, rfails := 0, recs := [], copied := 0, crc := 0, phase := 0 })
    pure (.accepted i.val sel p.p3)
def execLeveeRestore (p : Packet) (s : State) : Host.Outcome State Fault Refusal :=
  plain 0x53 p [0x3F, BitVec.allOnes 64] (toLevee (leveeRestore p)) s

def leveeAbort (p : Packet) : M Served := do
  let s ← get
  let i := shardOf p
  let x := s.shard i
  if x.state = .restoring then pure busy
  else if x.busy then
    set (serveQueue (abortCheckpoint i 0x03 s))
    pure (.reply 0 1 0 0 0)
  else pure ok0
def execLeveeAbort (p : Packet) (s : State) : Host.Outcome State Fault Refusal := plain 0x54 p [0xF] (toLevee (leveeAbort p)) s

/-! ## Containment (R440, R447) -/

def execRasStatus (p : Packet) (s : State) : Host.Outcome State Fault Refusal :=
  plain 0x60 p [] (do let s ← get; pure (.reply 0 0 (cfStat s) (lptStat s) (cfSpare s))) s

def execRasCounts (p : Packet) (s : State) : Host.Outcome State Fault Refusal :=
  plain 0x61 p [] (do let s ← get; pure (.reply 0 0 s.coff.nCorr (put s.coff.evDrop 0) s.coff.nSev)) s

/-- Take line n + i of a page back from the other dies that may hold it. -/
def takeBack (tag : BitVec 12) (n i : Nat) : M Unit := fun s =>
  let n := n + i
  let ds := (snoopSet (dirOf s n) true).filter fun d => !s.nodeLost d.val
  if s.th.txns.any fun t => t.line = n then .error .wait s
  else if ds.isEmpty then .ok () s
  else .error .wait (startTxn n .pump 2 false { ThMsg.zero with polder := tag } 1 ds s)

/-- A page is written with zeros under its polder's key, and its entry leaves the table (R440). -/
def releasePage (e : Nat) (x : LostPage) (s : State) : State :=
  let s := (List.range 64).foldl (fun t i =>
    let n := x.page.toNat * 64 + i
    storeLine x.polder n (pokeLine n 0 (setDir n DirEntry.none (dropCopies n (unspoil n t))))) s
  { s with coff := { s.coff with lpt := mset none s.coff.lpt e none } }

def lptRelease (p : Packet) : M Served := do
  let s ← get
  let page : BitVec 40 := fld p.p2 12 40
  match s.coff.lpt.find? fun e => match e.2 with | some x => x.page = page | none => false with
  | some (e, some x) =>
    let a := page.toNat * 4096
    set { s with coff := { s.coff with lpt := mset none s.coff.lpt e (some { x with rel := true }) } }
    (List.range 64).forM (takeBack x.polder (a / 64))
    let s ← get
    if s.unsaved a then
      set (holdWrite (.req .pump (a / 64)) (granOf a) s)
      await
    else
      set (releasePage e x s)
      pure ok0
  | _ => pure (failed 1)
def execLptRelease (p : Packet) (s : State) : Host.Outcome State Fault Refusal := plain 0x62 p [0xFFFFFFFFFF000] (lptRelease p) s

/-- The host has a core fenced: KIND 0x0E; the move is SPARE_ROOM_MOVE's. -/
def coreFence (p : Packet) : M Served := do
  let s ← get
  let c : CoreId := (fld p.p2 0 5).toFin
  match maskRefusal s (flag true c.val) false with
  | some r => pure r
  | none =>
    if !roomToAccept s then pure noResource
    else
      set (contain (fenceCore c) 0x0E (s.corePort c) (s.core c).polder 2 (BitVec.ofNat 16 c.val) s)
      pure (.accepted c.val 0 0)
def execCoreFence (p : Packet) (s : State) : Host.Outcome State Fault Refusal := plain 0x63 p [0x1F] (coreFence p) s

/-! ## Firmware (R497) -/

def execFwInfo (p : Packet) (s : State) : Host.Outcome State Fault Refusal :=
  plain 0x70 p [] (do let s ← get; pure (.reply 0 0 s.pump.fwid (put s.pump.fwReason 0) 0)) s

def fwSvnRaise (p : Packet) : M Served := do
  let s ← get
  let new : BitVec 8 := fld p.p2 0 8
  if (s.background 0x71 0).isSome then pure busy
  else if !roomToAccept s then pure noResource
  else if (fld s.pump.fwid 16 8).ult new || new ≤ s.pump.svnFloor then pure (failed 1)
  else pure (.accepted 0 new.toNat 0)
def execFwSvnRaise (p : Packet) (s : State) : Host.Outcome State Fault Refusal := plain 0x71 p [0xFF] (fwSvnRaise p) s

/-- The fuses are programmed. -/
def fwSvnRaiseDone (s : State) : State :=
  match s.background 0x71 0 with
  | some b =>
    let f := BitVec.ofNat 8 b.n
    let s := { s with pump := { s.pump with svnFloor := f, fwid := setFld s.pump.fwid 24 f } }
    finishBackground b 0 0 s.pump.fwid 0 0 s
  | none => s
def execFwSvnRaiseDone (s : State) : Host.Outcome State Fault Refusal := .next (if s.coff.dieStop then s else fwSvnRaiseDone s)

/-! ## Telemetry (R500) -/

def telemConfig (p : Packet) : M Served := do
  let iv := (fld p.p4 0 32).toNat
  let log := (fld p.p3 0 5).toNat
  if fld p.p2 0 9 ≠ 0 || (log < 4 || 16 < log || (iv ≠ 0 && (iv < 100 || 60000000 < iv))) then pure (failed 0xFF02)
  else
    modify fun s => { s with telem := { s.telem with
      running := iv ≠ 0, stopped := false, base := p.p2, log2 := fld p.p3 0 5, interval := fld p.p4 0 32, count := 0, inFlight := [] } }
    pure ok0
def execTelemConfig (p : Packet) (s : State) : Host.Outcome State Fault Refusal :=
  plain 0x80 p [0xFFFFFFFFFFFFF, 0x1F, 0xFFFFFFFF] (telemConfig p) s

/-- The hottest sensor and its index (R508, R509): signed, in 1/8 °C. -/
def hottest (s : State) : BitVec 16 × Nat :=
  (List.range 96).foldl (fun (b : BitVec 16 × Nat) i => let v := s.power.sensors.toList.getD i 0; if b.1.slt v then (v, i) else b)
    (s.power.sensors[0], 0)

/-- The alert input is in force. -/
def alertActive (s : State) : Bool := s.power.alert

def thermStatus (s : State) : Word :=
  let h := hottest s
  put h.1 0 ||| BitVec.ofNat 64 (h.2 * 2 ^ 16) ||| flag (s.power.thStep ≠ 0) 24 ||| flag (alertActive s) 25

/-- The 512 bytes of a telemetry record (R500). -/
def telemRecord (s : State) (t : TelemSample) : List Byte :=
  let x := s.telem
  let phase := flag (x.count / 2 ^ x.log2.toNat % 2 = 0) 63
  let h := hottest s
  let k := stepInForce s
  let u := s.sluice
  let ws (l : List Word) : List Byte := l.flatMap fun w => toLe 8 w.toNat
  let rails := (List.range 4).map fun r => put (t.railMv.getD r 0) 0 ||| put (t.railMw.getD r 0) 16
  let stackCounts := (List.range 4).flatMap fun i => [x.stackRd.toList.getD i 0, x.stackWr.toList.getD i 0]
  let lastSeq : Word := put (s.coff.evSeq - 1) 0
  ws ([put x.seq 0 ||| phase, s.ltime] ++ rails ++
    [put t.power 0 ||| put k 32 ||| flag (s.power.thStep ≠ 0) 40 ||| flag (s.power.pwStep ≠ 0) 41, put h.1 0 ||| BitVec.ofNat 64 (h.2 * 2 ^ 16)]) ++
    s.power.sensors.toList.flatMap (fun v => toLe 2 v.toNat) ++
    ws (stackCounts ++ [u.bytesTx, u.bytesRx, u.msgsTx, u.msgsRx, t.matrixBusy, t.vectorBusy, if s.coff.evSeq = 0 then 0 else lastSeq]) ++ List.replicate 136 0

/-- One record goes into the ring; a bus error stops telemetry. A record whose writes wait for answers stays the one that was sampled (log entry
11). -/
def telemetrySample (t : TelemSample) : M Unit := do
  let s ← get
  let x := s.telem
  if !x.running || s.inReset || s.coff.dieStop then pure ()
  else
    let s := { s with telem := { x with seq := x.seq + 1 } }
    let bs := if x.inFlight.isEmpty then telemRecord s t else x.inFlight
    set { s with telem := { s.telem with inFlight := bs } }
    let st ← agentWrite .pump 0 true (x.base.toNat + x.count % 2 ^ x.log2.toNat * 512) bs
    modify fun s =>
      let s := { s with telem := { s.telem with inFlight := [] } }
      if st = 0 then { s with telem := { s.telem with count := x.count + 1 } }
      else notify (note 0xE6 0 1 x.base 0 0) { s with telem := { s.telem with running := false, stopped := true } }
def execTelemetrySample (t : TelemSample) (s : State) : Host.Outcome State Fault Refusal :=
  outcome (do telemetrySample t; modify (clearAnswers .pump)) s

/-! ## Temperature and shutdown (R498, R508) -/

def thermLimits (p : Packet) : M Served := do
  let t := (fld p.p2 0 8).toNat
  let c := (fld p.p2 8 8).toNat
  if t < 60 || 105 < t || c < t + 5 || 115 < c then pure (failed 0xFF02)
  else
    modify fun s => { s with power := { s.power with tThrottle := fld p.p2 0 8, tCritical := fld p.p2 8 8 } }
    pure ok0
def execThermLimits (p : Packet) (s : State) : Host.Outcome State Fault Refusal := plain 0x90 p [0xFFFF] (thermLimits p) s

def execThermStatus (p : Packet) (s : State) : Host.Outcome State Fault Refusal :=
  plain 0x91 p [] (do let s ← get; pure (.reply 0 0 (thermStatus s) 0 0)) s

def shutdown (p : Packet) : M Served := do
  let s ← get
  let cs := allCores.filter fun c => s.present c && !s.offline c && !(s.core c).held
  set (cs.foldl (fun t c => askPause c t) s)
  pure (.later (cs.foldl (fun w c => w ||| flag true c.val) (0 : Word)).toNat p.p2)
def execShutdown (p : Packet) (s : State) : Host.Outcome State Fault Refusal :=
  porchRow 0xF0 p (p.length = 0) [1] (shutdown p) (fun _ s => settlePause s) s

end Machine
end Sys2Proof
end

