-- ==== Sys2Proof/Machine/Power.lean ====
section
/-! DEFINITION. Power and thermal steps, the sideband inputs, die-quiet, unit gating, and the loss of clocks and supplies (R502 to R519,
R561 to R572). -/

namespace Sys2Proof
namespace Machine

/-! ## The power controller (R507) -/

/-- The power and thermal controllers act: they have a clock, and the die has not halted at start-up (R503, R525). -/
def controls (s : State) : Bool := !s.inReset && s.clocked && s.power.haltStep = 0

/-- One 1 µs sample: the averages over 10 µs and 1 ms, in mW. After a rise the controller evaluates again 10 µs later; it lowers at most
once per 100 µs. -/
def powerSample (avg10us avg1ms : BitVec 32) (s : State) : State :=
  let p := s.power
  let lim := Nat.min p.limit.toNat 300 * 1000
  let p := { p with power := avg1ms, raiseWait := p.raiseWait - 1, lowerWait := p.lowerWait - 1 }
  let p :=
    if p.raiseWait ≠ 0 then p
    else if lim < avg10us.toNat then { p with pwStep := satInc p.pwStep, raiseWait := 10 }
    else if avg1ms.toNat * 100 < 95 * lim && p.pwStep ≠ 0 && p.lowerWait = 0 then { p with pwStep := p.pwStep - 1, lowerWait := 100 }
    else p
  { s with power := p }
def execPowerSample (avg10us avg1ms : BitVec 32) (s : State) : Host.Outcome State Fault Refusal :=
  .next (if controls s then powerSample avg10us avg1ms s else s)

/-! ## Temperature (R508, R509, R511) -/

def notifyThermal (detail : BitVec 16) (s : State) : State := notify (note 0xE5 0 detail (thermStatus s) 0 0) s

/-- Degrees in the sensors' units. -/
def eighths (t : Int) : Int := 8 * t

/-- The thermal step after a sample whose hottest reading is `h`. The 1 ms of cool samples runs from the first of them; ten sample times
later the step falls (log entry 25). -/
def thermalStep (h : Int) (p : Power) : Power :=
  let tt : Int := p.tThrottle.toNat
  if eighths tt ≤ h then { p with thStep := satInc p.thStep, coolRun := 0 }
  else if h < eighths (tt - 3) && p.thStep ≠ 0 then
    if p.coolRun = 10 then { p with thStep := p.thStep - 1, coolRun := 1 } else { p with coolRun := p.coolRun + 1 }
  else { p with coolRun := 0 }

/-- A core is forced into Ajar, or released. -/
def Core.force (on : Bool) (k : Core) : Core := { k with forced := on }

/-- Every core is forced into Ajar, or released (R511). -/
def forceCores (on : Bool) (s : State) : State :=
  settleDoors { s with cores := s.cores.map (·.force on), power := { s.power with critical := on } }

/-- One sample of the 96 sensors. -/
def thermalSample (temps : List (BitVec 16)) (s : State) : State :=
  let s := { s with power := { s.power with sensors := Vector.ofFn fun i : Fin 96 => temps.getD i.val s.power.sensors[i.val] } }
  let h := (hottest s).1.toInt
  let old := s.power.thStep
  let s := { s with power := thermalStep h s.power }
  let s := if old = 0 && s.power.thStep ≠ 0 then notifyThermal 1 s else if old ≠ 0 && s.power.thStep = 0 then notifyThermal 2 s else s
  if eighths s.power.tCritical.toNat ≤ h && !s.power.critical then notifyThermal 3 (forceCores true s)
  else if h < eighths s.power.tThrottle.toNat && s.power.critical then forceCores false s
  else s
def execThermalSample (temps : List (BitVec 16)) (s : State) : Host.Outcome State Fault Refusal :=
  .next (if controls s then thermalSample temps s else s)

/-- The hottest sensor has stayed at the critical limit for 10 ms. -/
def execCriticalTimeout (s : State) : Host.Outcome State Fault Refusal :=
  .next (if s.power.critical && eighths s.power.tCritical.toNat ≤ (hottest s).1.toInt && !s.coff.dieStop then dieStop s else s)

/-! ## Sideband inputs (R562 to R566) -/

def State.setPin (s : State) (i : Fin 3) (p : Pin) : State := { s with side := { s.side with pins := s.side.pins.set i.val p } }
def State.pin (s : State) (i : Fin 3) : Pin := s.side.pins[i.val]

def setLog (b : Nat) (s : State) : State := { s with side := { s.side with log := s.side.log ||| ((1 : BitVec 6) <<< b) } }

/-- The storm detector trips: the mask begins, and the count starts again. -/
def trip (i : Fin 3) (s : State) : State :=
  let s := setLog i.val (s.setPin i { s.pin i with masked := true, trans := [] })
  { s with side := { s.side with storms := s.side.storms.set i.val (satInc s.side.storms[i.val]) } }

/-- A filtered transition of an input: more than 1,000 within 10 ms (1,000,000 LTIME ticks) trip its detector. -/
def pinTo (i : Fin 3) (active : Bool) (s : State) : State :=
  let p := s.pin i
  if p.filt = active then s
  else
    let recent := s.ltime :: p.trans.filter fun t => s.ltime - t ≤ 1000000
    let p := { p with filt := active, stuck := p.stuck && active, trans := if p.masked then p.trans else recent }
    let s := s.setPin i p
    if !p.masked && 1000 < recent.length then trip i s else s

/-- The value of THERM_ALERT_N as used is the alert step's (R510, R566). -/
def settleAlert (s : State) : State :=
  let p := s.pin 0
  { s with power := { s.power with alert := p.filt || p.masked } }

/-- WAKE_N as used (R563, R566). -/
def wakeActive (s : State) : Bool := let p := s.pin 1; p.filt && !p.masked && !p.stuck

/-- The stacks leave self-refresh, and requests that wait for this die's memory go on (R519). -/
def leaveQuiet (s : State) : State :=
  let s := { s with
    power := { s.power with inQuiet := false }
    mem := { s.mem with ctrls := s.mem.ctrls.map fun (x : Ctrl) => { x with selfRef := false } } }
  serveQueue s

/-- WAKE_N ends die-quiet; it does nothing before READY and nothing after a SHUTDOWN (R565). -/
def settleWake (s : State) : State :=
  if wakeActive s && s.power.inQuiet && s.porch.ready && !s.porch.down && !s.inReset then leaveQuiet s else s

def execThermAlertN (active : Bool) (s : State) : Host.Outcome State Fault Refusal := .next (settleAlert (pinTo 0 active s))
def execWakeN (active : Bool) (s : State) : Host.Outcome State Fault Refusal := .next (settleWake (pinTo 1 active s))

/-- A mask ends: the input takes its filtered value, and the count starts from zero. -/
def stormMaskEnd (i : Fin 3) (s : State) : State :=
  if (s.pin i).masked then settleWake (settleAlert (s.setPin i { s.pin i with masked := false, trans := [] })) else s
def execStormMaskEnd (pin : Fin 3) (s : State) : Host.Outcome State Fault Refusal := .next (stormMaskEnd pin s)

/-- The alert input has been active for more than 1 s outside a mask. -/
def execThermAlertStuck (s : State) : Host.Outcome State Fault Refusal :=
  let p := s.pin 0
  .next (if p.filt && !p.masked then setLog 3 (s.setPin 0 { p with stuck := true }) else s)

/-- The wake input has been active for more than 100 ms outside a mask: it counts as inactive until it is next seen inactive. -/
def execWakeStuck (s : State) : Host.Outcome State Fault Refusal :=
  let p := s.pin 1
  .next (if p.filt && !p.masked then setLog 4 (s.setPin 1 { p with stuck := true }) else s)

/-- A low pulse on RST_N that ends before 10 µs (R564); a mask suppresses its logging. -/
def shortReset (s : State) : State :=
  let s := pinTo 2 false (pinTo 2 true s)
  if (s.pin 2).masked then s else setLog 5 { s with side := { s.side with shorts := satInc s.side.shorts } }
def execRstN (s : State) : Host.Outcome State Fault Refusal := .next (if s.inReset then s else shortReset s)

/-! ## Clocks and supplies (R502, R571, R572) -/

def execRefclkLoss (s : State) : Host.Outcome State Fault Refusal := .next (if s.inReset || s.coff.dieStop then s else dieStop s)

def execRootPllUnlock (s : State) : Host.Outcome State Fault Refusal :=
  let t := { s with power := { s.power with rootLock := false } }
  .next (if s.inReset then s else if s.coff.dieStop then t else dieStop t)

/-- A stack PHY PLL loses lock: a stack interface fault. -/
def execStackPllUnlock (m : Fin 4) (s : State) : Host.Outcome State Fault Refusal :=
  let t := { s with power := { s.power with stackLock := s.power.stackLock &&& ~~~((1 : BitVec 4) <<< m.val) } }
  .next (if s.inReset || nStacks s.variant ≤ m.val then s else if s.coff.dieStop then t else stopWith 0x0D (0x30 + m.val) 0 t)

end Machine

/-- What the die holds once a rail has left its range: an arbitrary state, which no proof can see (R571; log entry 3). -/
opaque Config.lostContents : Nat → Option Machine.State

namespace Machine

/-- The contents of the stacks, of the slots and of every register are undefined. What the doorways have sent, the levels of the pins and the
die stop are the last defined actions. The fuses and the boot ROM are no registers. -/
def loseContents (s : State) : State :=
  let t := (Config.lostContents s.fresh).getD s
  { s with
    cores := t.cores, irtes := t.irtes, wings := t.wings, sluice := t.sluice, levee := t.levee, telem := t.telem
    pump := { t.pump with svnFloor := s.pump.svnFloor, keyHash := s.pump.keyHash, rom := s.pump.rom }
    porch := t.porch
    th := t.th
    coff := { t.coff with dieStop := s.coff.dieStop }
    rooms := t.rooms
    doors := s.doors.mapIdx fun i (d : Door) => { t.doors.toList.getD i d with lmSent := d.lmSent }
    side := { t.side with pins := s.side.pins, faultLow := s.side.faultLow, beatLow := s.side.beatLow }
    ltime := t.ltime
    mem := if Memory.wf t.mem.bytes then t.mem else s.mem
    power := t.power
    fresh := s.fresh + 1 }

/-- A rail (0 VDD_CORE, 1 VDD_SRAM, 2 VDD_PH, 3 VDDQ_HBM) has left its operating range for more than 1 µs. Before start-up step 6 VDDQ_HBM is
judged against its absolute limits only, which is no such departure. -/
def railOut (rail : Nat) (s : State) : State :=
  if rail = 3 && !s.power.hbmWindow then s
  else if rail = 2 then
    let t := loseContents s
    { t with inReset := true, mem := { t.mem with keys := [] }, side := { t.side with faultLow := false, beatLow := false } }
  else loseContents (if s.coff.dieStop then s else dieStop s)
def execRailOutOfRange (rail : Fin 4) (s : State) : Host.Outcome State Fault Refusal := .next (if s.inReset then s else railOut rail.val s)

/-- Supplies are removed: defined only after a SHUTDOWN with P2[0] at 1 (R572). The die is then off until a cold reset. -/
def execPowerRemoval (s : State) : Host.Outcome State Fault Refusal :=
  if s.porch.down && !s.power.inQuiet then
    .next { loseContents s with inReset := true, side := { s.side with faultLow := false, beatLow := false } }
  else .fault (.undefinedOutcome 572)

/-! ## Gating and die-quiet (R517 to R519) -/

/-- A unit that has held no work for 4,096 matrix cycles gates itself, a vector unit that the core does not use among them. -/
def unitPowerGate (c : CoreId) (vector : Bool) (s : State) : State :=
  let k := s.core c
  if !s.present c then s
  else if vector then (if hasLvu s.variant then s.setCore c { k with vuGated := true } else s)
  else if k.flight.isEmpty then s.setCore c { k with mxGated := true } else s
def execUnitPowerGate (c : CoreId) (vector : Bool) (s : State) : Host.Outcome State Fault Refusal := .next (unitPowerGate c vector s)

/-- A queue pair has no work that has not completed. Posted receives are no work under way (log entry 26). -/
def qpIdle (x : QueuePair) : Bool := x.sqPi = x.sqCi && x.opens.isEmpty && x.unacked.isEmpty && x.rx.isNone && x.early.isEmpty && x.parked.isEmpty

/-- The conditions of R518, and a WAKE_N that does not keep the die awake (R563). -/
def mayRest (s : State) : Bool :=
  quietAllowed s && s.porch.ready && !s.porch.down && !s.coff.dieStop && !s.inReset && !s.power.inQuiet && !wakeActive s &&
    allCores.all (fun c => !s.present c || s.offline c || (s.core c).door = 3 || (s.core c).paused || (s.core c).armPaused) &&
    s.wings.all (fun x => x.slots.all fun (y : Slot) => !slotBusy y) &&
    s.levee.shards.all (fun (x : Shard) => x.state = .idle || x.state = .disabled) &&
    s.sluice.qps.all (fun e => match e.2 with | some x => qpIdle x | none => true)

/-- The stacks go into self-refresh, and D2 to D7 into L1 (R518, R530). -/
def dieQuietEntry (s : State) : State :=
  if mayRest s then
    { s with
      power := { s.power with inQuiet := true }
      mem := { s.mem with ctrls := s.mem.ctrls.map fun (x : Ctrl) => if x.present then { x with selfRef := true } else x }
      doors := s.doors.mapIdx fun n d => if 2 ≤ n && d.up then { d with l1 := true } else d }
  else s
def execDieQuietEntry (s : State) : Host.Outcome State Fault Refusal := .next (dieQuietEntry s)

/-- A wake source of R519 is there. -/
def wakeSource (s : State) : Bool :=
  wakeActive s || s.porch.cmdPi ≠ s.porch.cmdCi || !s.th.queued.isEmpty ||
    allCores.any (fun c => s.present c && !s.offline c && !(s.pendingOf c).isEmpty) ||
    s.sluice.qps.any (fun e => match e.2 with | some x => !x.parked.isEmpty | none => false)
def execDieQuietExit (s : State) : Host.Outcome State Fault Refusal :=
  .next (if s.power.inQuiet && !s.porch.down && !s.inReset && wakeSource s then leaveQuiet s else s)

end Machine
end Sys2Proof
end

