-- ==== Sys2Proof/Machine/Start.lean ====
section
/-! DEFINITION. Cold and warm die resets, the start-up steps, vector-mode changes, and the test access (R249, R252, R444, R477 to R480, R498,
R502, R521 to R526, R535, R554, R570, R573, R574, R581). -/

namespace Sys2Proof
namespace Machine

/-! ## Vector mode (R252) -/

/-- Change a core between cellar mode and the enabled unit. -/
def setVector (c : CoreId) (on : Bool) (s : State) : State :=
  let k := s.core c
  if k.vuOn = on then s
  else
    let k := { k with vuOn := on, vcount := 0, vresume := 0, status := setFld k.status 5 (0 : BitVec 1), v := Vector.replicate 32 0 }
    let k := if on then { k with m := Vector.replicate 16 0, vuGated := false } else { k with cm := Vector.replicate 16 0 }
    pendIrq c 0x21 2 15 (s.setCore c k)

/-- The cofferdam marks a core's unit failed: KIND 0x0F (R435, R525 step 11, R574). A store that it has begun leaves its memory unpredictable. -/
def failVector (c : CoreId) (s : State) : State :=
  let s := (s.core c).storing.foldl (unsettleByte c) s
  record 0x0F (s.corePort c) (s.core c).polder 1 (BitVec.ofNat 16 c.val) 0 (s.modCore c fun k => { k with vuFailed := true, storing := [] })

/-- The self-test of one core's unit through the test access (R574). A core in the middle of an access is not at a boundary yet. A unit marked
failed before stays so (R249). -/
def lvuSelfTest (c : CoreId) (passed : Bool) (s : State) : State :=
  if s.inReset || !hasLvu s.variant || !s.present c || s.offline c || !canPause s c then s
  else
    let s := setVector c false s
    if !passed then takeEvents (failVector c s)
    else if (s.core c).vuFailed then s
    else setVector c true s
def execLvuSelfTest (c : CoreId) (passed : Bool) (s : State) : Host.Outcome State Fault Refusal := .next (lvuSelfTest c passed s)

/-! ## Start-up (R525) -/

/-- A start-up that goes on, or the state in which the die has halted or stopped. -/
abbrev Started := Except State State

/-- FAULT_N goes active, and the die halts at a step. -/
def haltAt (step : BitVec 4) (s : State) : State := { s with side := { s.side with faultLow := true }, power := { s.power with haltStep := step } }
def halted (step : BitVec 4) (s : State) : Started := .error (haltAt step s)

/-- Steps 3 and 4: the root PLL, the fuses. Every stack of the variant is present, and PH_FWID shows the SVN floor, from here on. -/
def readFuses (su : StartUp) (s : State) : Started :=
  if !su.pllOk then halted 3 s
  else
    let s := { s with power := { s.power with rootLock := true } }
    if !su.fusesOk then halted 4 s
    else .ok { s with
      pump := { s.pump with fwid := put s.pump.svnFloor 24 }
      mem := { s.mem with ctrls := s.mem.ctrls.mapIdx fun i (x : Ctrl) => { x with present := decide (i < nStacks s.variant) } } }

/-- The lanes of a physical engine that the start-up lane test finds failed. -/
def lanesOf (su : StartUp) (p : Nat) : BitVec 34 :=
  su.badLanes.foldl (fun b l => if l.1 = p && l.2 < 34 then b ||| ((1 : BitVec 34) <<< l.2) else b) 0

/-- The outcome table of R174 without a replay (R175): a room after its lane test. -/
def Room.tested (r : Room) (failed : BitVec 34) : Room :=
  let spareFails : Bool := failed.getLsbD 33 && r.laneMap.isNone
  let r := { r with spareBad := r.spareBad || spareFails }
  match failedLanes r failed with
  | [] => r
  | [l] => if r.laneMap.isNone && !r.spareBad then { r with laneMap := some l } else { r with engineFailed := true }
  | _ => { r with engineFailed := true }

/-- A physical core is beyond repair. -/
def roomBad (su : StartUp) (s : State) (p : Nat) : Bool :=
  su.badCores.contains p || (if h : p < 34 then (s.rooms[p]).engineFailed else false)

/-- A logical core whose room is beyond repair is moved or set offline at once (R447, R448). -/
def moveAtStart (su : StartUp) (acc : State × List CoreId) (c : CoreId) : State × List CoreId :=
  let (s, told) := acc
  if !s.present c || s.offline c || !roomBad su s (s.phys c).toNat then acc
  else
    let s := fencePort (s.corePort c) s
    match freeSpare s with
    | some p =>
      let s := { s with coff := { s.coff with spareFree := s.coff.spareFree &&& ~~~((1 : BitVec 2) <<< (p - 32)) } }
      (openPort p (setCmap c p false s), told ++ [c])
    | none => (setCmap c (s.phys c).toNat true (s.modCore c fun k => { k with stopped := true }), told ++ [c])

/-- What a room's lane test has newly found enters the event queue (R174, R175, R434): the event names the lane that it maps. -/
def tellLanes (su : StartUp) (before : Vector Room 34) (p : Fin 34) (s : State) : State :=
  let old := before[p.val]
  let new := s.rooms[p.val]
  let told (sev : BitVec 2) (lane : Nat) (s : State) : State := record 0x07 p.val 0 sev (BitVec.ofNat 16 lane) 0 s
  let s := if new.spareBad && !old.spareBad then told 0 33 s else s
  if new.engineFailed && !old.engineFailed then told 2 (match (failedLanes old (lanesOf su p.val)).head? with | some l => l.val | none => 0) s
  else
    match new.laneMap with
    | some l => if old.laneMap.isNone then told 1 l.val s else s
    | none => s

/-- A way of a wing cache that fails its test is disabled; one way stays enabled (R311, R444). Past the fourth, the host is to be told (R450). -/
def badWay (acc : State × List (Fin 4 × BitVec 16)) (e : Nat × Nat) : State × List (Fin 4 × BitVec 16) :=
  let (s, told) := acc
  if h : e.1 < 4 then
    let w : Fin 4 := ⟨e.1, h⟩
    let x := s.wings[e.1]
    let one : BitVec 16 := (1 : BitVec 16) <<< e.2
    let dis := x.waydis ||| one
    if nWings s.variant ≤ e.1 || 16 ≤ e.2 || wayOff x e.2 || dis = BitVec.allOnes 16 then acc
    else
      (s.modWing w fun x => { x with waydis := dis, wayFail := x.wayFail ||| one },
        if 4 < ((List.range 16).filter fun i => dis.getLsbD i).length then told ++ [(w, dis)] else told)
  else acc

/-- The sluice and the levee, where they are still at fault, are fenced (R444, R446). -/
def fenceUnits (su : StartUp) (s : State) : State :=
  let s := if su.badSluice && !s.coff.sluiceFenced then fencePort 0x40 { s with coff := { s.coff with sluiceFenced := true } } else s
  if su.badLevee && !s.coff.leveeFenced then fencePort 0x41 { s with coff := { s.coff with leveeFenced := true } } else s

/-- What step 5 leaves to tell: the logical cores that it has moved or set offline, and the wing caches that it has degraded. -/
abbrev Told := List CoreId × List (Fin 4 × BitVec 16)

/-- Step 5: lane tests, spare rooms, ways, fences and mappings. -/
def selfTest (su : StartUp) (s : State) : Except State (State × Told) :=
  if su.badHome then .error (haltAt 5 s)
  else
    let before := s.rooms
    let s := { s with rooms := s.rooms.mapIdx fun p r => r.tested (lanesOf su p) }
    let s := (List.finRange 34).foldl (fun t p => tellLanes su before p t) s
    let (s, wings) := su.badWays.foldl badWay (fenceUnits su s, [])
    let bad (i : Nat) : BitVec 2 := if roomBad su s (32 + i) then (1 : BitVec 2) <<< i else 0
    let s := { s with coff := { s.coff with spareFree := s.coff.spareFree &&& ~~~(bad 0 ||| bad 1) } }
    let (s, moved) := allCores.foldl (moveAtStart su) (s, [])
    .ok (s, moved, wings)

/-- Step 6: the stacks train, leave self-refresh, and hard row repairs run; the window of VDDQ_HBM is set (R571). -/
def trainStacks (su : StartUp) (s : State) : Started :=
  let have_ := (List.range 4).filter fun i => i < nStacks s.variant
  let good (i : Nat) : Bool := i < nStacks s.variant && su.stacksOk.getLsbD i
  let s := { s with
    mem := { s.mem with
      ctrls := s.mem.ctrls.mapIdx fun i (x : Ctrl) => if good i then { x with trained := true, selfRef := false } else x
      hardRows := [] }
    power := { s.power with hbmWindow := true, stackLock := BitVec.ofNat 4 (have_.foldl (fun n i => if good i then n + 2 ^ i else n) 0) } }
  match have_.find? fun i => !good i with
  | some i => .error (stopWith 0x0D (0x30 + i) 0 s)
  | none => .ok s

/-- The rate that a doorway selects: the highest that passes, no higher than MAXRATE (R528). -/
def Door.rateFor (d : Door) (rate : BitVec 2) : BitVec 2 := let m : BitVec 2 := fld d.ctl 2 2; if m.ult rate then m else rate

/-- A doorway trains, at a rate and width, or is down (R528). The sides of the link start with FSEQ 1. -/
def Door.trained (d : Door) (r : DoorTrain) : Door :=
  { d.down with
    up := r.ok, lost := d.lost && !r.ok, rate := if r.ok then d.rateFor r.rate else 0, x32 := r.ok && r.x32, repaired := r.ok && r.repaired
    peer := none, coherent := false, txSeq := 1, rxSeq := 0, credits := Vector.replicate 4 0, owed := Vector.replicate 4 0, failed := [] }

/-- A peer's credits: REQ, RSP, SNP, DAT. -/
def creditsOf (c : Word) : Vector (BitVec 16) 4 := #v[fld c 0 16, fld c 16 16, fld c 32 16, fld c 48 16]

/-- The INIT exchange of one doorway has completed: its peer, coherence and credits (R535). -/
def linkUp (n : Fin 8) (p : PeerInit) (s : State) : State :=
  let k : BitVec 3 := p.node.setWidth 3
  settleIdle ((moveTo k s).modDoor n fun d =>
    { d with peer := some k, coherent := bit (p.cap.setWidth 64) 0, credits := creditsOf p.credits, owed := Vector.replicate 4 0, txSeq := 1, rxSeq := 0 })

/-- One doorway at step 7: trained where DW_CTL.EN is 1. -/
def startDoor (su : StartUp) (s : State) (n : Fin 8) : State :=
  let d := s.doors[n.val]
  if !bit d.ctl 0 then s
  else
    let s := { s with power := { s.power with doorLock := s.power.doorLock ||| ((1 : BitVec 8) <<< n.val) } }
    s.setDoor n (d.trained (su.doors.getD n.val ⟨false, 0, false, false⟩))

/-- The peer's VERSION is another one, or its credits are below the minimum (R535). -/
def badPeer (p : PeerInit) : Bool :=
  let c := p.credits
  p.version ≠ 1 || (fld c 0 16).toNat < 8 || (fld c 16 16).toNat < 16 || (fld c 32 16).toNat < 8 || (fld c 48 16).toNat < 16

/-- A peer refused: the doorway stays down, KIND 0x0C with SEV 1. -/
def refusePeer (n : Fin 8) (s : State) : State :=
  let s := s.modDoor n Door.down
  if s.coff.dieStop then s else record 0x0C (0x38 + n.val) 0 1 0 0 s

/-- The start-up halts with FAULT_N active (R535). Once it has ended, FAULT_N is all there is of that. -/
def linkHalt (s : State) : State :=
  if s.porch.ready || s.porch.fwOnly then { s with side := { s.side with faultLow := true } } else haltAt 7 s

/-- TH_NODE becomes valid: INIT starts on the trained doorways among D2 to D7. -/
def takeNode (d : BitVec 8) (s : State) : State :=
  if h : d.toNat < 4 then
    if s.th.node.isSome then s
    else (farDoors.filter fun n => (s.doors[n.val]).up).foldl (fun t n => sendLm n 1 t) { s with th := { s.th with node := some ⟨d.toNat, h⟩ } }
  else s

/-- The peer's INIT on a trained doorway (R535). An INIT of the IO die that assigns another node, or a peer with this die's own node, halts the
start-up. The link of a lost node comes up no more until a cold reset (R555). -/
def takeInit (n : Fin 8) (p : PeerInit) (s : State) : Started :=
  let k : BitVec 3 := p.node.setWidth 3
  let near : Bool := n.val < 2
  if badPeer p then .ok (refusePeer n s)
  else if 8 ≤ p.node.toNat then .ok s
  else if near && p.node = 4 && p.assign ≠ 0xFF && s.th.node.any (fun o => o.val ≠ p.assign.toNat) then .error (linkHalt s)
  else if !near && s.th.node.any (fun o => o.val = p.node.toNat) then .error (linkHalt s)
  else if (s.doors[n.val]).peer.isSome || s.nodeLost p.node.toNat then .ok s
  else
    let s := if near && p.node = 4 then takeNode p.assign s else s
    let s := { s with th := { s.th with quiesced := s.th.quiesced.filter (· ≠ k) } }
    .ok (releaseTo k (linkUp n p s))

/-- The INIT that comes on a trained doorway at step 7. -/
def startLink (su : StartUp) (n : Fin 8) (s : State) : Started :=
  match su.peers.getD n.val none with
  | some p => if (s.doors[n.val]).up then takeInit n p s else .ok s
  | none => .ok s

/-- Step 7: the doorways train; D0 and D1 send INIT and bring the node, then D2 to D7 do (R535). -/
def trainDoors (su : StartUp) (s : State) : Started := do
  let near : List (Fin 8) := [0, 1]
  let s := (List.finRange 8).foldl (startDoor su) s
  if !(s.doors[0]).up && !(s.doors[1]).up then halted 7 s
  else
    let s := (near.filter fun n => (s.doors[n.val]).up).foldl (fun t n => sendLm n 1 t) s
    let s ← near.foldlM (fun t n => startLink su n t) s
    if s.th.node.isNone then pure s else farDoors.foldlM (fun t n => startLink su n t) s

/-- On refusal the code SRAM is zeroed, and the host is told; the die serves the firmware commands only (R480, R499). -/
def refuseFirmware (reason : BitVec 8) (s : State) : State :=
  let s := { s with pump := { s.pump with code := [], fwReason := reason } }
  notify (note 0xE1 0x40 (reason.setWidth 16) s.pump.fwid 0 0) { s with porch := { s.porch with fwOnly := true } }

/-! ## The firmware image (R478, R479) -/

/-- A little-endian field of an image. -/
def imgField (img : List Byte) (o n : Nat) : Nat := fromLe ((img.drop o).take n)
def imgLen (img : List Byte) : Nat := imgField img 8 2
def imgEntry (img : List Byte) : Nat := imgField img 0xA 2
def imgSvn (img : List Byte) : BitVec 8 := BitVec.ofNat 8 (imgField img 6 1)

/-- A big-endian field of an image. -/
def imgBe (img : List Byte) (o n : Nat) : Nat := Sha384.fromBe ((img.drop o).take n)

/-- MAGIC, the reserved fields, LEN and ENTRY are as R478 tables them. -/
def imageFormat (img : List Byte) : Bool :=
  imgField img 0 4 = 0x46574850 && imgField img 7 1 = 0 && imgField img 0xC 4 = 0 && imgField img 0x71 15 = 0 &&
    imgLen img % 4 = 0 && decide (4 ≤ imgLen img) && decide (imgLen img ≤ 40960) &&
    imgEntry img % 4 = 0 && decide (imgEntry img < imgLen img)

/-- The signature holds over the header and the code. -/
def imageSigned (img : List Byte) : Bool :=
  let n := 0x80 + imgLen img
  imgField img 0x10 1 = 4 &&
    P384.verify (imgBe img 0x11 48) (imgBe img 0x41 48) (Sha384.digest (img.take n)) (imgBe img n 48) (imgBe img (n + 48) 48)

/-- The reason that refuses an image (R499): 1 its format, 2 its key, 3 its SVN, 4 its signature; 0 where it is accepted. -/
def imageReason (hash : BitVec 384) (floor : BitVec 8) (img : List Byte) : BitVec 8 :=
  if !imageFormat img then 1
  else if Sha384.digest ((img.drop 0x10).take 97) ≠ hash.toNat then 2
  else if (imgSvn img).ult floor then 3
  else if !imageSigned img then 4
  else 0

/-- The IO die serves every byte that the boot ROM reads of the image. -/
def imageServed (img : List Byte) : Bool :=
  decide (0x80 ≤ img.length) && (!imageFormat img || decide (0x80 + imgLen img + 96 ≤ img.length))

/-- The image is accepted: its code is loaded at 0, LOCK is set, BOOTROM clears, and the sequencer goes to ENTRY (R469, R479). -/
def runFirmware (img : List Byte) (s : State) : State :=
  let id : Word := BitVec.ofNat 64 (imgField img 4 2) ||| put (imgSvn img) 16 ||| put s.pump.svnFloor 24
  { s with pump := { s.pump with
      code := wrBytes [] 0 ((img.drop 0x80).take (imgLen img)), fwid := id, fwReason := 0, lock := true, bootrom := false
      pc := BitVec.ofNat 16 (imgEntry img) } }

/-- Start-up location of the backing store: 272 MiB below the top of the die's memory (R378). -/
def storeStart (s : State) : Nat := s.memBase + nStacks s.variant * 2 ^ 36 - 272 * 2 ^ 20

/-- Step 10: the backing store and the spill areas are reserved, and the cores are released (R515, R520). A core whose fence still waits
for its recovery stays held. -/
def releaseCores (s : State) : State :=
  let b := storeStart s
  { s with
    sluice := { s.sluice with bsbase := BitVec.ofNat 64 b }
    cores := s.cores.mapIdx fun n k =>
      let c : CoreId := ⟨n % 32, Nat.mod_lt _ (by decide)⟩
      let k := { k with spill := BitVec.ofNat 64 (b - (32 - n) * (192 * 1024)) }
      if s.present c && !s.offline c && (s.gate (s.corePort c)).open_ then { k with held := false, pc := k.rvec } else k }

/-- Step 11: the long-vector units are tested and enabled; a unit that fails leaves its core in cellar mode. -/
def startVectors (su : StartUp) (s : State) : State :=
  if !hasLvu s.variant then s
  else
    allCores.foldl (fun t c =>
      if !t.present c || t.offline c then t
      else if su.badLvu.contains c.val then failVector c t
      else setVector c true t) s

/-- The pumphouse reports a sticky sideband bit (R570): the event is one of its own, and its RAS_EVENT waits for no recovery of events that the
queue has kept. -/
def reportBit (i : Nat) (s : State) : State :=
  let f := s.coff
  let e : Event := ⟨0x0C, 0xFF, 0, 0, 1, BitVec.ofNat 16 (0x100 + i), 0, s.ltime, f.evSeq, 0, true⟩
  notify (note 0xE2 0 (put e.kind 0 ||| put e.sev 8 |>.setWidth 16) e.dw0 e.addr e.dw3) { s with coff := { f with evSeq := f.evSeq + 1, nSev := f.nSev + 1 } }

/-- Every sticky sideband bit. -/
def reportLog (s : State) : State := (List.range 6).foldl (fun t i => if t.side.log.getLsbD i then reportBit i t else t) s

/-- The moves of step 5 are told, and the cores of their polder hear of them as step 6 of R447 says. -/
def tellMoves (cs : List CoreId) (s : State) : State :=
  cs.foldl (fun t c =>
    if t.offline c then reportMove c 0x3F t
    else reportMove c (t.phys c).toNat (noteCores 0 (fun w => setFld (w ||| 2) 58 (BitVec.ofNat 6 c.val)) t)) s

/-- A doorway that has not trained is reported after READY. -/
def reportDoors (su : StartUp) (s : State) : State :=
  (List.finRange 8).foldl (fun t n =>
    if bit (t.doors[n.val]).ctl 0 && !(su.doors.getD n.val ⟨false, 0, false, false⟩).ok then record 0x0C (0x38 + n.val) 0 1 0 0 t else t) s

/-- Step 12, with what is told around READY (R499, R526, R570). -/
def postReady (su : StartUp) (told : Told) (s : State) : State :=
  let s := told.2.foldl (fun t e => tellDegraded e.1 [e.2] t) (tellMoves told.1 s)
  let s := reportLog (takeEvents s)
  let s := notify (note 0xE0 0 0 (featVariant s) (feat0 s.variant) (feat1 s.variant)) s
  takeEvents (reportDoors su { s with porch := { s.porch with ready := true } })

/-- Steps 8 to 12. Where no image has come, the die waits for it. The fetch through the mover is part of the step (log entry 77). -/
def firmware (su : StartUp) (told : Told) (s : State) : State :=
  match su.image with
  | none => s
  | some img =>
    if s.th.node.isNone || !imageServed img then s
    else
      let reason := imageReason s.pump.keyHash s.pump.svnFloor img
      if reason ≠ 0 then refuseFirmware reason s
      else postReady su told (startVectors su (releaseCores (runFirmware img s)))

/-- Steps 3 to 12 of R525. -/
def startUp (su : StartUp) (s : State) : State :=
  match readFuses su s with
  | .error s => s
  | .ok s =>
    match selfTest su s with
    | .error s => s
    | .ok (s, told) =>
      match trainStacks su s with
      | .error s => s
      | .ok s =>
        match trainDoors su s with
        | .error s => s
        | .ok s => firmware su told s

/-- No image has come within 1 s (R525 step 8): a die that waits for one refuses with reason 1. -/
def fwFetchTimeout (s : State) : State :=
  let waits : Bool := !s.porch.ready && !s.porch.fwOnly && !s.inReset && !s.coff.dieStop && !s.side.faultLow && s.power.rootLock && s.pump.bootrom
  if waits then refuseFirmware 1 s else s
def execFwFetchTimeout (s : State) : Host.Outcome State Fault Refusal := .next (fwFetchTimeout s)

/-! ## Cold reset (R521, R564) -/

/-- What a cold reset leaves: every unit at its reset values. The fuses, the boot ROM, the measured temperatures, the sideband filters and,
but at power-on, the sideband log stay. -/
def coldClear (powerOn : Bool) (s : State) : State :=
  let r := State.resetOf s.variant
  -- the filters' window of 10 ms goes on over the new start of LTIME (R566)
  let pins := s.side.pins.map fun (p : Pin) => { p with trans := p.trans.map (· - s.ltime) }
  let side := if powerOn then { Sideband.reset with pins := pins } else { s.side with pins := pins, faultLow := false, beatLow := false }
  { r with
    stepping := s.stepping
    wings := r.wings.mapIdx fun i (x : Wing) => { x with wayFail := ((s.wings.toList)[i]?.map (·.wayFail)).getD 0 }
    mem := { r.mem with noSpare := s.mem.noSpare }
    pump := { r.pump with svnFloor := s.pump.svnFloor, keyHash := s.pump.keyHash, rom := s.pump.rom }
    power := { r.power with alert := s.power.alert, rstCause := if powerOn then 0 else 1, sensors := s.power.sensors, coreMv := s.power.coreMv }
    side := side
    tap := if s.tap.ir = .extest then ⟨.bypass, 0⟩ else s.tap
    fresh := s.fresh
    pending := s.pending }

/-- Power-on, or RST_N low for 10 µs or more; then the start-up. -/
def coldReset (powerOn : Bool) (su : StartUp) (s : State) : State :=
  let s := if powerOn then s else pinTo 2 false (pinTo 2 true s)
  startUp su (coldClear powerOn s)
def execColdReset (powerOn : Bool) (su : StartUp) (s : State) : Host.Outcome State Fault Refusal := .next (coldReset powerOn su s)

/-! ## Warm die reset (R521, R522) -/

/-- A core after a warm die reset: held until step 10; an offline core's clock stays stopped. -/
def Core.warm (k : Core) : Core := { Core.reset with pc := k.rvec, rvec := k.rvec, stopped := k.stopped }

/-- Memory after a warm die reset: dirty cached data is lost, and what caches held of other nodes' lines is gone; without a node there is none. The
stacks keep their metadata, from which the directory is rebuilt: which lines other dies hold (R434, R581). -/
def warmMem (selfRef : Bool) (s : State) : Mem :=
  let t := s.mem.stale.foldl (fun t e => discardLine e.1 t) s
  { Mem.reset with
    bytes := if s.th.node.isSome then mdrop (fun a => !s.ownMem a) t.mem.bytes else t.mem.bytes
    dir := t.mem.dir
    scrubbed := t.mem.scrubbed
    passes := t.mem.passes
    lineKey := t.mem.lineKey
    keys := t.mem.keys
    ctrls := t.mem.ctrls.map fun (x : Ctrl) => { Ctrl.reset with selfRef := selfRef && x.present }
    errs := t.mem.errs
    noSpare := t.mem.noSpare
    hardRows := t.mem.hardRows }

/-- The floodgates that only the die stop has closed open again, with their next incarnation (R443, R444). -/
def reopen (s : State) : Table Gate :=
  if s.coff.dieStop then s.coff.gates.map fun e => if e.2.open_ then (e.1, { e.2 with inc := nextInc e.2.inc }) else e else s.coff.gates

/-- A checkpoint under way leaves its slot without a valid record (R428): before the copy begins the old one still stands, in local memory
(log entry 122). -/
def spoilAtReset (s : State) : State :=
  (List.finRange 16).foldl (fun t i =>
    let x := t.shard i
    let a := x.slot x.next
    if x.busy && x.state ≠ .committing && x.phase = 0 && !x.remote && t.ownMem a then
      storeLine x.polder (a / 64) (pokeLine (a / 64) 0 (dropCopies (a / 64) (discardLine (a / 64) t)))
    else t) s

/-- What a warm die reset leaves. -/
def warmClear (cause : BitVec 2) (s : State) : State :=
  let r := State.resetOf s.variant
  { r with
    stepping := s.stepping
    cores := s.cores.map (·.warm)
    rooms := s.rooms
    wings := s.wings.map fun (x : Wing) => { Wing.reset with waydis := x.waydis, wayErrs := x.wayErrs, wayBad := x.wayBad, wayFail := x.wayFail }
    mem := warmMem (cause = 2) (spoilAtReset s)
    sluice := { r.sluice with
      regions := s.sluice.regions.map fun e => (e.1, { Region.none with gen := e.2.gen }), wire := s.sluice.wire
      bytesTx := s.sluice.bytesTx, bytesRx := s.sluice.bytesRx, msgsTx := s.sluice.msgsTx, msgsRx := s.sluice.msgsRx }
    coff := { s.coff with gates := reopen s, dieStop := false, recovering := false, defCore := 0, late := [] }
    pump := { r.pump with svnFloor := s.pump.svnFloor, keyHash := s.pump.keyHash, rom := s.pump.rom }
    power := { r.power with
      coreMv := s.power.coreMv, alert := s.power.alert, rstCause := (cause.setWidth 3) ||| (if s.coff.dieStop then 4 else 0), sensors := s.power.sensors }
    side := { s.side with faultLow := false, beatLow := false }
    doors := s.doors.map fun (d : Door) => { Door.reset with lmSent := d.lmSent }
    th := { r.th with lost := s.th.lost }
    telem := { r.telem with stackRd := s.telem.stackRd, stackWr := s.telem.stackWr }
    tap := s.tap
    ltime := s.ltime
    fresh := s.fresh
    pending := s.pending }

/-- A warm die reset by command: once every core is paused and nothing is left to send, QUIESCE goes out, and the die resets (R522, R554). -/
def warmByCommand (su : StartUp) (s : State) : State :=
  match s.porch.direct with
  | none => s
  | some b =>
    if s.cores.any (fun (k : Core) => k.pausing) then s
    else
      let s := if b.n = 0 then startDirect { b with n := 1 } (evictRemote (flushDirty s)) else s
      if quietOut (List.finRange 8) s then
        startUp su (warmClear 2 ((List.finRange 8).foldl (fun t n => quiesceDoor n t) (flushDirty s)))
      else s

/-- The reply is written; then every core pauses. -/
def beginReset (op : BitVec 8) (p : Packet) (s : State) : State :=
  let cs := allCores.filter fun c => s.present c && !s.offline c && !(s.core c).held
  startDirect ⟨p.tag, op, quietly p, 0, 0, 0⟩ (cs.foldl (fun t c => askPause c t) s)

/-- DIE_RESET or FW_RELOAD: the OK reply, then the reset. A reset that waits for requests under way goes on when the row is issued again
(log entry 11). -/
def resetRow (op : BitVec 8) (p : Packet) (su : StartUp) (s : State) : Host.Outcome State Fault Refusal :=
  let under : Bool := match s.porch.direct with | some b => b.opcode = op && b.tag = p.tag | none => false
  if under then .next (if s.coff.dieStop || s.inReset then s else warmByCommand su s)
  else porchRow op p (p.length = 0) [] (pure ok0) (fun r t => if r = ok0 then warmByCommand su (beginReset op p t) else t) s

def execFwReload (p : Packet) (su : StartUp) (s : State) : Host.Outcome State Fault Refusal := resetRow 0x72 p su s
def execDieReset (p : Packet) (su : StartUp) (s : State) : Host.Outcome State Fault Refusal := resetRow 0xF1 p su s

/-- A write to PW_WRST: with 0x5752 in [15:0] the die resets at once and writes nothing back; STOP goes out first unless a die stop has sent
it (R522, R555). A die that a SHUTDOWN has taken down leaves that state by DIE_RESET or a cold reset only (R565), and one halted at step 3 or 4
waits for RST_N (R568). -/
def execPwWrst (by_ : Writer) (v : Word) (su : StartUp) (s : State) : Host.Outcome State Fault Refusal :=
  if writerShut by_ s then .next (gated by_ id s)
  else if s.inReset || s.porch.down || s.power.haltStep = 3 || s.power.haltStep = 4 || fld v 0 16 ≠ (0x5752 : BitVec 16) then .next s
  else
    let s := if s.coff.dieStop then s else (upDoors s).foldl (fun t n => sendLm n 3 t) s
    .next (startUp su (warmClear 3 s))

/-! ## Test access (R573) -/

def execIdcode (s : State) : Host.Outcome State Fault Refusal := .next { s with tap := ⟨.idcode, Config.tapIdcode.setWidth 64⟩ }
def execBypass (s : State) : Host.Outcome State Fault Refusal := .next { s with tap := ⟨.bypass, 0⟩ }

/-- The boundary register captures the pins; its layout is not stated, so what it holds is a free value (log entry 3). -/
def execSamplePreload (s : State) : Host.Outcome State Fault Refusal :=
  let (v, s) := s.free
  .next { s with tap := ⟨.samplePreload, v⟩ }

/-- A pin-driving instruction is available while RST_N is low; otherwise it is executed as BYPASS. -/
def execExtest (outputs : BitVec 2) (s : State) : Host.Outcome State Fault Refusal :=
  .next { s with tap := if s.inReset then ⟨.extest, outputs.setWidth 64⟩ else ⟨.bypass, 0⟩ }

end Machine
end Sys2Proof
end

