-- ==== Sys2Proof/Machine/Threshold.lean ====
section
/-! DEFINITION. Doorways and the Threshold protocol: training, link-up, flits, and the messages that arrive (R527 to R556). -/

namespace Sys2Proof
namespace Machine

/-! ## Training and retraining (R528, R529) -/

/-- This side may exchange INIT on a doorway: D0 and D1 always, the others once TH_NODE is valid (R535). -/
def mayInit (n : Fin 8) (s : State) : Bool := n.val < 2 || s.th.node.isSome

def sendInit (n : Fin 8) (s : State) : State := if mayInit n s then sendLm n 1 s else s

/-- A doorway that is down, or is retraining from new, trains. -/
def trainDoor (n : Fin 8) (ok : Bool) (rate : BitVec 2) (x32 repaired : Bool) (s : State) : State :=
  let d := s.doors[n.val]
  if !bit d.ctl 0 || s.inReset then s
  else
    let e := d.trained ⟨ok, rate, x32, repaired⟩
    let s := { s with power := { s.power with doorLock := s.power.doorLock ||| ((1 : BitVec 8) <<< n.val) } }
    let s := s.setDoor n e
    if ok then sendInit n s else s

/-- A retrain of an up doorway ends: numbers and messages stay (R529). The third failure within 1 ms loses the doorway (R555; log entry 29). -/
def retrainDoor (n : Fin 8) (ok : Bool) (f : Door → Door) (s : State) : State :=
  let d := s.doors[n.val]
  let d := { d with retrains := satInc d.retrains, l1 := false }
  let failed := s.ltime :: d.failed.filter fun t => s.ltime - t < 100000
  if ok then s.setDoor n { f d with training := false }
  else if 3 ≤ failed.length then doorDown n true (s.setDoor n { d with failed := [] })
  else s.setDoor n { d with training := true, failed := failed }

/-- The lower of two rates. -/
def lowRate (a b : BitVec 2) : BitVec 2 := if a.ult b then a else b

/-- KIND 0x0C of a doorway's lanes: repaired, SEV 0, or a narrower or slower link, SEV 1 (R529). DETAIL is not stated: 0. -/
def laneEvent0C (n : Fin 8) (fixed : Bool) (s : State) : State :=
  if s.coff.dieStop then s else takeEvents (record 0x0C (0x38 + n.val) 0 (if fixed then 0 else 1) 0 0 s)

/-- What a doorway is after a retrain that it has begun by itself: neither its rate nor its width goes up, and the rate stays within MAXRATE (R528,
R529, R533). -/
def Door.lowered (d : Door) (rate : BitVec 2) (x32 repaired : Bool) : Door :=
  { d with rate := lowRate d.rate (d.rateFor rate), x32 := d.x32 || x32, repaired := d.repaired || repaired }

/-- A retrain that the doorway has begun by itself ends. Lanes that it has repaired, or a link that it has degraded, are an event (R529). -/
def selfRetrain (n : Fin 8) (ok : Bool) (rate : BitVec 2) (x32 repaired : Bool) (s : State) : State :=
  let d := s.doors[n.val]
  let e := d.lowered rate x32 repaired
  let worse : Bool := e.rate ≠ d.rate || e.x32 ≠ d.x32
  let s := if ok && (worse || repaired) then laneEvent0C n (!worse) s else s
  retrainDoor n ok (·.lowered rate x32 repaired) s

/-- A doorway trains. -/
def execTraining (n : Fin 8) (ok : Bool) (rate : BitVec 2) (x32 repaired : Bool) (s : State) : Host.Outcome State Fault Refusal :=
  let d := s.doors[n.val]
  .next (if !d.up then trainDoor n ok rate x32 repaired s
    else if !d.training || s.inReset then s
    else selfRetrain n ok rate x32 repaired s)

/-- A lane fault: the doorway retrains; the fault is repaired with redundant lanes, SEV 0, or the link becomes narrower or slower, SEV 1 (R529).
Where the retrain fails, the event comes with the retrain that ends it. -/
def laneFault (n : Fin 8) (repairable ok : Bool) (rate : BitVec 2) (x32 : Bool) (s : State) : State :=
  let d := s.doors[n.val]
  if !d.up || s.inReset then s
  else
    let s := if ok then laneEvent0C n repairable s else s
    retrainDoor n ok (fun d => if repairable then { d with repaired := true, rate := d.rateFor d.rate } else d.lowered rate x32 false) s
def execLaneFault (n : Fin 8) (repairable ok : Bool) (rate : BitVec 2) (x32 : Bool) (s : State) : Host.Outcome State Fault Refusal :=
  .next (laneFault n repairable ok rate x32 s)

/-- A write to DW_CTL, and the retrain that its RETRAIN bit starts (R528, R529). -/
def retrain (n : Fin 8) (v : Word) (ok : Bool) (rate : BitVec 2) (x32 repaired : Bool) (s : State) : State :=
  let off := 0x600008 + 0x10000 * n.val
  let s := dwCtlStore n v { s with asked := s.asked.filter fun a => !(a.1 = off && a.2 = v) }
  if !bit v 0 || !bit v 1 then s
  else if (s.doors[n.val]).up then
    retrainDoor n ok (fun d => { d with rate := d.rateFor rate, x32 := x32, repaired := repaired }) s
  else trainDoor n ok rate x32 repaired s
def execRetrain (by_ : Writer) (n : Fin 8) (v : Word) (ok : Bool) (rate : BitVec 2) (x32 repaired : Bool) (s : State) :
    Host.Outcome State Fault Refusal :=
  .next (if s.inReset then s else gated by_ (retrain n v ok rate x32 repaired) s)

/-- A write to DW_CTL with EN at 0 (R555, "Registers"). -/
def execDoorwayDisable (by_ : Writer) (n : Fin 8) (v : Word) (s : State) : Host.Outcome State Fault Refusal :=
  .next (if s.inReset then s else gated by_ (dwCtlStore n (setFld v 0 (0 : BitVec 1))) s)

/-- 50 µs with no flit to send and none unacknowledged put D2 to D7 into L1 (R530). -/
def l1Entry (n : Fin 8) (s : State) : State :=
  s.modDoor n fun d =>
    if 2 ≤ n.val && d.up && !d.training && bit d.ctl 4 && d.tx.isEmpty && d.txRest.isEmpty && d.unacked.isEmpty && !d.nakOut then { d with l1 := true } else d
def execL1Entry (n : Fin 8) (s : State) : Host.Outcome State Fault Refusal := .next (l1Entry n s)

/-! ## Link-up and link management (R535, R554, R555) -/

/-- A flit that arrives from the peer ends L1 (R530). -/
def endL1 (n : Fin 8) (s : State) : State := s.modDoor n fun d => { d with l1 := false }

/-- The peer's INIT arrives on a trained doorway. -/
def initArrives (n : Fin 8) (p : PeerInit) (s : State) : State :=
  let d := s.doors[n.val]
  if !d.up || d.training || s.inReset || !mayInit n s then s
  else
    match takeInit n p (endL1 n s) with
    | .ok t => if badPeer p && !t.coff.dieStop then takeEvents t else t
    | .error t => t
def execInit (n : Fin 8) (version node assign cap : BitVec 8) (credits : Word) (s : State) : Host.Outcome State Fault Refusal :=
  .next (initArrives n ⟨version, node, assign, cap, credits⟩ s)

/-- INIT goes out again until the peer's arrives. -/
def execInitResend (n : Fin 8) (s : State) : Host.Outcome State Fault Refusal :=
  let d := s.doors[n.val]
  .next (if d.up && !d.training && d.peer.isNone && !s.inReset then sendInit n s else s)

/-- The peer quiesces: every new message to its node is held (R554). -/
def quiesced (n : Fin 8) (s : State) : State :=
  let s := endL1 n s
  match (s.doors[n.val]).peer with
  | some k => if (s.doors[n.val]).up && !s.th.quiesced.contains k then { s with th := { s.th with quiesced := s.th.quiesced ++ [k] } } else s
  | none => s
def execQuiesce (n : Fin 8) (s : State) : Host.Outcome State Fault Refusal := .next (quiesced n s)

/-- A doorway is lost (R555, R556). -/
def loseDoor (n : Fin 8) (s : State) : State := if (s.doors[n.val]).up && !s.inReset then settlePause (doorDown n true s) else s
def execStop (n : Fin 8) (s : State) : Host.Outcome State Fault Refusal := .next (loseDoor n s)

/-- No flit for 100 µs while Active. -/
def execDoorwayLost (n : Fin 8) (s : State) : Host.Outcome State Fault Refusal :=
  let d := s.doors[n.val]
  .next (if d.l1 || d.training then s else loseDoor n s)

/-! ## Requests that arrive (R545, R548, R551, R553) -/

/-- Where a doorway keeps the incarnation of a port of another die. -/
def incKey (n : Fin 8) (m : ThMsg) : Nat := 2048 * n.val + 256 * m.src.toNat + m.port.toNat

/-- A port's incarnation as an IncUpd on this doorway has recorded it; 0 where none has arrived (R553). -/
def State.incOf (s : State) (n : Fin 8) (m : ThMsg) : BitVec 8 := mget 0 s.th.incs (incKey n m)

/-- A later request of a fenced port of another die, on the doorway that has recorded the fence (R553). -/
def stale (s : State) (n : Fin 8) (m : ThMsg) : Bool := (srcDie m).isSome && s.incOf n m ≠ 0 && s.incOf n m ≠ m.inc

def countFgDrop (n : Fin 8) (s : State) : State := s.modDoor n fun d => { d with fgdrop := satInc d.fgdrop }

/-- In an inbox, a message of opcode 0 stands for a write that has been discarded ahead of its data. -/
def tomb (m : ThMsg) : Wire := ⟨0, 0, m⟩
def tombOf (m : ThMsg) (w : Wire) : Bool := w.cls = 0 && w.op = 0 && w.m.tag = m.tag && w.m.src = m.src

/-- A request for memory enters the homes' queue. -/
def memRequest (op : BitVec 6) (n : Fin 8) (m : ThMsg) (s : State) : State :=
  let hasData : Bool := op = 5 || op = 6 || op = 8
  let discard (s : State) : State :=
    if !hasData then s
    else if (sentData n m s).isSome then dropData n m s
    else s.modDoor n fun d => { d with inbox := d.inbox ++ [tomb m] }
  if stale s n m then discard (countFgDrop n s)
  else settleHome { s with th := { s.th with queued := s.th.queued ++ [(n, ⟨0, op, m⟩)] } }

/-- The data of a write arrives: it waits for its request, or the request for it (R543). -/
def dataArrives (op : BitVec 6) (n : Fin 8) (m : ThMsg) (s : State) : State :=
  let d := s.doors[n.val]
  if d.inbox.any (tombOf m) then s.setDoor n { d with inbox := d.inbox.filter fun w => !tombOf m w }
  else settleHome (s.setDoor n { d with inbox := d.inbox ++ [⟨3, op, m⟩] })

/-- The requester to whom a device request is answered, with a value or a STATUS. -/
def answerDev (m : ThMsg) (v : Word) (s : State) : State := respond m 1 3 { ThMsg.zero with op0 := v } s

/-- A device read (R548): control space and doorbell pages of this die. -/
def devRead (m : ThMsg) (s : State) : State :=
  let a := m.addr.toNat
  let k := 2 ^ m.size.toNat
  if 3 < m.size.toNat || a % k ≠ 0 then respondCmp m 4 s
  else
    match place a with
    | .ctl d o =>
      if s.ownDie d && ctlAssigned o then answerDev m (BitVec.ofNat 64 (ctlLoad s o k m.polder m.tr)) s else respondCmp m 3 s
    | .bell d q o =>
      if s.ownDie d then answerDev m (BitVec.ofNat 64 ((bellRead s q (o / 8 * 8) k m.polder m.tr).toNat / 256 ^ (o % 8) % 256 ^ k)) s
      else respondCmp m 3 s
    | _ => respondCmp m 3 s

/-- RANGE_OP of a slot at an offset. -/
def rangeOpAt (off k : Nat) : Option (Fin 4 × Fin 4) :=
  let o := off % 0x20000
  if k = 8 && 0x80000 ≤ off && off < 0x100000 && 0x1000 ≤ o && o < 0x5000 && o % 0x1000 = 0x10 then
    some (⟨(off - 0x80000) / 0x20000 % 4, Nat.mod_lt _ (by decide)⟩, ⟨(o / 0x1000 - 1) % 4, Nat.mod_lt _ (by decide)⟩)
  else none

/-- A device write (R548). Writes of node 4 are the host's. A STEP store that fires an arm is answered when the cores resume (R416). -/
def devWrite (m : ThMsg) : M Unit := fun s =>
  let a := m.addr.toNat
  let k := 2 ^ m.size.toNat
  let done (r : EStateM.Result Exit State Unit) : EStateM.Result Exit State Unit :=
    match r with | .ok _ t => .ok () (respondCmp m 0 t) | .error e t => .error e t
  let step (o : Nat) (r : EStateM.Result Exit State Unit) : EStateM.Result Exit State Unit :=
    let i : Fin 16 := ⟨(o - 0x410000) / 0x1000 % 16, Nat.mod_lt _ (by decide)⟩
    match r with
    | .ok _ t =>
      if (s.shard i).state ≠ .arming && (t.shard i).state = .arming then .ok () (t.setShard i { t.shard i with stepFar := some m })
      else .ok () (respondCmp m 0 t)
    | .error e t => .error e t
  if 3 < m.size.toNat || a % k ≠ 0 then .ok () (respondCmp m 4 s)
  else
    let v : Word := BitVec.ofNat 64 (m.op0.toNat % 256 ^ k)
    match place a with
    | .ctl d o =>
      if !s.ownDie d || !ctlAssigned o then .ok () (respondCmp m 3 s)
      else
        match rangeOpAt o k with
        | some (w, n) =>
          if (srcDie m).isSome then .ok () (respondCmp m 0 (rangeStart (captureFar m.polder m.tr) w n v s))
          else done (regWrite .host o k v m.polder m.tr s)
        | none => let r := regWrite .host o k v m.polder m.tr s; if isStep o k then step o r else done r
    | .bell d q o => if s.ownDie d then done (bellStore q o k v m.polder m.tr s) else .ok () (respondCmp m 3 s)
    | _ => .ok () (respondCmp m 3 s)

/-- A fenced port's new incarnation. -/
def incUpd (n : Fin 8) (m : ThMsg) (s : State) : State :=
  { s with th := { s.th with incs := mset 0 s.th.incs (incKey n m) m.inc } }

/-! ## Answers that arrive (R543, R545, R552) -/

/-- The request that an answer belongs to. -/
def reqOf (m : ThMsg) (s : State) : Option Req := s.th.reqs.find? fun r => r.node = m.src && r.tag = m.tag && r.answer.isNone

/-- The floodgate of the unit that asked has a newer incarnation: it discards the answer (R442, R443). -/
def Req.late (q : Req) (s : State) : Bool := q.port ≠ 0xFF && (s.gate q.port.toNat).inc ≠ q.inc

/-- Give a request its answer; one that no unit waits for ends, and so does one whose answer the unit's floodgate discards. -/
def answerReq (q : Req) (status : BitVec 4) (x : BitVec 512) (s : State) : State :=
  let mine (r : Req) : Bool := r.node = q.node && r.tag = q.tag && r.answer.isNone
  let answered (r : Req) : Req := if mine r then { r with answer := some (status, x) } else r
  let ended := sendInts { s with th := { s.th with reqs := s.th.reqs.filter fun r => !mine r } }
  if q.late s then
    let g := mget Gate.closed s.coff.gates q.port.toNat
    ended.setGate q.port.toNat { g with drop := satInc g.drop }
  else if q.unit.unwaited then stepEnds q status ended
  else { s with th := { s.th with reqs := s.th.reqs.map answered } }

/-- A granted line that no unit of this die takes is given back to its home: dirty data with WbLine, a clean line with Evict. Copies that the
die keeps stay recorded (R443, R545; log entry 30). -/
def giveBack (q : Req) (own : Bool) (x : Option (BitVec 512)) (s : State) : State :=
  let n := q.addr / 64
  if !(holdings s n).isEmpty then s
  else
    let m := { ThMsg.zero with addr := BitVec.ofNat 52 (64 * n), polder := q.m.polder, size := 6, tr := false }
    match own, x with
    | true, some x => sendReq .posted q.node.toNat 8 (64 * n) { m with line := x } (some 7) s
    | _, _ => sendReq .posted q.node.toNat 7 (64 * n) m none s

/-- The core's caches can take a line: it has a room, and its caches are powered (R448, R515). -/
def takesLines (c : CoreId) (s : State) : Bool := s.present c && !s.offline c && (s.core c).door ≠ 3

/-- A line that another die has granted comes into the caches of the unit that asked for it. -/
def grantLine (q : Req) (own excl : Bool) (x : Option (BitVec 512)) (s : State) : State :=
  let n := q.addr / 64
  let tag := q.m.polder
  let data (s : State) : State := match x with | some x => pokeLine n x s | none => s
  let toCore (c : CoreId) : State :=
    if !takesLines c s then giveBack q own x s
    else if own then ownLine c none tag n (data s) else fetchLine c none tag n excl (data s)
  let toWing (w : Fin 4) : State :=
    let tag := (heldTag s n).getD tag
    if own then wingFill w ⟨n, .m, tag⟩ (dropCopies n (data s))
    else wingFill w ⟨n, if excl && (holdings s n).isEmpty then .e else .s, tag⟩ (shareCopies n (data s))
  match q.unit with
  | .core c => toCore c
  | .given c => toCore c
  | .scullery w => toWing w
  | .stash _ w => toWing w
  | _ => giveBack q own x s

/-- An answer without a line: Cmp, DevData, AtmData. -/
def plainAnswer (m : ThMsg) (status : BitVec 4) (v : Word) (s : State) : State :=
  match reqOf m s with
  | some q => answerReq q status (v.setWidth 512) s
  | none => s

/-- A granted line: DataS, DataE, DataM or GntM. -/
def granted (m : ThMsg) (own excl : Bool) (x : Option (BitVec 512)) (s : State) : State :=
  match reqOf m s with
  | some q =>
    answerReq q 0 (x.getD 0) (if q.op ≠ 1 && q.op ≠ 2 && q.op ≠ 3 then s else if q.late s then giveBack q own x s else grantLine q own excl x s)
  | none => s

/-! ## Snoops (R546, R547) -/

def moesiCode : Option Moesi → BitVec 3
  | none => 0
  | some .s => 1
  | some .e => 2
  | some .o => 3
  | some .m => 4

/-- The die's caches give a line up, or keep it shared. -/
def snoopInv (n : Nat) (s : State) : State := let s := dropCopies n s; if s.ownMem (64 * n) then s else pokeLine n 0 s

/-- A snoop is answered from the state in which the caches together hold the line. A line that is uncorrectable is not delivered: it is lost
(R436; log entry 109). -/
def snooped (op : BitVec 6) (m : ThMsg) (s : State) : State :=
  let n := m.addr.toNat / 64
  let s := meetHeld n s
  let st := dieHolds s n
  let dirty : Bool := st = some .m || st = some .o
  let x := lineData s n
  let ack (v : BitVec 3) (s : State) : State := respond m 1 5 { ThMsg.zero with state := v } s
  let data (op : BitVec 6) (s : State) : State := respond m 3 op { ThMsg.zero with line := x } s
  if s.spoilt n && dirty then ack 0 (loseDirty 0 n s)
  else
  match op.toNat with
  | 1 => if dirty then data 8 (snoopInv n s) else ack 0 (if st.isSome then snoopInv n s else s)
  | 2 => if dirty then data 9 (shareCopies n s) else ack (if st.isSome then 1 else 0) (shareCopies n s)
  | 3 => ack (if dirty then 3 else if st.isSome then 1 else 0) (shareCopies n s)
  | _ => if dirty then data 10 s else ack (moesiCode st) s

/-- A snoop answer of another die. -/
def snoopReply (m : ThMsg) (state : BitVec 3) (x : Option (BitVec 512)) (s : State) : State :=
  match srcDie m with
  | some d => snoopAnswer d m.tag state x s
  | none => s

/-! ## Dispatch of arriving messages -/

/-- Perform a message that has passed its doorway's floodgate. -/
def receiveOpen (n : Fin 8) (w : Wire) : M Unit := fun s =>
  let m := w.m
  match w.cls.toNat, w.op.toNat with
  | 0, 0x10 => if stale s n m then .ok () (countFgDrop n s) else .ok () (devRead m s)
  | 0, 0x11 => if stale s n m then .ok () (countFgDrop n s) else devWrite m s
  | 0, 0x18 => .ok () (irteMessage (fld m.op0 0 10).toFin s)
  | 0, 0x19 => .ok () (incUpd n m s)
  | 0, _ => .ok () (memRequest w.op n m s)
  | 1, 1 => .ok () (plainAnswer m m.status 0 s)
  | 1, 2 => .ok () (granted m true false none s)
  | 1, 3 => .ok () (plainAnswer m 0 m.op0 s)
  | 1, 4 => .ok () (plainAnswer m 0 m.op0 s)
  | 1, _ => .ok () (snoopReply m m.state none s)
  | 2, _ => .ok () (snooped w.op m s)
  | _, 1 => .ok () (granted m false false (some m.line) s)
  | _, 2 => .ok () (granted m false true (some m.line) s)
  | _, 3 => .ok () (granted m true false (some m.line) s)
  | _, 4 => .ok () (match reqOf m s with | some q => answerReq q 0 m.line s | none => s)
  | _, 8 => .ok () (snoopReply m 0 (some m.line) s)
  | _, 9 => .ok () (snoopReply m 3 (some m.line) s)
  | _, 10 => .ok () (snoopReply m 4 (some m.line) s)
  | _, _ => .ok () (dataArrives w.op n m s)

/-- A message has arrived on a doorway. A closed floodgate drops it, and requests and snoops are counted (R445, R454). -/
def receive (n : Fin 8) (w : Wire) : M Unit := fun s =>
  if s.coff.dieStop then .ok () s
  else if !(s.gate (0x38 + n.val)).open_ then .ok () (if w.cls = 0 || w.cls = 2 then lateSpeak (0x38 + n.val) 1 s else s)
  else receiveOpen n w s

/-- Messages pass a doorway that is up and linked. -/
def linked (n : Fin 8) (s : State) : Bool := let d := s.doors[n.val]; d.up && !d.training && d.peer.isSome && !s.inReset

/-- A message row: the message arrives on the doorway. -/
def messageRow (n : Fin 8) (w : Wire) (s : State) : Host.Outcome State Fault Refusal :=
  if linked n s then outcome (do modify (endL1 n); receive n w; modify settlePause) s else .next s

def execRdshared (n : Fin 8) (m : ThMsg) (s : State) : Host.Outcome State Fault Refusal := messageRow n ⟨0, 1, m⟩ s
def execRdown (n : Fin 8) (m : ThMsg) (s : State) : Host.Outcome State Fault Refusal := messageRow n ⟨0, 2, m⟩ s
def execUpgrade (n : Fin 8) (m : ThMsg) (s : State) : Host.Outcome State Fault Refusal := messageRow n ⟨0, 3, m⟩ s
def execRdcur (n : Fin 8) (m : ThMsg) (s : State) : Host.Outcome State Fault Refusal := messageRow n ⟨0, 4, m⟩ s
def execWrline (n : Fin 8) (m : ThMsg) (s : State) : Host.Outcome State Fault Refusal := messageRow n ⟨0, 5, m⟩ s
def execWrpart (n : Fin 8) (m : ThMsg) (s : State) : Host.Outcome State Fault Refusal := messageRow n ⟨0, 6, m⟩ s
def execEvict (n : Fin 8) (m : ThMsg) (s : State) : Host.Outcome State Fault Refusal := messageRow n ⟨0, 7, m⟩ s
def execWbline (n : Fin 8) (m : ThMsg) (s : State) : Host.Outcome State Fault Refusal := messageRow n ⟨0, 8, m⟩ s
def execThAtomic (n : Fin 8) (m : ThMsg) (s : State) : Host.Outcome State Fault Refusal := messageRow n ⟨0, 9, m⟩ s
def execThFlush (n : Fin 8) (m : ThMsg) (s : State) : Host.Outcome State Fault Refusal := messageRow n ⟨0, 10, m⟩ s
def execDevrd (n : Fin 8) (m : ThMsg) (s : State) : Host.Outcome State Fault Refusal := messageRow n ⟨0, 0x10, m⟩ s
def execDevwr (n : Fin 8) (m : ThMsg) (s : State) : Host.Outcome State Fault Refusal := messageRow n ⟨0, 0x11, m⟩ s
def execInt (n : Fin 8) (m : ThMsg) (s : State) : Host.Outcome State Fault Refusal := messageRow n ⟨0, 0x18, m⟩ s
def execIncupd (n : Fin 8) (m : ThMsg) (s : State) : Host.Outcome State Fault Refusal := messageRow n ⟨0, 0x19, m⟩ s
def execCmp (n : Fin 8) (m : ThMsg) (s : State) : Host.Outcome State Fault Refusal := messageRow n ⟨1, 1, m⟩ s
def execGntm (n : Fin 8) (m : ThMsg) (s : State) : Host.Outcome State Fault Refusal := messageRow n ⟨1, 2, m⟩ s
def execDevdata (n : Fin 8) (m : ThMsg) (s : State) : Host.Outcome State Fault Refusal := messageRow n ⟨1, 3, m⟩ s
def execAtmdata (n : Fin 8) (m : ThMsg) (s : State) : Host.Outcome State Fault Refusal := messageRow n ⟨1, 4, m⟩ s
def execSnpack (n : Fin 8) (m : ThMsg) (s : State) : Host.Outcome State Fault Refusal := messageRow n ⟨1, 5, m⟩ s
def execSnpinv (n : Fin 8) (m : ThMsg) (s : State) : Host.Outcome State Fault Refusal := messageRow n ⟨2, 1, m⟩ s
def execSnpshr (n : Fin 8) (m : ThMsg) (s : State) : Host.Outcome State Fault Refusal := messageRow n ⟨2, 2, m⟩ s
def execSnpdown (n : Fin 8) (m : ThMsg) (s : State) : Host.Outcome State Fault Refusal := messageRow n ⟨2, 3, m⟩ s
def execSnpcur (n : Fin 8) (m : ThMsg) (s : State) : Host.Outcome State Fault Refusal := messageRow n ⟨2, 4, m⟩ s
def execDatas (n : Fin 8) (m : ThMsg) (s : State) : Host.Outcome State Fault Refusal := messageRow n ⟨3, 1, m⟩ s
def execDatae (n : Fin 8) (m : ThMsg) (s : State) : Host.Outcome State Fault Refusal := messageRow n ⟨3, 2, m⟩ s
def execDatam (n : Fin 8) (m : ThMsg) (s : State) : Host.Outcome State Fault Refusal := messageRow n ⟨3, 3, m⟩ s
def execDatacur (n : Fin 8) (m : ThMsg) (s : State) : Host.Outcome State Fault Refusal := messageRow n ⟨3, 4, m⟩ s
def execDatawr (n : Fin 8) (m : ThMsg) (s : State) : Host.Outcome State Fault Refusal := messageRow n ⟨3, 5, m⟩ s
def execDatapart (n : Fin 8) (m : ThMsg) (s : State) : Host.Outcome State Fault Refusal := messageRow n ⟨3, 6, m⟩ s
def execDatawb (n : Fin 8) (m : ThMsg) (s : State) : Host.Outcome State Fault Refusal := messageRow n ⟨3, 7, m⟩ s
def execDatasnpi (n : Fin 8) (m : ThMsg) (s : State) : Host.Outcome State Fault Refusal := messageRow n ⟨3, 8, m⟩ s
def execDatasnpo (n : Fin 8) (m : ThMsg) (s : State) : Host.Outcome State Fault Refusal := messageRow n ⟨3, 9, m⟩ s
def execDatasnpkeep (n : Fin 8) (m : ThMsg) (s : State) : Host.Outcome State Fault Refusal := messageRow n ⟨3, 10, m⟩ s

/-! ## Flits (R531 to R533, R539) -/

/-- A flit is discarded: counted, and answered with NAK. -/
def discardFlit (n : Fin 8) (s : State) : State := s.modDoor n fun d => { d with crcerr := satInc d.crcerr, nakOut := true, l1 := false }

/-- FACK, NAK and the credits of a flit. The sixteenth NAK in a row for one flit starts a retrain. -/
def takeHeader (n : Fin 8) (h : Word) (s : State) : State :=
  settleMoves <| s.modDoor n fun d =>
    let oldest : BitVec 10 := d.txSeq - BitVec.ofNat 10 d.unacked.length
    let k := (fld h 10 10 - oldest + 1).toNat
    let acked := if k ≤ d.unacked.length then k else 0
    let rest := d.unacked.drop acked
    let nak := bit h 20
    let naks := if nak then (if acked = 0 then d.naks + 1 else 1) else if acked = 0 then d.naks else 0
    let again := nak && 16 ≤ naks && !rest.isEmpty
    { d with
      unacked := rest
      naks := if again then 0 else naks
      training := d.training || again
      replay := if nak then satAdd d.replay rest.length else d.replay
      l1 := false
      credits := #v[satAdd d.credits[0] (fld h 24 6).toNat, satAdd d.credits[1] (fld h 30 6).toNat, satAdd d.credits[2] (fld h 36 6).toNat,
                    satAdd d.credits[3] (fld h 42 6).toNat] }

/-- A sequenced flit is accepted: its messages' credits are to be returned. -/
def acceptFlit (n : Fin 8) (seq : BitVec 10) (ws : List Wire) (rest : List (BitVec 32)) (s : State) : State :=
  let cnt (k : Nat) : Nat := (ws.filter fun w => w.cls.toNat = k).length
  s.modDoor n fun d => { d with
    rxSeq := seq, rxflit := d.rxflit + 1, partial_ := rest
    owed := #v[d.owed[0] + cnt 0, d.owed[1] + cnt 1, d.owed[2] + cnt 2, d.owed[3] + cnt 3] }

/-- A link-management flit; it is not sequenced. -/
def manage (n : Fin 8) (b : BitVec 2048) (s : State) : State :=
  let s := endL1 n s
  let at_ (i : Nat) : BitVec 8 := b.extractLsb' (8 * i) 8
  match (at_ 8).toNat with
  | 1 => initArrives n ⟨at_ 9, at_ 10, at_ 11, at_ 20, b.extractLsb' 96 64⟩ s
  | 2 => quiesced n s
  | 3 => loseDoor n s
  | _ => s

/-- A flit arrives. -/
def flitArrives (n : Fin 8) (b : BitVec 2048) : M Unit := do
  let s ← get
  let d := s.doors[n.val]
  let h := flitHdr b
  if !d.up || d.training || s.inReset then pure ()
  else if !flitGood b then set (discardFlit n s)
  else if bit h 21 then set (manage n b s)
  else if d.peer.isNone then pure ()
  else
    let us := flitUnits b
    -- a flit of pad units is a credit flit; in the middle of a message, one that repeats the latest FSEQ is
    if us.all (· = 0) && (d.partial_.isEmpty || fld h 0 10 = d.rxSeq) then set (takeHeader n h s)
    else if fld h 0 10 ≠ d.rxSeq + 1 then set (discardFlit n s)
    else
      match parseUnits us 0 d.partial_ none [] with
      | none => set (discardFlit n s)
      | some (ws, rest, first) =>
        if (fld h 48 6 : BitVec 6).toNat ≠ first.getD 63 then set (discardFlit n s)
        else
          set (acceptFlit n (fld h 0 10) ws rest (takeHeader n h s))
          ws.forM (receive n)
          modify settlePause
def execFlit (n : Fin 8) (bits : BitVec 2048) (s : State) : Host.Outcome State Fault Refusal := outcome (flitArrives n bits) s

/-- This side sends a flit. -/
def execFlitKeepalive (n : Fin 8) (s : State) : Host.Outcome State Fault Refusal :=
  .next (if mustSend s.doors[n.val] && !s.inReset then settlePause (sendFlit n s) else s)

end Machine
end Sys2Proof
end

