-- ==== Sys2Proof/Machine/Plain.lean ====
section
/-! DEFINITION. Stores to registers that have no row of their own, and pumphouse words that trigger nothing (R458, R578). -/

namespace Sys2Proof
namespace Machine

/-- A store of 1, 2, 4 or 8 bytes to control space (R16 to R18, R578). A store to CMDPI or another register acts as its block says. The
pumphouse then takes what it can of the events and of the reserved commands. -/
def execRegisterWrite (by_ : Writer) (off : BitVec 24) (size : Nat) (v : Word) (s : State) : Host.Outcome State Fault Refusal :=
  if s.inReset || off.toNat % size ≠ 0 then .next s
  else if writerShut by_ s then .next (gated by_ id s)
  else outcome (do regWrite by_ off.toNat size v (writerTag by_ s) (writerTrusted by_ s); modify settlePause; modify pumphouseTurn) s

/-- A pumphouse word whose moves write no trigger port. -/
def execMove (w : BitVec 32) (s : State) : Host.Outcome State Fault Refusal := outcome (phStep w) s

end Machine
end Sys2Proof
end

