-- ==== Sys2Proof/Machine/Scalar.lean ====
section
/-! DEFINITION. Scalar integer instructions: classes INT-R, INT-I, LUI and MULDIV (R47 to R49). -/

namespace Sys2Proof
namespace Machine

/-- gD := a function of gA and gB. -/
def opGG (cls : Nat) (fn : BitVec 12) (f : Word → Word → Word) (c : CoreId) (d a b : Reg) (s : State) : Host.Outcome State Fault Refusal :=
  instr c (wordOf cls d a b fn) false (onCore c fun k => k.wg d (f (k.rg a) (k.rg b))) s

/-- gD := a function of gA. -/
def opG (fn : BitVec 12) (f : Word → Word) (c : CoreId) (d a : Reg) (s : State) : Host.Outcome State Fault Refusal :=
  instr c (wordOf 0 d a 0 fn) false (onCore c fun k => k.wg d (f (k.rg a))) s

/-- gD := a function of gA and an immediate; `fn` stands in [16:12]. -/
def opGI (fn : Reg) (f : Word → Word) (c : CoreId) (d a : Reg) (imm : BitVec 12) (s : State) : Host.Outcome State Fault Refusal :=
  instr c (wordOf 1 d a fn imm) false (onCore c fun k => k.wg d (f (k.rg a))) s

/-- A 32-bit operation on the low words, sign-extended (R48). -/
def op32 (f : BitVec 32 → BitVec 32 → BitVec 32) (x y : Word) : Word := sext32 (f (lo32 x) (lo32 y))

/-- gA + gB. -/
def execAdd (c : CoreId) (d a b : Reg) (s : State) : Host.Outcome State Fault Refusal :=
  opGG 0 0x000 (fun x y => x + y) c d a b s

/-- gA - gB. -/
def execSub (c : CoreId) (d a b : Reg) (s : State) : Host.Outcome State Fault Refusal :=
  opGG 0 0x001 (fun x y => x - y) c d a b s

/-- Bitwise AND. -/
def execAnd (c : CoreId) (d a b : Reg) (s : State) : Host.Outcome State Fault Refusal :=
  opGG 0 0x002 (fun x y => x &&& y) c d a b s

/-- Bitwise OR. -/
def execOr (c : CoreId) (d a b : Reg) (s : State) : Host.Outcome State Fault Refusal :=
  opGG 0 0x003 (fun x y => x ||| y) c d a b s

/-- Bitwise XOR. -/
def execXor (c : CoreId) (d a b : Reg) (s : State) : Host.Outcome State Fault Refusal :=
  opGG 0 0x004 (fun x y => x ^^^ y) c d a b s

/-- Shift left by gB[5:0]. -/
def execSll (c : CoreId) (d a b : Reg) (s : State) : Host.Outcome State Fault Refusal :=
  opGG 0 0x005 (fun x y => x <<< sh6 y) c d a b s

/-- Shift right, zero fill. -/
def execSrl (c : CoreId) (d a b : Reg) (s : State) : Host.Outcome State Fault Refusal :=
  opGG 0 0x006 (fun x y => x >>> sh6 y) c d a b s

/-- Shift right, sign fill. -/
def execSra (c : CoreId) (d a b : Reg) (s : State) : Host.Outcome State Fault Refusal :=
  opGG 0 0x007 (fun x y => x.sshiftRight (sh6 y)) c d a b s

/-- Signed less-than. -/
def execSlt (c : CoreId) (d a b : Reg) (s : State) : Host.Outcome State Fault Refusal :=
  opGG 0 0x008 (fun x y => b2w (x.slt y)) c d a b s

/-- Unsigned less-than. -/
def execSltu (c : CoreId) (d a b : Reg) (s : State) : Host.Outcome State Fault Refusal :=
  opGG 0 0x009 (fun x y => b2w (x.ult y)) c d a b s

/-- Signed minimum. -/
def execMin (c : CoreId) (d a b : Reg) (s : State) : Host.Outcome State Fault Refusal :=
  opGG 0 0x00A (smin) c d a b s

/-- Signed maximum. -/
def execMax (c : CoreId) (d a b : Reg) (s : State) : Host.Outcome State Fault Refusal :=
  opGG 0 0x00B (smax) c d a b s

/-- Unsigned minimum. -/
def execMinu (c : CoreId) (d a b : Reg) (s : State) : Host.Outcome State Fault Refusal :=
  opGG 0 0x00C (umin) c d a b s

/-- Unsigned maximum. -/
def execMaxu (c : CoreId) (d a b : Reg) (s : State) : Host.Outcome State Fault Refusal :=
  opGG 0 0x00D (umax) c d a b s

/-- gA AND NOT gB. -/
def execAndn (c : CoreId) (d a b : Reg) (s : State) : Host.Outcome State Fault Refusal :=
  opGG 0 0x00E (fun x y => x &&& ~~~y) c d a b s

/-- Leading zeros. -/
def execClz (c : CoreId) (d a : Reg) (s : State) : Host.Outcome State Fault Refusal :=
  opG 0x010 (fun x => BitVec.ofNat 64 (leadZeros x)) c d a s

/-- Trailing zeros. -/
def execCtz (c : CoreId) (d a : Reg) (s : State) : Host.Outcome State Fault Refusal :=
  opG 0x011 (fun x => BitVec.ofNat 64 (trailZeros x)) c d a s

/-- Set bits. -/
def execPopc (c : CoreId) (d a : Reg) (s : State) : Host.Outcome State Fault Refusal :=
  opG 0x012 (fun x => BitVec.ofNat 64 (popCount x)) c d a s

/-- Bytes in reverse order. -/
def execRev8 (c : CoreId) (d a : Reg) (s : State) : Host.Outcome State Fault Refusal :=
  opG 0x013 (byteRev) c d a s

/-- 32-bit sum. -/
def execAddW (c : CoreId) (d a b : Reg) (s : State) : Host.Outcome State Fault Refusal :=
  opGG 0 0x020 (op32 fun x y => x + y) c d a b s

/-- 32-bit difference. -/
def execSubW (c : CoreId) (d a b : Reg) (s : State) : Host.Outcome State Fault Refusal :=
  opGG 0 0x021 (op32 fun x y => x - y) c d a b s

/-- 32-bit shift left by gB[4:0]. -/
def execSllW (c : CoreId) (d a b : Reg) (s : State) : Host.Outcome State Fault Refusal :=
  opGG 0 0x025 (fun x y => sext32 (lo32 x <<< sh5 y)) c d a b s

/-- 32-bit shift right, zero fill. -/
def execSrlW (c : CoreId) (d a b : Reg) (s : State) : Host.Outcome State Fault Refusal :=
  opGG 0 0x026 (fun x y => sext32 (lo32 x >>> sh5 y)) c d a b s

/-- 32-bit shift right, sign fill. -/
def execSraW (c : CoreId) (d a b : Reg) (s : State) : Host.Outcome State Fault Refusal :=
  opGG 0 0x027 (fun x y => sext32 ((lo32 x).sshiftRight (sh5 y))) c d a b s

/-- gA + imm12. -/
def execAddi (c : CoreId) (d a : Reg) (imm : BitVec 12) (s : State) : Host.Outcome State Fault Refusal :=
  opGI 0x00 (fun x => x + sx imm) c d a imm s

/-- gA AND imm12. -/
def execAndi (c : CoreId) (d a : Reg) (imm : BitVec 12) (s : State) : Host.Outcome State Fault Refusal :=
  opGI 0x01 (fun x => x &&& sx imm) c d a imm s

/-- gA OR imm12. -/
def execOri (c : CoreId) (d a : Reg) (imm : BitVec 12) (s : State) : Host.Outcome State Fault Refusal :=
  opGI 0x02 (fun x => x ||| sx imm) c d a imm s

/-- gA XOR imm12. -/
def execXori (c : CoreId) (d a : Reg) (imm : BitVec 12) (s : State) : Host.Outcome State Fault Refusal :=
  opGI 0x03 (fun x => x ^^^ sx imm) c d a imm s

/-- Signed less-than imm12. -/
def execSlti (c : CoreId) (d a : Reg) (imm : BitVec 12) (s : State) : Host.Outcome State Fault Refusal :=
  opGI 0x04 (fun x => b2w (x.slt (sx imm))) c d a imm s

/-- Unsigned less-than the sign-extended imm12. -/
def execSltiu (c : CoreId) (d a : Reg) (imm : BitVec 12) (s : State) : Host.Outcome State Fault Refusal :=
  opGI 0x05 (fun x => b2w (x.ult (sx imm))) c d a imm s

/-- 32-bit sum with imm12. -/
def execAddiW (c : CoreId) (d a : Reg) (imm : BitVec 12) (s : State) : Host.Outcome State Fault Refusal :=
  opGI 0x09 (fun x => sext32 (lo32 x + lo32 (sx imm))) c d a imm s

/-- Shift left by imm12[5:0]. -/
def execSlli (c : CoreId) (d a : Reg) (sh : BitVec 6) (s : State) : Host.Outcome State Fault Refusal :=
  opGI 0x06 (fun x => x <<< sh.toNat) c d a (sh.setWidth 12) s

/-- Shift right, zero fill. -/
def execSrli (c : CoreId) (d a : Reg) (sh : BitVec 6) (s : State) : Host.Outcome State Fault Refusal :=
  opGI 0x07 (fun x => x >>> sh.toNat) c d a (sh.setWidth 12) s

/-- Shift right, sign fill. -/
def execSrai (c : CoreId) (d a : Reg) (sh : BitVec 6) (s : State) : Host.Outcome State Fault Refusal :=
  opGI 0x08 (fun x => x.sshiftRight sh.toNat) c d a (sh.setWidth 12) s

/-- gD := sign-extend(imm22) x 2^12 (R47). -/
def execLui (c : CoreId) (d : Reg) (imm : BitVec 22) (s : State) : Host.Outcome State Fault Refusal :=
  instr c (wordJ 2 d imm) false (onCore c fun k => k.wg d (sx imm <<< 12)) s

/-- Low 64 bits of the product. -/
def execMul (c : CoreId) (d a b : Reg) (s : State) : Host.Outcome State Fault Refusal :=
  opGG 3 0x000 (fun x y => x * y) c d a b s

/-- High 64 bits, signed x signed. -/
def execMulh (c : CoreId) (d a b : Reg) (s : State) : Host.Outcome State Fault Refusal :=
  opGG 3 0x001 (fun x y => mulHigh x.toInt y.toInt) c d a b s

/-- High 64 bits, unsigned x unsigned. -/
def execMulhu (c : CoreId) (d a b : Reg) (s : State) : Host.Outcome State Fault Refusal :=
  opGG 3 0x002 (fun x y => mulHigh x.toNat y.toNat) c d a b s

/-- High 64 bits, signed x unsigned. -/
def execMulhsu (c : CoreId) (d a b : Reg) (s : State) : Host.Outcome State Fault Refusal :=
  opGG 3 0x003 (fun x y => mulHigh x.toInt y.toNat) c d a b s

/-- Signed quotient (R49). -/
def execDiv (c : CoreId) (d a b : Reg) (s : State) : Host.Outcome State Fault Refusal :=
  opGG 3 0x008 (divS) c d a b s

/-- Unsigned quotient (R49). -/
def execDivu (c : CoreId) (d a b : Reg) (s : State) : Host.Outcome State Fault Refusal :=
  opGG 3 0x009 (divU) c d a b s

/-- Signed remainder (R49). -/
def execRem (c : CoreId) (d a b : Reg) (s : State) : Host.Outcome State Fault Refusal :=
  opGG 3 0x00A (remS) c d a b s

/-- Unsigned remainder (R49). -/
def execRemu (c : CoreId) (d a b : Reg) (s : State) : Host.Outcome State Fault Refusal :=
  opGG 3 0x00B (remU) c d a b s

end Machine
end Sys2Proof
end

