-- ==== Sys2Proof/Machine/Dispatch.lean ====
section
/-! DEFINITION. The meaning of every command: one arm per row of the table. -/

namespace Sys2Proof
namespace Machine

/-- The effect of a command on the die, its queue apart. -/
def exec (i : Instr) (s : State) : Host.Outcome State Fault Refusal :=
  match i with
  | .add c d a b => Sys2Proof.Machine.execAdd c d a b s
  | .sub c d a b => Sys2Proof.Machine.execSub c d a b s
  | .and c d a b => Sys2Proof.Machine.execAnd c d a b s
  | .or c d a b => Sys2Proof.Machine.execOr c d a b s
  | .xor c d a b => Sys2Proof.Machine.execXor c d a b s
  | .sll c d a b => Sys2Proof.Machine.execSll c d a b s
  | .srl c d a b => Sys2Proof.Machine.execSrl c d a b s
  | .sra c d a b => Sys2Proof.Machine.execSra c d a b s
  | .slt c d a b => Sys2Proof.Machine.execSlt c d a b s
  | .sltu c d a b => Sys2Proof.Machine.execSltu c d a b s
  | .min c d a b => Sys2Proof.Machine.execMin c d a b s
  | .max c d a b => Sys2Proof.Machine.execMax c d a b s
  | .minu c d a b => Sys2Proof.Machine.execMinu c d a b s
  | .maxu c d a b => Sys2Proof.Machine.execMaxu c d a b s
  | .andn c d a b => Sys2Proof.Machine.execAndn c d a b s
  | .clz c d a => Sys2Proof.Machine.execClz c d a s
  | .ctz c d a => Sys2Proof.Machine.execCtz c d a s
  | .popc c d a => Sys2Proof.Machine.execPopc c d a s
  | .rev8 c d a => Sys2Proof.Machine.execRev8 c d a s
  | .addW c d a b => Sys2Proof.Machine.execAddW c d a b s
  | .subW c d a b => Sys2Proof.Machine.execSubW c d a b s
  | .sllW c d a b => Sys2Proof.Machine.execSllW c d a b s
  | .srlW c d a b => Sys2Proof.Machine.execSrlW c d a b s
  | .sraW c d a b => Sys2Proof.Machine.execSraW c d a b s
  | .addi c d a imm => Sys2Proof.Machine.execAddi c d a imm s
  | .andi c d a imm => Sys2Proof.Machine.execAndi c d a imm s
  | .ori c d a imm => Sys2Proof.Machine.execOri c d a imm s
  | .xori c d a imm => Sys2Proof.Machine.execXori c d a imm s
  | .slti c d a imm => Sys2Proof.Machine.execSlti c d a imm s
  | .sltiu c d a imm => Sys2Proof.Machine.execSltiu c d a imm s
  | .slli c d a sh => Sys2Proof.Machine.execSlli c d a sh s
  | .srli c d a sh => Sys2Proof.Machine.execSrli c d a sh s
  | .srai c d a sh => Sys2Proof.Machine.execSrai c d a sh s
  | .addiW c d a imm => Sys2Proof.Machine.execAddiW c d a imm s
  | .lui c d imm => Sys2Proof.Machine.execLui c d imm s
  | .mul c d a b => Sys2Proof.Machine.execMul c d a b s
  | .mulh c d a b => Sys2Proof.Machine.execMulh c d a b s
  | .mulhu c d a b => Sys2Proof.Machine.execMulhu c d a b s
  | .mulhsu c d a b => Sys2Proof.Machine.execMulhsu c d a b s
  | .div c d a b => Sys2Proof.Machine.execDiv c d a b s
  | .divu c d a b => Sys2Proof.Machine.execDivu c d a b s
  | .rem c d a b => Sys2Proof.Machine.execRem c d a b s
  | .remu c d a b => Sys2Proof.Machine.execRemu c d a b s
  | .lb c d a off => Sys2Proof.Machine.execLb c d a off s
  | .lbu c d a off => Sys2Proof.Machine.execLbu c d a off s
  | .lh c d a off => Sys2Proof.Machine.execLh c d a off s
  | .lhu c d a off => Sys2Proof.Machine.execLhu c d a off s
  | .lw c d a off => Sys2Proof.Machine.execLw c d a off s
  | .lwu c d a off => Sys2Proof.Machine.execLwu c d a off s
  | .ld c d a off => Sys2Proof.Machine.execLd c d a off s
  | .fldS c d a off => Sys2Proof.Machine.execFldS c d a off s
  | .fldD c d a off => Sys2Proof.Machine.execFldD c d a off s
  | .sb c rs a off => Sys2Proof.Machine.execSb c rs a off s
  | .sh c rs a off => Sys2Proof.Machine.execSh c rs a off s
  | .sw c rs a off => Sys2Proof.Machine.execSw c rs a off s
  | .sd c rs a off => Sys2Proof.Machine.execSd c rs a off s
  | .fsdS c rs a off => Sys2Proof.Machine.execFsdS c rs a off s
  | .fsdD c rs a off => Sys2Proof.Machine.execFsdD c rs a off s
  | .amoswap c d a b dbl aq rl => Sys2Proof.Machine.execAmoswap c d a b dbl aq rl s
  | .amoadd c d a b dbl aq rl => Sys2Proof.Machine.execAmoadd c d a b dbl aq rl s
  | .amoand c d a b dbl aq rl => Sys2Proof.Machine.execAmoand c d a b dbl aq rl s
  | .amoor c d a b dbl aq rl => Sys2Proof.Machine.execAmoor c d a b dbl aq rl s
  | .amoxor c d a b dbl aq rl => Sys2Proof.Machine.execAmoxor c d a b dbl aq rl s
  | .amomin c d a b dbl aq rl => Sys2Proof.Machine.execAmomin c d a b dbl aq rl s
  | .amomax c d a b dbl aq rl => Sys2Proof.Machine.execAmomax c d a b dbl aq rl s
  | .amominu c d a b dbl aq rl => Sys2Proof.Machine.execAmominu c d a b dbl aq rl s
  | .amomaxu c d a b dbl aq rl => Sys2Proof.Machine.execAmomaxu c d a b dbl aq rl s
  | .cas c d a b dbl aq rl => Sys2Proof.Machine.execCas c d a b dbl aq rl s
  | .beq c a b off => Sys2Proof.Machine.execBeq c a b off s
  | .bne c a b off => Sys2Proof.Machine.execBne c a b off s
  | .blt c a b off => Sys2Proof.Machine.execBlt c a b off s
  | .bge c a b off => Sys2Proof.Machine.execBge c a b off s
  | .bltu c a b off => Sys2Proof.Machine.execBltu c a b off s
  | .bgeu c a b off => Sys2Proof.Machine.execBgeu c a b off s
  | .beqz c a off => Sys2Proof.Machine.execBeqz c a off s
  | .bnez c a off => Sys2Proof.Machine.execBnez c a off s
  | .bltz c a off => Sys2Proof.Machine.execBltz c a off s
  | .bgez c a off => Sys2Proof.Machine.execBgez c a off s
  | .blez c a off => Sys2Proof.Machine.execBlez c a off s
  | .bgtz c a off => Sys2Proof.Machine.execBgtz c a off s
  | .jal c d off => Sys2Proof.Machine.execJal c d off s
  | .jalr c d a imm => Sys2Proof.Machine.execJalr c d a imm s
  | .loop c a n => Sys2Proof.Machine.execLoop c a n s
  | .sysrd c d n => Sys2Proof.Machine.execSysrd c d n s
  | .syswr c n a => Sys2Proof.Machine.execSyswr c n a s
  | .syswrStatus c a => Sys2Proof.Machine.execSyswrStatus c a s
  | .syswrFctl c a => Sys2Proof.Machine.execSyswrFctl c a s
  | .syswrTcfg c a => Sys2Proof.Machine.execSyswrTcfg c a s
  | .syswrOcfg c a => Sys2Proof.Machine.execSyswrOcfg c a s
  | .syswrTstat c n a => Sys2Proof.Machine.execSyswrTstat c n a s
  | .syswrVcount c a => Sys2Proof.Machine.execSyswrVcount c a s
  | .syswrVshape c a => Sys2Proof.Machine.execSyswrVshape c a s
  | .syswrLcount c a => Sys2Proof.Machine.execSyswrLcount c a s
  | .dseNext c a => Sys2Proof.Machine.execDseNext c a s
  | .dseOvfClear c a => Sys2Proof.Machine.execDseOvfClear c a s
  | .strongroomEntry c a => Sys2Proof.Machine.execStrongroomEntry c a s
  | .strongroomExit c a => Sys2Proof.Machine.execStrongroomExit c a s
  | .fenceR c => Sys2Proof.Machine.execFenceR c s
  | .fenceW c => Sys2Proof.Machine.execFenceW c s
  | .fenceRw c => Sys2Proof.Machine.execFenceRw c s
  | .isync c => Sys2Proof.Machine.execIsync c s
  | .ecall c => Sys2Proof.Machine.execEcall c s
  | .ebreak c => Sys2Proof.Machine.execEbreak c s
  | .eret c => Sys2Proof.Machine.execEret c s
  | .sleep c => Sys2Proof.Machine.execSleep c s
  | .coreWake c => Sys2Proof.Machine.execCoreWake c s
  | .fadd c fmt rm d a b => Sys2Proof.Machine.execFadd c fmt rm d a b s
  | .fsub c fmt rm d a b => Sys2Proof.Machine.execFsub c fmt rm d a b s
  | .fmul c fmt rm d a b => Sys2Proof.Machine.execFmul c fmt rm d a b s
  | .fdiv c fmt rm d a b => Sys2Proof.Machine.execFdiv c fmt rm d a b s
  | .fsqrt c fmt rm d a => Sys2Proof.Machine.execFsqrt c fmt rm d a s
  | .fmin c fmt rm d a b => Sys2Proof.Machine.execFmin c fmt rm d a b s
  | .fmax c fmt rm d a b => Sys2Proof.Machine.execFmax c fmt rm d a b s
  | .fsgnj c fmt rm d a b => Sys2Proof.Machine.execFsgnj c fmt rm d a b s
  | .fsgnjn c fmt rm d a b => Sys2Proof.Machine.execFsgnjn c fmt rm d a b s
  | .fsgnjx c fmt rm d a b => Sys2Proof.Machine.execFsgnjx c fmt rm d a b s
  | .feq c fmt rm d a b => Sys2Proof.Machine.execFeq c fmt rm d a b s
  | .flt c fmt rm d a b => Sys2Proof.Machine.execFlt c fmt rm d a b s
  | .fle c fmt rm d a b => Sys2Proof.Machine.execFle c fmt rm d a b s
  | .fclass c fmt rm d a => Sys2Proof.Machine.execFclass c fmt rm d a s
  | .frem c fmt rm d a b => Sys2Proof.Machine.execFrem c fmt rm d a b s
  | .fmini c fmt rm d a b => Sys2Proof.Machine.execFmini c fmt rm d a b s
  | .fmaxi c fmt rm d a b => Sys2Proof.Machine.execFmaxi c fmt rm d a b s
  | .frint c fmt rm d a => Sys2Proof.Machine.execFrint c fmt rm d a s
  | .fmadd c fmt rm d a b e => Sys2Proof.Machine.execFmadd c fmt rm d a b e s
  | .fmsub c fmt rm d a b e => Sys2Proof.Machine.execFmsub c fmt rm d a b e s
  | .fnmadd c fmt rm d a b e => Sys2Proof.Machine.execFnmadd c fmt rm d a b e s
  | .fnmsub c fmt rm d a b e => Sys2Proof.Machine.execFnmsub c fmt rm d a b e s
  | .fcvtDS c rm d a => Sys2Proof.Machine.execFcvtDS c rm d a s
  | .fcvtSD c rm d a => Sys2Proof.Machine.execFcvtSD c rm d a s
  | .fcvtGF c fmt rm d a => Sys2Proof.Machine.execFcvtGF c fmt rm d a s
  | .fcvtGuF c fmt rm d a => Sys2Proof.Machine.execFcvtGuF c fmt rm d a s
  | .fcvtFG c fmt rm d a => Sys2Proof.Machine.execFcvtFG c fmt rm d a s
  | .fcvtFGu c fmt rm d a => Sys2Proof.Machine.execFcvtFGu c fmt rm d a s
  | .fmvGF c fmt rm d a => Sys2Proof.Machine.execFmvGF c fmt rm d a s
  | .fmvFG c fmt rm d a => Sys2Proof.Machine.execFmvFG c fmt rm d a s
  | .fcvtXF c code fmt rm d a => Sys2Proof.Machine.execFcvtXF c code fmt rm d a s
  | .fcvtXnF c code fmt rm d a => Sys2Proof.Machine.execFcvtXnF c code fmt rm d a s
  | .fcvtFX c code fmt rm d a => Sys2Proof.Machine.execFcvtFX c code fmt rm d a s
  | .fcvtFE8 c fmt rm d a => Sys2Proof.Machine.execFcvtFE8 c fmt rm d a s
  | .fcvtE8F c fmt rm d a => Sys2Proof.Machine.execFcvtE8F c fmt rm d a s
  | .tld c t a b z nr => Sys2Proof.Machine.execTld c t a b z nr s
  | .tst c t a b z nr => Sys2Proof.Machine.execTst c t a b z nr s
  | .tzero c t => Sys2Proof.Machine.execTzero c t s
  | .tcfg c a => Sys2Proof.Machine.execTcfg c a s
  | .tsave c a => Sys2Proof.Machine.execTsave c a s
  | .trest c a => Sys2Proof.Machine.execTrest c a s
  | .tsync c => Sys2Proof.Machine.execTsync c s
  | .tmac c d a b seg neg z => Sys2Proof.Machine.execTmac c d a b seg neg z s
  | .tmacCommit c tries => Sys2Proof.Machine.execTmacCommit c tries s
  | .laneTest c failed => Sys2Proof.Machine.execLaneTest c failed s
  | .tfold c d a b opt => Sys2Proof.Machine.execTfold c d a b opt s
  | .tfoldCommit c tries => Sys2Proof.Machine.execTfoldCommit c tries s
  | .tout c d a b m clr bit3 col => Sys2Proof.Machine.execTout c d a b m clr bit3 col s
  | .vadd c kind d a b mk => Sys2Proof.Machine.execVadd c kind d a b mk s
  | .vsub c kind d a b mk => Sys2Proof.Machine.execVsub c kind d a b mk s
  | .vand c kind d a b mk => Sys2Proof.Machine.execVand c kind d a b mk s
  | .vor c kind d a b mk => Sys2Proof.Machine.execVor c kind d a b mk s
  | .vxor c kind d a b mk => Sys2Proof.Machine.execVxor c kind d a b mk s
  | .vsll c kind d a b mk => Sys2Proof.Machine.execVsll c kind d a b mk s
  | .vsrl c kind d a b mk => Sys2Proof.Machine.execVsrl c kind d a b mk s
  | .vsra c kind d a b mk => Sys2Proof.Machine.execVsra c kind d a b mk s
  | .vmin c kind d a b mk => Sys2Proof.Machine.execVmin c kind d a b mk s
  | .vmax c kind d a b mk => Sys2Proof.Machine.execVmax c kind d a b mk s
  | .vminu c kind d a b mk => Sys2Proof.Machine.execVminu c kind d a b mk s
  | .vmaxu c kind d a b mk => Sys2Proof.Machine.execVmaxu c kind d a b mk s
  | .vmul c kind d a b mk => Sys2Proof.Machine.execVmul c kind d a b mk s
  | .vmulh c kind d a b mk => Sys2Proof.Machine.execVmulh c kind d a b mk s
  | .vmulhu c kind d a b mk => Sys2Proof.Machine.execVmulhu c kind d a b mk s
  | .vcmpeq c kind d a b mk => Sys2Proof.Machine.execVcmpeq c kind d a b mk s
  | .vcmpne c kind d a b mk => Sys2Proof.Machine.execVcmpne c kind d a b mk s
  | .vcmplt c kind d a b mk => Sys2Proof.Machine.execVcmplt c kind d a b mk s
  | .vcmple c kind d a b mk => Sys2Proof.Machine.execVcmple c kind d a b mk s
  | .vcmpltu c kind d a b mk => Sys2Proof.Machine.execVcmpltu c kind d a b mk s
  | .vcmpleu c kind d a b mk => Sys2Proof.Machine.execVcmpleu c kind d a b mk s
  | .vfadd c kind d a b mk => Sys2Proof.Machine.execVfadd c kind d a b mk s
  | .vfsub c kind d a b mk => Sys2Proof.Machine.execVfsub c kind d a b mk s
  | .vfmul c kind d a b mk => Sys2Proof.Machine.execVfmul c kind d a b mk s
  | .vfdiv c kind d a b mk => Sys2Proof.Machine.execVfdiv c kind d a b mk s
  | .vfsqrt c kind d a b mk => Sys2Proof.Machine.execVfsqrt c kind d a b mk s
  | .vfmin c kind d a b mk => Sys2Proof.Machine.execVfmin c kind d a b mk s
  | .vfmax c kind d a b mk => Sys2Proof.Machine.execVfmax c kind d a b mk s
  | .vfmadd c kind d a b mk => Sys2Proof.Machine.execVfmadd c kind d a b mk s
  | .vfnmsub c kind d a b mk => Sys2Proof.Machine.execVfnmsub c kind d a b mk s
  | .vfsgnj c kind d a b mk => Sys2Proof.Machine.execVfsgnj c kind d a b mk s
  | .vfeq c kind d a b mk => Sys2Proof.Machine.execVfeq c kind d a b mk s
  | .vflt c kind d a b mk => Sys2Proof.Machine.execVflt c kind d a b mk s
  | .vfle c kind d a b mk => Sys2Proof.Machine.execVfle c kind d a b mk s
  | .vsetl c d a shape => Sys2Proof.Machine.execVsetl c d a shape s
  | .vcvtN c d a ovsat code rm mk => Sys2Proof.Machine.execVcvtN c d a ovsat code rm mk s
  | .vcvtW c d a code rm mk => Sys2Proof.Machine.execVcvtW c d a code rm mk s
  | .vcvtIF c d a rm mk => Sys2Proof.Machine.execVcvtIF c d a rm mk s
  | .vcvtFI c d a rm mk => Sys2Proof.Machine.execVcvtFI c d a rm mk s
  | .vredsum c d a b mk => Sys2Proof.Machine.execVredsum c d a b mk s
  | .vfredsum c d a b rm mk => Sys2Proof.Machine.execVfredsum c d a b rm mk s
  | .vredmin c d a b mk => Sys2Proof.Machine.execVredmin c d a b mk s
  | .vredmax c d a b mk => Sys2Proof.Machine.execVredmax c d a b mk s
  | .vfredmin c d a b mk => Sys2Proof.Machine.execVfredmin c d a b mk s
  | .vfredmax c d a b mk => Sys2Proof.Machine.execVfredmax c d a b mk s
  | .vmvVG c d a mk => Sys2Proof.Machine.execVmvVG c d a mk s
  | .vmvGV c d a b => Sys2Proof.Machine.execVmvGV c d a b s
  | .vmvVF c d a mk => Sys2Proof.Machine.execVmvVF c d a mk s
  | .vmvFV c d a b => Sys2Proof.Machine.execVmvFV c d a b s
  | .vslidedn c d a b mk => Sys2Proof.Machine.execVslidedn c d a b mk s
  | .vslideup c d a b mk => Sys2Proof.Machine.execVslideup c d a b mk s
  | .vperm c d a b mk => Sys2Proof.Machine.execVperm c d a b mk s
  | .vcompress c d a mb => Sys2Proof.Machine.execVcompress c d a mb s
  | .vmand c d a b => Sys2Proof.Machine.execVmand c d a b s
  | .vmor c d a b => Sys2Proof.Machine.execVmor c d a b s
  | .vmxor c d a b => Sys2Proof.Machine.execVmxor c d a b s
  | .vmandn c d a b => Sys2Proof.Machine.execVmandn c d a b s
  | .vmpopc c d a => Sys2Proof.Machine.execVmpopc c d a s
  | .vmfirst c d a => Sys2Proof.Machine.execVmfirst c d a s
  | .vid c d mk => Sys2Proof.Machine.execVid c d mk s
  | .vld c d a mk => Sys2Proof.Machine.execVld c d a mk s
  | .vst c d a mk => Sys2Proof.Machine.execVst c d a mk s
  | .vlds c d a b mk => Sys2Proof.Machine.execVlds c d a b mk s
  | .vsts c d a b mk => Sys2Proof.Machine.execVsts c d a b mk s
  | .vldx c d a b iw mk => Sys2Proof.Machine.execVldx c d a b iw mk s
  | .vstx c d a b iw mk => Sys2Proof.Machine.execVstx c d a b iw mk s
  | .vldff c d a mk => Sys2Proof.Machine.execVldff c d a mk s
  | .vldxff c d a b iw mk => Sys2Proof.Machine.execVldxff c d a b iw mk s
  | .vld2 c d a mk => Sys2Proof.Machine.execVld2 c d a mk s
  | .vld3 c d a mk => Sys2Proof.Machine.execVld3 c d a mk s
  | .vld4 c d a mk => Sys2Proof.Machine.execVld4 c d a mk s
  | .vst2 c d a mk => Sys2Proof.Machine.execVst2 c d a mk s
  | .vst3 c d a mk => Sys2Proof.Machine.execVst3 c d a mk s
  | .vst4 c d a mk => Sys2Proof.Machine.execVst4 c d a mk s
  | .vlm c d a => Sys2Proof.Machine.execVlm c d a s
  | .vsm c d a => Sys2Proof.Machine.execVsm c d a s
  | .exceptionEntry c word => Sys2Proof.Machine.execExceptionEntry c word s
  | .deferredStoreError c addr size kind pl polder src => Sys2Proof.Machine.execDeferredStoreError c addr size kind pl polder src s
  | .interruptMessage n => Sys2Proof.Machine.execInterruptMessage n s
  | .irteWrite w n v => Sys2Proof.Machine.execIrteWrite w n v s
  | .iswi w c v => Sys2Proof.Machine.execIswi w c v s
  | .coreTimer c => Sys2Proof.Machine.execCoreTimer c s
  | .clean by_ w n v => Sys2Proof.Machine.execClean by_ w n v s
  | .invalidate by_ w n v => Sys2Proof.Machine.execInvalidate by_ w n v s
  | .cleanAndInvalidate by_ w n v => Sys2Proof.Machine.execCleanAndInvalidate by_ w n v s
  | .zeroFill by_ w n v => Sys2Proof.Machine.execZeroFill by_ w n v s
  | .demote by_ w n v => Sys2Proof.Machine.execDemote by_ w n v s
  | .prefetch by_ w n v => Sys2Proof.Machine.execPrefetch by_ w n v s
  | .rangeComplete w => Sys2Proof.Machine.execRangeComplete w s
  | .scrub m line => Sys2Proof.Machine.execScrub m line s
  | .ieccPoll m count => Sys2Proof.Machine.execIeccPoll m count s
  | .postPackageRepair m req lines => Sys2Proof.Machine.execPostPackageRepair m req lines s
  | .sqPi q st => Sys2Proof.Machine.execSqPi q st s
  | .rqPi q st => Sys2Proof.Machine.execRqPi q st s
  | .cqArm q st => Sys2Proof.Machine.execCqArm q st s
  | .nop q => Sys2Proof.Machine.execNop q s
  | .write q => Sys2Proof.Machine.execWrite q s
  | .read q => Sys2Proof.Machine.execRead q s
  | .send q => Sys2Proof.Machine.execSend q s
  | .atomicFadd q => Sys2Proof.Machine.execAtomicFadd q s
  | .atomicCswap q => Sys2Proof.Machine.execAtomicCswap q s
  | .flush q => Sys2Proof.Machine.execFlush q s
  | .wait q => Sys2Proof.Machine.execWait q s
  | .waitSatisfied q => Sys2Proof.Machine.execWaitSatisfied q s
  | .packetTransmit q => Sys2Proof.Machine.execPacketTransmit q s
  | .writePacket f => Sys2Proof.Machine.execWritePacket f s
  | .sendPacket f => Sys2Proof.Machine.execSendPacket f s
  | .readReq f => Sys2Proof.Machine.execReadReq f s
  | .readResp f => Sys2Proof.Machine.execReadResp f s
  | .atomicReq f => Sys2Proof.Machine.execAtomicReq f s
  | .atomicResp f => Sys2Proof.Machine.execAtomicResp f s
  | .flushReq f => Sys2Proof.Machine.execFlushReq f s
  | .flushResp f => Sys2Proof.Machine.execFlushResp f s
  | .ack f => Sys2Proof.Machine.execAck f s
  | .nak f => Sys2Proof.Machine.execNak f s
  | .echo f => Sys2Proof.Machine.execEcho f s
  | .ackTimer q => Sys2Proof.Machine.execAckTimer q s
  | .echoTimer q => Sys2Proof.Machine.execEchoTimer q s
  | .retransmitTimeout q => Sys2Proof.Machine.execRetransmitTimeout q s
  | .rnrBackoff q => Sys2Proof.Machine.execRnrBackoff q s
  | .rateWindow q => Sys2Proof.Machine.execRateWindow q s
  | .rateIdleReset q => Sys2Proof.Machine.execRateIdleReset q s
  | .contextFetchDone q ok => Sys2Proof.Machine.execContextFetchDone q ok s
  | .revokeCut idx => Sys2Proof.Machine.execRevokeCut idx s
  | .step sh by_ st => Sys2Proof.Machine.execStep sh by_ st s
  | .leveeTmrWrite by_ sh v => Sys2Proof.Machine.execLeveeTmrWrite by_ sh v s
  | .leveeTimer sh => Sys2Proof.Machine.execLeveeTimer sh s
  | .armPoint sh => Sys2Proof.Machine.execArmPoint sh s
  | .armResume sh => Sys2Proof.Machine.execArmResume sh s
  | .granuleCopy sh => Sys2Proof.Machine.execGranuleCopy sh s
  | .commitRecord sh => Sys2Proof.Machine.execCommitRecord sh s
  | .restoreCopy sh => Sys2Proof.Machine.execRestoreCopy sh s
  | .pauseWatchdog c => Sys2Proof.Machine.execPauseWatchdog c s
  | .fabricWatchdog port => Sys2Proof.Machine.execFabricWatchdog port s
  | .fabricReplayExhausted port => Sys2Proof.Machine.execFabricReplayExhausted port s
  | .lateSpeaker port requests => Sys2Proof.Machine.execLateSpeaker port requests s
  | .spareRoomMove c => Sys2Proof.Machine.execSpareRoomMove c s
  | .wayDisable w way => Sys2Proof.Machine.execWayDisable w way s
  | .rowRepair m req lines => Sys2Proof.Machine.execRowRepair m req lines s
  | .unitFence levee => Sys2Proof.Machine.execUnitFence levee s
  | .aluAddT m => Sys2Proof.Machine.execAluAddT m s
  | .aluAdcT m => Sys2Proof.Machine.execAluAdcT m s
  | .aluSubT m => Sys2Proof.Machine.execAluSubT m s
  | .aluSbcT m => Sys2Proof.Machine.execAluSbcT m s
  | .aluAndT m => Sys2Proof.Machine.execAluAndT m s
  | .aluOrT m => Sys2Proof.Machine.execAluOrT m s
  | .aluXorT m => Sys2Proof.Machine.execAluXorT m s
  | .aluCmpT m => Sys2Proof.Machine.execAluCmpT m s
  | .aluShlT m => Sys2Proof.Machine.execAluShlT m s
  | .aluShrT m => Sys2Proof.Machine.execAluShrT m s
  | .aluSarT m => Sys2Proof.Machine.execAluSarT m s
  | .aluMovT m => Sys2Proof.Machine.execAluMovT m s
  | .ptrAddT n m => Sys2Proof.Machine.execPtrAddT n m s
  | .lsuLdpT m => Sys2Proof.Machine.execLsuLdpT m s
  | .lsuStpT m => Sys2Proof.Machine.execLsuStpT m s
  | .lsuLdaT m => Sys2Proof.Machine.execLsuLdaT m s
  | .lsuStaT m => Sys2Proof.Machine.execLsuStaT m s
  | .stkPushT m => Sys2Proof.Machine.execStkPushT m s
  | .stkPop second dst rest => Sys2Proof.Machine.execStkPop second dst rest s
  | .brJmpT m => Sys2Proof.Machine.execBrJmpT m s
  | .brZT m => Sys2Proof.Machine.execBrZT m s
  | .brNzT m => Sys2Proof.Machine.execBrNzT m s
  | .brCT m => Sys2Proof.Machine.execBrCT m s
  | .brNcT m => Sys2Proof.Machine.execBrNcT m s
  | .brNT m => Sys2Proof.Machine.execBrNT m s
  | .brLtT m => Sys2Proof.Machine.execBrLtT m s
  | .brGeT m => Sys2Proof.Machine.execBrGeT m s
  | .brCallT m => Sys2Proof.Machine.execBrCallT m s
  | .brRetT m => Sys2Proof.Machine.execBrRetT m s
  | .evtWaitT m => Sys2Proof.Machine.execEvtWaitT m s
  | .evtWaitResume => Sys2Proof.Machine.execEvtWaitResume s
  | .evtClrT m => Sys2Proof.Machine.execEvtClrT m s
  | .tmrT m => Sys2Proof.Machine.execTmrT m s
  | .timerExpiry => Sys2Proof.Machine.execTimerExpiry s
  | .hbT m => Sys2Proof.Machine.execHbT m s
  | .moverGo v => Sys2Proof.Machine.execMoverGo v s
  | .moverDone => Sys2Proof.Machine.execMoverDone s
  | .phMboxWrite by_ v => Sys2Proof.Machine.execPhMboxWrite by_ v s
  | .poRplciWrite by_ v => Sys2Proof.Machine.execPoRplciWrite by_ v s
  | .identify p => Sys2Proof.Machine.execIdentify p s
  | .setLatency p => Sys2Proof.Machine.execSetLatency p s
  | .setQuiet p => Sys2Proof.Machine.execSetQuiet p s
  | .setPowerCap p => Sys2Proof.Machine.execSetPowerCap p s
  | .powerStatus p => Sys2Proof.Machine.execPowerStatus p s
  | .corePause p => Sys2Proof.Machine.execCorePause p s
  | .coreResume p => Sys2Proof.Machine.execCoreResume p s
  | .coreReset p => Sys2Proof.Machine.execCoreReset p s
  | .coreStatus p => Sys2Proof.Machine.execCoreStatus p s
  | .keyLoad p => Sys2Proof.Machine.execKeyLoad p s
  | .keyErase p => Sys2Proof.Machine.execKeyErase p s
  | .slConfig p => Sys2Proof.Machine.execSlConfig p s
  | .regionRegister p => Sys2Proof.Machine.execRegionRegister p s
  | .regionRevoke p => Sys2Proof.Machine.execRegionRevoke p s
  | .qpCreate p => Sys2Proof.Machine.execQpCreate p s
  | .qpModify p => Sys2Proof.Machine.execQpModify p s
  | .qpDestroy p => Sys2Proof.Machine.execQpDestroy p s
  | .qpQuery p => Sys2Proof.Machine.execQpQuery p s
  | .anteQuota p => Sys2Proof.Machine.execAnteQuota p s
  | .shardDefine p => Sys2Proof.Machine.execShardDefine p s
  | .shardDisable p => Sys2Proof.Machine.execShardDisable p s
  | .leveeCheckpoint p => Sys2Proof.Machine.execLeveeCheckpoint p s
  | .leveeRestore p => Sys2Proof.Machine.execLeveeRestore p s
  | .leveeAbort p => Sys2Proof.Machine.execLeveeAbort p s
  | .rasStatus p => Sys2Proof.Machine.execRasStatus p s
  | .rasCounts p => Sys2Proof.Machine.execRasCounts p s
  | .lptRelease p => Sys2Proof.Machine.execLptRelease p s
  | .coreFence p => Sys2Proof.Machine.execCoreFence p s
  | .fwInfo p => Sys2Proof.Machine.execFwInfo p s
  | .fwSvnRaise p => Sys2Proof.Machine.execFwSvnRaise p s
  | .fwSvnRaiseDone => Sys2Proof.Machine.execFwSvnRaiseDone s
  | .fwReload p su => Sys2Proof.Machine.execFwReload p su s
  | .telemConfig p => Sys2Proof.Machine.execTelemConfig p s
  | .thermLimits p => Sys2Proof.Machine.execThermLimits p s
  | .thermStatus p => Sys2Proof.Machine.execThermStatus p s
  | .shutdown p => Sys2Proof.Machine.execShutdown p s
  | .dieReset p su => Sys2Proof.Machine.execDieReset p su s
  | .telemetrySample t => Sys2Proof.Machine.execTelemetrySample t s
  | .powerSample avg10us avg1ms => Sys2Proof.Machine.execPowerSample avg10us avg1ms s
  | .thermalSample temps => Sys2Proof.Machine.execThermalSample temps s
  | .criticalTimeout => Sys2Proof.Machine.execCriticalTimeout s
  | .thermAlertN active => Sys2Proof.Machine.execThermAlertN active s
  | .stormMaskEnd pin => Sys2Proof.Machine.execStormMaskEnd pin s
  | .thermAlertStuck => Sys2Proof.Machine.execThermAlertStuck s
  | .wakeN active => Sys2Proof.Machine.execWakeN active s
  | .wakeStuck => Sys2Proof.Machine.execWakeStuck s
  | .rstN => Sys2Proof.Machine.execRstN s
  | .coldReset powerOn su => Sys2Proof.Machine.execColdReset powerOn su s
  | .fwFetchTimeout => Sys2Proof.Machine.execFwFetchTimeout s
  | .pwWrst by_ v su => Sys2Proof.Machine.execPwWrst by_ v su s
  | .refclkLoss => Sys2Proof.Machine.execRefclkLoss s
  | .rootPllUnlock => Sys2Proof.Machine.execRootPllUnlock s
  | .stackPllUnlock m => Sys2Proof.Machine.execStackPllUnlock m s
  | .railOutOfRange rail => Sys2Proof.Machine.execRailOutOfRange rail s
  | .powerRemoval => Sys2Proof.Machine.execPowerRemoval s
  | .unitPowerGate c vector => Sys2Proof.Machine.execUnitPowerGate c vector s
  | .dieQuietEntry => Sys2Proof.Machine.execDieQuietEntry s
  | .dieQuietExit => Sys2Proof.Machine.execDieQuietExit s
  | .training n ok rate x32 repaired => Sys2Proof.Machine.execTraining n ok rate x32 repaired s
  | .laneFault n repairable ok rate x32 => Sys2Proof.Machine.execLaneFault n repairable ok rate x32 s
  | .retrain by_ n v ok rate x32 repaired => Sys2Proof.Machine.execRetrain by_ n v ok rate x32 repaired s
  | .doorwayDisable by_ n v => Sys2Proof.Machine.execDoorwayDisable by_ n v s
  | .l1Entry n => Sys2Proof.Machine.execL1Entry n s
  | .flit n bits => Sys2Proof.Machine.execFlit n bits s
  | .flitKeepalive n => Sys2Proof.Machine.execFlitKeepalive n s
  | .init n version node assign cap credits => Sys2Proof.Machine.execInit n version node assign cap credits s
  | .initResend n => Sys2Proof.Machine.execInitResend n s
  | .quiesce n => Sys2Proof.Machine.execQuiesce n s
  | .stop n => Sys2Proof.Machine.execStop n s
  | .doorwayLost n => Sys2Proof.Machine.execDoorwayLost n s
  | .rdshared n m => Sys2Proof.Machine.execRdshared n m s
  | .rdown n m => Sys2Proof.Machine.execRdown n m s
  | .upgrade n m => Sys2Proof.Machine.execUpgrade n m s
  | .rdcur n m => Sys2Proof.Machine.execRdcur n m s
  | .wrline n m => Sys2Proof.Machine.execWrline n m s
  | .wrpart n m => Sys2Proof.Machine.execWrpart n m s
  | .evict n m => Sys2Proof.Machine.execEvict n m s
  | .wbline n m => Sys2Proof.Machine.execWbline n m s
  | .thAtomic n m => Sys2Proof.Machine.execThAtomic n m s
  | .thFlush n m => Sys2Proof.Machine.execThFlush n m s
  | .devrd n m => Sys2Proof.Machine.execDevrd n m s
  | .devwr n m => Sys2Proof.Machine.execDevwr n m s
  | .int n m => Sys2Proof.Machine.execInt n m s
  | .incupd n m => Sys2Proof.Machine.execIncupd n m s
  | .cmp n m => Sys2Proof.Machine.execCmp n m s
  | .gntm n m => Sys2Proof.Machine.execGntm n m s
  | .devdata n m => Sys2Proof.Machine.execDevdata n m s
  | .atmdata n m => Sys2Proof.Machine.execAtmdata n m s
  | .snpack n m => Sys2Proof.Machine.execSnpack n m s
  | .snpinv n m => Sys2Proof.Machine.execSnpinv n m s
  | .snpshr n m => Sys2Proof.Machine.execSnpshr n m s
  | .snpdown n m => Sys2Proof.Machine.execSnpdown n m s
  | .snpcur n m => Sys2Proof.Machine.execSnpcur n m s
  | .datas n m => Sys2Proof.Machine.execDatas n m s
  | .datae n m => Sys2Proof.Machine.execDatae n m s
  | .datam n m => Sys2Proof.Machine.execDatam n m s
  | .datacur n m => Sys2Proof.Machine.execDatacur n m s
  | .datawr n m => Sys2Proof.Machine.execDatawr n m s
  | .datapart n m => Sys2Proof.Machine.execDatapart n m s
  | .datawb n m => Sys2Proof.Machine.execDatawb n m s
  | .datasnpi n m => Sys2Proof.Machine.execDatasnpi n m s
  | .datasnpo n m => Sys2Proof.Machine.execDatasnpo n m s
  | .datasnpkeep n m => Sys2Proof.Machine.execDatasnpkeep n m s
  | .idcode => Sys2Proof.Machine.execIdcode s
  | .bypass => Sys2Proof.Machine.execBypass s
  | .samplePreload => Sys2Proof.Machine.execSamplePreload s
  | .extest outputs => Sys2Proof.Machine.execExtest outputs s
  | .lvuSelfTest c passed => Sys2Proof.Machine.execLvuSelfTest c passed s
  | .registerWrite by_ off size v => Sys2Proof.Machine.execRegisterWrite by_ off size v s
  | .move w => Sys2Proof.Machine.execMove w s

end Machine
end Sys2Proof
end

