-- ==== Sys2Proof/Machine/Step.lean ====
section
/-! DEFINITION. One step of the die: the command at the front of the queue, or one LTIME tick. -/

namespace Sys2Proof
namespace Machine

/-- Take the front command and perform it with the queue's rest; on an empty queue one LTIME tick passes where the root PLL has locked, runs and
is out of reset (R26, R28, R503; log entry 8). -/
def step (s : State) : Host.Outcome State Fault Refusal :=
  match s.pending with
  | [] => .next (if s.power.rootLock && !s.power.rootOff && !s.inReset then { s with ltime := s.ltime + 1 } else s)
  | i :: rest => exec i { s with pending := rest }

/-- The command that a word spells, put at the front of the queue; no row of the table gives bits, so nothing changes. -/
def State.withFetchWord (s : State) (nbits w : Nat) : State :=
  match Sys2Proof.decodeTableWord nbits w with
  | some i => { s with pending := i :: s.pending }
  | none => s

end Machine
end Sys2Proof
end

