-- ==== Sys2Proof/Safety.lean ====
section
/-! DEFINITION. What a run may count on: the state's own form, which every command keeps, and a die that has not stopped. -/

namespace Sys2Proof
namespace Machine

/-- A core's strongroom SRAM is in canonical form. -/
def Core.wfd (k : Core) : Bool := Memory.wf k.sram

/-- Memory, the SRAMs of the cores and the pumphouse are in canonical form, so that equal contents are equal data. -/
def State.memWf (s : State) : Bool :=
  Memory.wf s.mem.bytes && s.cores.toList.all Core.wfd && Memory.wf s.pump.code && Memory.wf s.pump.data

/-- An outcome that is a next state: neither the host nor the firmware has done what the spec leaves undefined (R7). -/
def goesOn : Host.Outcome State Fault Refusal → Bool
  | .next _ => true
  | .fault _ => false
  | .refused _ => false

/-- The die has neither stopped (R454) nor been held in reset (R563, R571). -/
def State.live (s : State) : Bool := !s.coff.dieStop && !s.inReset

/-! ## Where an instruction of a core completes -/

/-- The core runs, nothing asks it to pause, no event is taken at its boundary, its register files are sound, and the fetch at its PC passes
its checks, with its line where it stays (R283, R306, R337, R434). -/
structure Ready (c : CoreId) (s : State) : Prop where
  runs : s.runs c = true
  noPause : (s.core c).pausing = false
  noArm : (s.core c).armPausing = false
  noEvent : s.boundary c = .none
  files : (s.core c).fileErr = none
  fetches : fetchCheck c (s.pc c) s = .ok () s

/-- The same, for a branch, which must not stand at LEND of an active loop (R67). -/
structure ReadyBranch (c : CoreId) (s : State) : Prop extends Ready c s where
  notEnd : (s.core c).loopEnd true = false

/-- An instruction whose body has left state `t` retires: the PC and the loop count move (R66, R68), and the answers that it has used are
forgotten. -/
def retire (c : CoreId) (n : Next) (t : State) : State := clearAnswers (.core c) (t.modCore c (·.advance n))

/-- The instruction writes a general register and retires in sequence. -/
def writesG (c : CoreId) (d : Reg) (v : Word) (s : State) (i : Instr) : Prop := exec i s = .next (retire c .seq (s.setG c d v))

/-- The instruction changes its own core's registers and retires in sequence. -/
def changesCore (c : CoreId) (f : Core → Core) (s : State) (i : Instr) : Prop := exec i s = .next (retire c .seq (s.modCore c f))

/-- The branch is taken to an address, or falls through. -/
def branches (c : CoreId) (taken : Bool) (a : Word) (s : State) (i : Instr) : Prop :=
  exec i s = .next (retire c (if taken then .jump a else .seq) s)

/-- n bytes from an address on lie in the strongroom SRAM, and none of them is uncorrectable (R269, R271). -/
structure InSram (c : CoreId) (a n : Nat) (s : State) : Prop where
  base : 0xFFC0000000000 ≤ a
  top : a + n ≤ 0xFFC0000040000
  good : ∀ i < n, (s.core c).sramBad.contains (a - 0xFFC0000000000 + i) = false

/-- The core is at PL2 or PL3, outside strongroom mode: its addresses are physical (R336, R338). -/
structure Physical (c : CoreId) (s : State) : Prop where
  level : (s.pl c).ult 2 = false
  outside : (s.core c).srm = false

/-- An aligned access to the strongroom SRAM that the level may make: at PL2 or PL3, or in strongroom mode inside its window (R271). -/
structure SramAccess (c : CoreId) (a n : Nat) (s : State) : Prop extends InSram c a n s where
  aligned : a % n = 0
  reach : Physical c s ∨ ((s.core c).srm = true ∧ (s.core c).srwinOk (a - 0xFFC0000000000) n = true)

/-- The lines of an access of n bytes at an address: one, or two where a misaligned one crosses a line (R63). -/
def linesAt (a n : Nat) : List Nat := if a / 64 = (a + n - 1) / 64 then [a / 64] else [a / 64, (a + n - 1) / 64]

/-- An access at PL2 or PL3 to lines of package memory that the core's L2 holds, sound, in pages that are not lost; aligned, or misaligned with
STATUS.MAL at 1 (R63, R308, R314, R434, R438). -/
structure HeldAccess (c : CoreId) (a n : Nat) (s : State) : Prop extends Physical c s where
  aligned : a % n = 0 ∨ (s.core c).mal = true
  package : a + n ≤ 0x10000000000
  held : ∀ l ∈ linesAt a n, (coreHolds (s.core c) l).isSome = true
  kept : ∀ l ∈ linesAt a n, s.lost (64 * l) = false
  sound : ∀ l ∈ linesAt a n, mget none s.mem.arrays l = none ∧ s.spoilt l = false

/-- The core's caches once the access has met its lines there: only the L1 copies and the replacement trees change. -/
def heldHit (c : CoreId) (a n : Nat) (s : State) : State := (linesAt a n).foldl (fun t l => coreHit c false l t) s

/-- The bytes of the strongroom SRAM at an address. -/
def sramBytes (c : CoreId) (a n : Nat) (s : State) : List Byte := rdBytes (s.core c).sram (a - 0xFFC0000000000) n

/-- Bytes written to the strongroom SRAM. -/
def sramPut (c : CoreId) (a : Nat) (bs : List Byte) (s : State) : State :=
  s.modCore c fun k => { k with sram := wrBytes k.sram (a - 0xFFC0000000000) bs, sramBad := k.sramBad.filter fun x => x < a - 0xFFC0000000000 || a - 0xFFC0000000000 + bs.length ≤ x }

/-! ## Tile and vector instructions -/

/-- A ready core outside strongroom mode, with tile state enabled and an engine that runs (R129, R174). -/
structure TileReady (c : CoreId) (s : State) : Prop extends Ready c s where
  outside : (s.core c).srm = false
  enabled : (s.core c).ten = true
  running : (s.core c).mxStopped = false

/-- A ready core outside strongroom mode, with vector state enabled (R232). -/
structure VecReady (c : CoreId) (s : State) : Prop extends Ready c s where
  outside : (s.core c).srm = false
  enabled : (s.core c).ven = true

/-- What a vector instruction leaves of its core but for the vector file in use, VSTAT and its masks: VRESUME is 0, and the unit's power
gate is released by use (R223, R238, R243). -/
def vecFrame (k k' : Core) : Prop :=
  k' = { k with v := k'.v, f := k'.f, m := k'.m, cm := k'.cm, vstat := k'.vstat, vresume := 0, vuGated := k.vuGated && !k.vuOn } ∧
    (k.vuOn = true → k'.f = k.f ∧ k'.cm = k.cm) ∧ (k.vuOn = false → k'.v = k.v ∧ k'.m = k.m)

/-- The elements of a list, w bits wide, of the group at vD take their values; every other element and register keeps its own; the flags
are ORed into VSTAT (R227, R238). -/
def writesElems (c : CoreId) (d w : Nat) (es : List Nat) (f : Nat → Nat × Flags) (s : State) (i : Instr) : Prop :=
  let k := s.core c
  ∃ k' : Core, exec i s = .next (retire c .seq (s.setCore c k')) ∧ vecFrame k k' ∧ k'.m = k.m ∧ k'.cm = k.cm ∧
    (∀ e, d + e * w / k.vlen < 32 → k'.velem d w e = if e ∈ es then (f e).1 % 2 ^ w else k.velem d w e) ∧
    (∀ n < 32, (∀ e ∈ es, n ≠ d + e * w / k.vlen) → k'.vreg n = k.vreg n) ∧
    k'.vstat = es.foldl (fun v e => v ||| (f e).2.setWidth 64) k.vstat

/-- The bits of a list in mask register mD take their values; every other bit keeps its own (R228). -/
def writesBits (c : CoreId) (d : Fin 16) (es : List Nat) (f : Nat → Bool × Flags) (s : State) (i : Instr) : Prop :=
  let k := s.core c
  ∃ k' : Core, exec i s = .next (retire c .seq (s.setCore c k')) ∧ vecFrame k k' ∧ k'.v = k.v ∧ k'.f = k.f ∧
    (∀ e < k.vlen, k'.mbit d e = if e ∈ es then (f e).1 else k.mbit d e) ∧
    (∀ n : Fin 16, n ≠ d → k'.mreg n = k.mreg n) ∧
    k'.vstat = es.foldl (fun v e => v ||| (f e).2.setWidth 64) k.vstat

/-- Position m of level l of a reduction's balanced tree, with its flags: level 0 holds the elements, and each level combines the pairs of the
level below; a value beside an empty position passes on (R236). -/
def treeAt (f : Nat → Nat → Nat × Flags) (leaf : Nat → Option Nat) : Nat → Nat → Option Nat × Flags
  | 0, m => (leaf m, 0)
  | l + 1, m =>
    let x := treeAt f leaf l (2 * m)
    let y := treeAt f leaf l (2 * m + 1)
    match x.1, y.1 with
    | some u, some v => (some (f u v).1, x.2 ||| y.2 ||| (f u v).2)
    | some u, none => (some u, x.2 ||| y.2)
    | none, v => (v, x.2 ||| y.2)

/-- A vector instruction whose result is in the scalar registers. -/
def vecScalar (c : CoreId) (f : Core → Core) (s : State) (i : Instr) : Prop :=
  changesCore c (fun k => { f k with vresume := 0, vuGated := k.vuGated && !k.vuOn }) s i

/-! ## Sluice rows -/

/-- A piece of the sluice's work that has left state t ends: regions settle, and used answers are forgotten. -/
def sluiceDone (q : Nat) (t : State) : Host.Outcome State Fault Refusal := .next (clearAnswers (.sluice q) (settleRegions t))

/-- The work request at SQ_CI of a queue pair in RTS can be read and may start: `t` is the state once its entry has been read (R359, R363). -/
structure WrFront (q : Nat) (x : QueuePair) (w : WorkReq) (s t : State) : Prop where
  qp : s.qp q = some x
  up : sluiceUp s = true
  rts : x.state = 3
  posted : x.sqPi ≠ x.sqCi
  onDie : x.onDie = true
  entry : ∃ bs, ringRead q x x.sqKey x.sqAddr x.sqLog x.sqCi 64 s = .ok (.ok bs) t ∧ parseWr bs = w
  same : t.qp q = some x
  starts : canStart t x w = true
  good : badWr w = false

/-- The queue pair once the work request is in progress; to start it is a use of the context besides (R380). -/
def wrOpened (x : QueuePair) (w : WorkReq) : QueuePair :=
  { x with
    sqCi := x.sqCi + 1, nextPsn := x.nextPsn + BitVec.ofNat 24 (wrPsns x.mtuBytes w)
    opens := x.opens ++ [⟨w, x.nextPsn, wrPsns x.mtuBytes w, 0, 0, none, none⟩] }

/-- A packet without a CE mark reaches a queue pair of a sluice that works (R389). -/
structure Arrives (typ : BitVec 8) (f : Frame) (q : Nat) (x : QueuePair) (s : State) : Prop where
  up : sluiceUp s = true
  pair : arrivalQp typ f s = some (q, x)
  clear : f.ce = false

/-- A request packet that is the next of its queue pair, with nothing in its way (R376, R391, R405). -/
structure NextRequest (typ : BitVec 8) (f : Frame) (q : Nat) (x : QueuePair) (s : State) : Prop extends Arrives typ f q x s where
  state : x.state = 2 ∨ x.state = 3
  onDie : x.onDie = true
  awake : s.power.inQuiet = false
  near : regionAway s x typ f = false
  noNak : x.nak = none
  noAnte : x.anteNak = none
  noParked : x.parked = []
  next : f.psn = x.epsn
  noRx : x.rx = none
  noAhead : x.ahead = []
  noEarly : x.early = []

/-- The state in which a request packet that has arrived is served; a packet of a response type is taken up in the same state. -/
def served (typ : BitVec 8) (f : Frame) (q : Nat) (s : State) : State := touchQp q (countRx typ f s)

/-- The latest packet on the wire. -/
def sentLast (t : State) (typ : BitVec 8) (q : Nat) (psn : BitVec 24) : Prop :=
  ∃ p, t.sluice.wire.head? = some p ∧ p.typ = typ ∧ p.qpn = q ∧ p.frame.psn = psn

/-! ## Pumphouse words -/

/-- The port starts an operation, where the others hold a value (R462). -/
def phTriggers (port : Nat) : Bool := (phUnit port).isSome || port = 0x6A || port = 0x6B

/-- The moves of a word as the destination and the value that its source has at the start of the word (R458, R459). -/
def phValues (w : BitVec 32) (s : State) : List (Nat × BitVec 16) :=
  match phSources w s with
  | .ok ms _ => ms
  | .error _ _ => []

/-- The sequencer executes a legal word from code SRAM or boot ROM that moves v into a port, with no other trigger beside it; the data stack
is in its SRAM where the word reads it (R457, R460, R467, R468). -/
structure PhWord (w : BitVec 32) (port : Nat) (v : BitVec 16) (s : State) : Prop where
  runs : phRuns s = true
  aligned : s.pump.pc.toNat % 4 = 0
  region : s.pump.pc.toNat < 0xA000 ∨ 0xF000 ≤ s.pump.pc.toNat
  good : ∀ i < 4, s.pump.badSram.contains (s.pump.pc.toNat + i) = false
  legal : phIllegal w = false
  stack : ∀ m ∈ phMoves w, m.1 = 0x38 ∨ m.1 = 0x39 → inData s.pump.dsp.toNat = true ∧ s.pump.badSram.contains s.pump.dsp.toNat = false
  moved : (port, v) ∈ phValues w s
  alone : ∀ m ∈ phMoves w, m.2 ≠ port → phTriggers m.2 = false

/-- The state once the word is fetched and its sources are read: the single-bit errors that it meets are corrected, counted and recorded
(R434, R457). -/
def phRead (w : BitVec 32) (s : State) : State :=
  match phSources w s with
  | .ok _ t => t
  | .error _ t => t

/-- The halt that the word brings about. -/
def phStops (cause : BitVec 4) (w : BitVec 32) (s : State) : Host.Outcome State Fault Refusal := .next (phHalt cause (phRead w s))

/-- The pumphouse once the word's pop and its moves into operand ports are made, at the next word. -/
def phBefore (w : BitVec 32) (s : State) : Pump :=
  { (phValues w s).foldl phOperand (phRead w s).pump with
    dsp := dspAfter s.pump (((phMoves w).map (·.1)).contains 0x39) (phValues w s)
    pc := s.pump.pc + 4 }

/-- The address lies in a line of this die's memory that no cache or other die has, with nothing wrong or under way (R308, R543). -/
structure QuietLine (a : Nat) (s : State) : Prop where
  home : ∃ d, place a = .mem d ∧ s.ownDie d = true
  fitted : (stackOf a).val < nStacks s.variant
  kept : s.lost (64 * (a / 64)) = false
  noCopy : dirOf s (a / 64) = DirEntry.none
  noHold : holdings s (a / 64) = []
  idle : ∀ t ∈ s.th.txns, t.line ≠ a / 64
  good : s.errsOf (a / 64) = 0 ∧ mget none s.mem.dirErrs (a / 64) = none ∧ mget none s.mem.arrays (a / 64) = none ∧ s.spoilt (a / 64) = false
  whole : ∀ k : Fin 4, s.nodeLost k.val = false
  saved : s.unsaved a = false ∧ s.unsaved (64 * (a / 64)) = false

/-- The word goes on and leaves the pumphouse so; a word takes n cycles. -/
def phGoes (n : Nat) (w : BitVec 32) (q : Pump) (s : State) : Host.Outcome State Fault Refusal :=
  .next { phRead w s with pump := tickLoads n q }

/-! ## Porch commands -/

/-- No event waits, and the cofferdam's own SRAM is sound. -/
def noEvents (s : State) : Prop := s.coff.events = [] ∧ s.coff.sramErr = none

/-- No write of a reply to a mirror in this die's memory waits at its home (R485). -/
def noMirrorWrite (s : State) : Prop := ∀ e ∈ s.th.queued, e.2.m.src ≠ s.node

/-- The command stands at the front of the command ring, and the pumphouse can start it: it serves commands, the reply ring has room, no
event waits, and nothing that the command has to wait for is under way (R481 to R490). -/
structure PorchFront (op : BitVec 8) (p : Packet) (s : State) : Prop where
  serves : canServe s = true
  posted : s.porch.cmdCi ≠ s.porch.cmdPi
  front : slotWords s s.porch.cmdCi = packetWords op p
  noEvents : noEvents s
  noMirror : noMirrorWrite s
  free : bit p.flags 0 = false ∨ s.porch.accepted = []

/-- The packet keeps to its format: flags, reserved fields, LENGTH, PADDR; `ms` are the defined bits of P2 on (R483, R585). -/
structure PacketGood (p : Packet) (lenOk : Prop) (ms : List Word) : Prop where
  flags : p.flags.ult 4 = true
  rsv : p.rsv = 0
  length : lenOk
  aligned : p.length ≠ 0 → p.paddr.toNat % 64 = 0
  params : ∀ i < 6, [p.p2, p.p3, p.p4, p.p5, p.p6, p.p7].getD i 0 &&& ~~~(ms.getD i 0) = 0

/-- A good command at the front of the ring of a die that serves it. -/
structure PorchGood (op : BitVec 8) (p : Packet) (lenOk : Prop) (ms : List Word) (s : State) : Prop extends PorchFront op p s where
  good : PacketGood p lenOk ms
  serving : onlySome op s = false

/-- The command leaves the ring, and its direct reply is written; QUIET suppresses one that says OK (R485, R489). -/
def replied (op : BitVec 8) (p : Packet) (st : BitVec 8) (d : BitVec 16) (r0 r1 r2 : Word) (t : State) : State :=
  answer (bit p.flags 1) p.tag op st d r0 r1 r2 (takeSlot t)

/-- A command that ends with a direct reply, where its effect leaves state t; a write of the reply to a mirror in this die's memory is served. -/
def repliesWith (op : BitVec 8) (p : Packet) (st : BitVec 8) (d : BitVec 16) (r0 r1 r2 : Word) (t s : State) (i : Instr) : Prop :=
  exec i s = .next (mirrored (clearAnswers .pump (replied op p st d r0 r1 r2 t)))

/-- A command that is ACCEPTED and goes on in the background with an object, a count and data (R487). -/
def accepts (op : BitVec 8) (p : Packet) (obj n : Nat) (x : Word) (t s : State) (i : Instr) : Prop :=
  exec i s = .next (mirrored (clearAnswers .pump (startBackground ⟨p.tag, op, bit p.flags 1, obj, n, x⟩ (takeSlot t))))

/-! ## Messages of other nodes -/

/-- A message reaches a linked doorway outside L1, and its port's incarnation is in force there; nothing waits at the homes, for a reply or to
interrupt the host (R530, R543 to R547, R553). -/
structure Linked (n : Fin 8) (m : ThMsg) (s : State) : Prop where
  linked : linked n s = true
  active : s.doors[n.val].l1 = false
  noInts : s.th.ints = []
  noQueue : s.th.queued = []
  noTxn : s.th.txns = []
  noDirect : s.porch.direct = none
  inbox : s.doors[n.val].inbox = []
  current : stale s n m = false
  gate : (s.gate (0x38 + n.val)).open_ = true
  awake : s.power.inQuiet = false
  clocked : s.power.rootOff = false
  noAnswer : supplied (.door n) (m.addr.toNat / 64) s = none

/-- The row's message has been performed, and state u is left but for its answer to the sender. -/
def answersBy (n : Fin 8) (m : ThMsg) (cls : BitVec 2) (op : BitVec 6) (r : ThMsg) (u s : State) (i : Instr) : Prop :=
  exec i s = .next (clearSupply (.door n) (m.addr.toNat / 64) (respond m cls op r u))

/-! ## Where an exception is taken and returned from -/

/-- What an entry for a cause saves (R283, R292). -/
def savedAt (c : CoreId) (cause : BitVec 8) (sub : BitVec 4) (imprec : Bool) (addr : Option Word) (fromPl : BitVec 2) (s : State) : Saved :=
  let k := s.core c
  ⟨k.pc, k.status, put cause 0 ||| flag imprec 8 ||| flag addr.isSome 9 ||| put sub 12 ||| put fromPl 16, addr.getD 0⟩

/-- The frame of an entry to level t, and its vector-table entry (R292, R293). -/
def frameAt (c : CoreId) (t : BitVec 2) (s : State) : Nat := ((s.core c).spxAt t - 192).toNat
def vectorAt (c : CoreId) (cause : BitVec 8) (t : BitVec 2) (s : State) : Nat :=
  (((s.core c).vbaseAt t &&& 0xFFFFFFFFFFFFF800) + BitVec.ofNat 64 (8 * cause.toNat)).toNat

/-- The state once the frame is written. -/
def framed (c : CoreId) (t : BitVec 2) (x : Saved) (s : State) : State :=
  sramPut c (frameAt c t s) (frameBytes (s.core c) x) s

/-- The handler's address, as the entry reads it. -/
def handlerAt (c : CoreId) (cause : BitVec 8) (t : BitVec 2) (x : Saved) (s : State) : Word :=
  BitVec.ofNat 64 (fromLe (sramBytes c (vectorAt c cause t s) 8 (framed c t x s)))

/-- An entry to PL2 or PL3 whose frame, vector-table entry and handler lie in the strongroom SRAM meets no failure (R293, R299). -/
structure EntryGood (c : CoreId) (cause : BitVec 8) (t : BitVec 2) (x : Saved) (s : State) : Prop where
  level : t.ult 2 = false
  frame : InSram c (frameAt c t s) 192 s
  frameLine : frameAt c t s % 64 = 0
  vector : InSram c (vectorAt c cause t s) 8 s
  handler : InSram c (handlerAt c cause t x s).toNat 4 s
  handlerWord : fld (handlerAt c cause t x s) 0 2 = 0

/-- Nothing of the current instruction is under way. -/
def unbegun (c : CoreId) (s : State) : State := s.modCore c fun k => { k with begun := false, imaging := false, storing := [] }

/-- The three accesses of an entry to level t succeed, whatever the level and wherever they go, and leave state u: the frame is written, the
vector-table entry read, the handler's first line fetched at `pc` (R292, R293). -/
structure EntryRuns (c : CoreId) (cause : BitVec 8) (t : BitVec 2) (x : Saved) (s u : State) (pc : Word) : Prop where
  frameLine : frameAt c t s % 64 = 0
  steps : ∃ s1 s2 bs,
    asLevel c t (writeFrame c (frameAt c t s) (frameBytes (s.core c) x)) s = .ok () s1 ∧
    asLevel c t (do let ps ← checkAll c needR (vectorAt c cause t s) 8; readPieces c ps) s1 = .ok bs s2 ∧
    pc = BitVec.ofNat 64 (fromLe bs) ∧ asLevel c t (fetchCheck c pc) s2 = .ok () u
  aligned : fld pc 0 2 = 0

/-- What an entry to level t makes of the core: the saved registers, SPX, STATUS, LCOUNT, VRESUME and PC change. A `trest` under way is
abandoned (R144). -/
def enteredAt (t : BitVec 2) (frame : Word) (x : Saved) (pc : Word) (k : Core) : Core :=
  { k.abandonImage with
    spx := k.spx.set t.toNat frame t.isLt
    epc := x.epc, estatus := x.estatus, ecause := x.ecause, eaddr := x.eaddr, lcount := 0, vresume := 0
    status := (k.status &&& ~~~(0x3F : Word)) ||| put t 0
    pc := pc, entering := none, begun := false, imaging := false, storing := [], fetchBuf := [] }

/-- The state at the handler's first instruction (R292, R294): the frame is written; the saved registers, SPX, STATUS, LCOUNT, VRESUME and
PC change. A `trest` under way is abandoned (R144). -/
def entryState (c : CoreId) (cause : BitVec 8) (t : BitVec 2) (x : Saved) (s : State) : State :=
  clearAnswers (.core c) ((framed c t x s).modCore c (enteredAt t ((s.core c).spxAt t - 192) x (handlerAt c cause t x s)))

/-- What `eret` makes of the core from the doublewords of its frame (R298): STATUS keeps SRM, and at PL1 SRGNT. -/
def returned (w : Nat → Word) (k : Core) : Core :=
  let keep : Word := if k.pl = 1 then 0xC0 else 0x80
  { k with
    g := Vector.ofFn fun i => if 1 ≤ i.val ∧ i.val ≤ 16 then w (7 + i.val) else k.g[i.val]
    spx := k.spx.set k.pl.toNat (k.spxAt k.pl + 192) k.pl.isLt
    lstart := w 4, lend := w 5, lcount := w 6, vresume := w 7 &&& 0x1FFF
    status := (w 1 &&& (0xFF &&& ~~~keep)) ||| (k.status &&& keep)
    pc := w 0, fetchBuf := [] }

/-- The instruction of a ready core ends in an exception, which is taken with nothing of it done (R284). -/
def traps (c : CoreId) (e : Exc) (s : State) (i : Instr) : Prop := ∀ u, takeExc c e s = .ok () u → exec i s = .next u

/-- The doublewords of the frame that `eret` reads at the current level (R298). -/
def frameWord (c : CoreId) (i : Nat) (s : State) : Word :=
  BitVec.ofNat 64 (fromLe (sramBytes c (((s.core c).spxAt (s.pl c)).toNat + 8 * i) 8 s))

end Machine
end Sys2Proof
end

