-- ==== Sys2Proof/Certificates/Slice0/Obligations.lean ====
section
/-! DEFINITION. The statements for the provers, in the terms of Sys2Proof/Safety.lean: the results, completion and frames of every command,
the machine's invariants, and what a step does. -/

open Sys2Proof Sys2Proof.Machine

/-- R48, R49 and the tables of INT-R and MULDIV: at a ready core every register form writes gD, and nothing else but PC changes. R47, R48:
the immediate forms, each with its immediate sign-extended. The counting and reversing functions of the INT-R table are the ones that
their names say. -/
def Obligations.IntegerResults : Prop :=
  (∀ (s : State) (c : CoreId) (d a b : Reg), Ready c s →
     let x := s.g c a
     let y := s.g c b
     let w (f : BitVec 32 → BitVec 32 → BitVec 32) : Word := (f (x.setWidth 32) (y.setWidth 32)).signExtend 64
     writesG c d (x + y) s (.add c d a b) ∧ writesG c d (x - y) s (.sub c d a b) ∧
     writesG c d (x &&& y) s (.and c d a b) ∧ writesG c d (x ||| y) s (.or c d a b) ∧
     writesG c d (x ^^^ y) s (.xor c d a b) ∧ writesG c d (x &&& ~~~y) s (.andn c d a b) ∧
     writesG c d (x <<< (y.toNat % 64)) s (.sll c d a b) ∧ writesG c d (x >>> (y.toNat % 64)) s (.srl c d a b) ∧
     writesG c d (x.sshiftRight (y.toNat % 64)) s (.sra c d a b) ∧
     writesG c d (if x.toInt < y.toInt then 1 else 0) s (.slt c d a b) ∧
     writesG c d (if x.toNat < y.toNat then 1 else 0) s (.sltu c d a b) ∧
     writesG c d (if x.toInt < y.toInt then x else y) s (.min c d a b) ∧
     writesG c d (if x.toInt < y.toInt then y else x) s (.max c d a b) ∧
     writesG c d (if x.toNat < y.toNat then x else y) s (.minu c d a b) ∧
     writesG c d (if x.toNat < y.toNat then y else x) s (.maxu c d a b) ∧
     writesG c d (w (· + ·)) s (.addW c d a b) ∧ writesG c d (w (· - ·)) s (.subW c d a b) ∧
     writesG c d (w fun u v => u <<< (v.toNat % 32)) s (.sllW c d a b) ∧
     writesG c d (w fun u v => u >>> (v.toNat % 32)) s (.srlW c d a b) ∧
     writesG c d (w fun u v => u.sshiftRight (v.toNat % 32)) s (.sraW c d a b) ∧
     writesG c d (x * y) s (.mul c d a b) ∧
     writesG c d (BitVec.ofInt 64 (x.toInt * y.toInt / 2 ^ 64)) s (.mulh c d a b) ∧
     writesG c d (BitVec.ofNat 64 (x.toNat * y.toNat / 2 ^ 64)) s (.mulhu c d a b) ∧
     writesG c d (BitVec.ofInt 64 (x.toInt * y.toNat / 2 ^ 64)) s (.mulhsu c d a b) ∧
     writesG c d (BitVec.ofNat 64 (leadZeros x)) s (.clz c d a) ∧ writesG c d (BitVec.ofNat 64 (trailZeros x)) s (.ctz c d a) ∧
     writesG c d (BitVec.ofNat 64 (popCount x)) s (.popc c d a) ∧ writesG c d (byteRev x) s (.rev8 c d a)) ∧
  (∀ (s : State) (c : CoreId) (d a : Reg) (imm : BitVec 12) (sh : BitVec 6) (up : BitVec 22), Ready c s →
     let x := s.g c a
     let y : Word := imm.signExtend 64
     writesG c d (x + y) s (.addi c d a imm) ∧ writesG c d (x &&& y) s (.andi c d a imm) ∧
     writesG c d (x ||| y) s (.ori c d a imm) ∧ writesG c d (x ^^^ y) s (.xori c d a imm) ∧
     writesG c d (if x.toInt < imm.toInt then 1 else 0) s (.slti c d a imm) ∧
     writesG c d (if x.toNat < y.toNat then 1 else 0) s (.sltiu c d a imm) ∧
     writesG c d (x <<< sh.toNat) s (.slli c d a sh) ∧ writesG c d (x >>> sh.toNat) s (.srli c d a sh) ∧
     writesG c d (x.sshiftRight sh.toNat) s (.srai c d a sh) ∧
     writesG c d ((x.setWidth 32 + imm.signExtend 32).signExtend 64) s (.addiW c d a imm) ∧
     writesG c d (up.signExtend 64 <<< 12) s (.lui c d up)) ∧
  (∀ (x : Word),
     (leadZeros x ≤ 64 ∧ (∀ i < leadZeros x, x.getLsbD (63 - i) = false) ∧ (leadZeros x < 64 → x.getLsbD (63 - leadZeros x) = true)) ∧
     (trailZeros x ≤ 64 ∧ (∀ i < trailZeros x, x.getLsbD i = false) ∧ (trailZeros x < 64 → x.getLsbD (trailZeros x) = true)) ∧
     popCount 0 = 0 ∧ (∀ i < 64, popCount (x ||| (1 : Word) <<< i) = if x.getLsbD i then popCount x else popCount x + 1) ∧
     (∀ i < 64, (byteRev x).getLsbD i = x.getLsbD (8 * (7 - i / 8) + i % 8)))

/-- R49 and its table: division never traps, saturates by zero, and the one overflowing quotient is 2^63 - 1. -/
def Obligations.DivisionSaturates : Prop :=
  ∀ (s : State) (c : CoreId) (d a b : Reg), Ready c s →
    let x := s.g c a
    let y := s.g c b
    writesG c d
      (if y = 0 then (if x.toInt < 0 then 0x8000000000000000 else 0x7FFFFFFFFFFFFFFF)
       else if x = 0x8000000000000000 ∧ y = 0xFFFFFFFFFFFFFFFF then 0x7FFFFFFFFFFFFFFF
       else BitVec.ofInt 64 (x.toInt.tdiv y.toInt)) s (.div c d a b) ∧
    writesG c d (if y = 0 then 0xFFFFFFFFFFFFFFFF else BitVec.ofNat 64 (x.toNat / y.toNat)) s (.divu c d a b) ∧
    writesG c d (if y = 0 then x else BitVec.ofInt 64 (x.toInt.tmod y.toInt)) s (.rem c d a b) ∧
    writesG c d (if y = 0 then x else BitVec.ofNat 64 (x.toNat % y.toNat)) s (.remu c d a b)

/-- R64, R68: branches compare registers as the two tables say; a taken one goes to PC + 4 x offset. R64: an aligned jump writes PC + 4 to
gD and goes to its target, computed from gA as it was; a misaligned target is cause 0x02 with the target in EADDR, and no jump. -/
def Obligations.BranchesAndJumps : Prop :=
  (∀ (s : State) (c : CoreId) (a b : Reg) (o : BitVec 12) (z : BitVec 17), ReadyBranch c s →
     let x := s.g c a
     let y := s.g c b
     let t : Word := s.pc c + o.signExtend 64 <<< 2
     let u : Word := s.pc c + z.signExtend 64 <<< 2
     branches c (x = y) t s (.beq c a b o) ∧ branches c (x ≠ y) t s (.bne c a b o) ∧
     branches c (x.toInt < y.toInt) t s (.blt c a b o) ∧ branches c (y.toInt ≤ x.toInt) t s (.bge c a b o) ∧
     branches c (x.toNat < y.toNat) t s (.bltu c a b o) ∧ branches c (y.toNat ≤ x.toNat) t s (.bgeu c a b o) ∧
     branches c (x = 0) u s (.beqz c a z) ∧ branches c (x ≠ 0) u s (.bnez c a z) ∧
     branches c (x.toInt < 0) u s (.bltz c a z) ∧ branches c (0 ≤ x.toInt) u s (.bgez c a z) ∧
     branches c (x.toInt ≤ 0) u s (.blez c a z) ∧ branches c (0 < x.toInt) u s (.bgtz c a z)) ∧
  (∀ (s : State) (c : CoreId) (d a : Reg) (o : BitVec 22) (imm : BitVec 12), ReadyBranch c s →
     let link := s.setG c d (s.pc c + 4)
     let t : Word := s.pc c + o.signExtend 64 <<< 2
     let u : Word := s.g c a + imm.signExtend 64
     (fld (s.pc c) 0 2 = 0 → exec (.jal c d o) s = .next (retire c (.jump t) link)) ∧
     (fld u 0 2 = 0 → exec (.jalr c d a imm) s = .next (retire c (.jump u) link)) ∧
     (fld t 0 2 ≠ 0 → traps c ⟨2, 0, some t⟩ s (.jal c d o)) ∧ (fld u 0 2 ≠ 0 → traps c ⟨2, 0, some u⟩ s (.jalr c d a imm)))

/-- R65, R66: `loop` sets the three loop registers; with a count of zero it goes past the body at once. R66, R68: where a core goes after an
instruction, in a loop and outside one; nothing of the instruction is then under way, and of LSTART the PC takes bits [63:2] (log entry 139).
R67: `loop` with n = 0 or in an active loop, and a branch, jump, `loop` or `eret` at LEND of one, raise cause 0x01. -/
def Obligations.LoopsRun : Prop :=
  (∀ (s : State) (c : CoreId) (a : Reg) (n : BitVec 12), ReadyBranch c s → n ≠ 0 → (s.core c).lcount = 0 →
     let pc := s.pc c
     let last : Word := pc + BitVec.ofNat 64 (4 * n.toNat)
     let t := s.modCore c fun k => { k with lstart := pc + 4, lend := last, lcount := s.g c a }
     exec (.loop c a n) s = .next (retire c (.to (if s.g c a = 0 then last + 4 else pc + 4)) t)) ∧
  (∀ (s : State) (c : CoreId) (n : Next) (k : Core) (a : Word),
     let ended (k : Core) : Core := { k with begun := false, imaging := false, storing := [] }
     (retire c n s).core c = (s.core c).advance n ∧ (retire c n s).mem = s.mem ∧
     (k.lcount = 0 → k.advance .seq = ended { k with pc := k.pc + 4 } ∧ k.advance (.jump a) = ended { k with pc := a }) ∧
     (k.lcount ≠ 0 → k.pc ≠ k.lend → k.advance .seq = ended { k with pc := k.pc + 4 }) ∧
     (k.lcount ≠ 0 → k.pc = k.lend → k.lcount ≠ 1 → k.advance .seq = ended { k with pc := k.lstart &&& ~~~(3 : Word), lcount := k.lcount - 1 }) ∧
     (k.lcount = 1 → k.pc = k.lend → k.advance .seq = ended { k with pc := k.lend + 4, lcount := 0 }) ∧
     (k.lcount ≠ 0 → k.lstart ≤ a → a ≤ k.lend → k.advance (.jump a) = ended { k with pc := a }) ∧
     (k.lcount ≠ 0 → (a < k.lstart ∨ k.lend < a) → k.advance (.jump a) = ended { k with pc := a, lcount := 0 })) ∧
  (∀ (s : State) (c : CoreId) (d a b : Reg) (o n : BitVec 12) (z : BitVec 17) (j : BitVec 22), Ready c s → (s.core c).lcount ≠ 0 →
     let bad (w : BitVec 32) (i : Instr) : Prop := traps c ⟨1, 0, some (w.setWidth 64)⟩ s i
     bad (wordOf 0x0D 0 a 0 n) (.loop c a n) ∧
     (s.pc c = (s.core c).lend →
       bad (wordOf 8 0 a b o) (.beq c a b o) ∧ bad (wordOf 8 1 a b o) (.bne c a b o) ∧ bad (wordOf 8 2 a b o) (.blt c a b o) ∧
       bad (wordOf 8 3 a b o) (.bge c a b o) ∧ bad (wordOf 8 4 a b o) (.bltu c a b o) ∧ bad (wordOf 8 5 a b o) (.bgeu c a b o) ∧
       bad (wordZ 9 0 a.val z) (.beqz c a z) ∧ bad (wordZ 9 1 a.val z) (.bnez c a z) ∧ bad (wordZ 9 2 a.val z) (.bltz c a z) ∧
       bad (wordZ 9 3 a.val z) (.bgez c a z) ∧ bad (wordZ 9 4 a.val z) (.blez c a z) ∧ bad (wordZ 9 5 a.val z) (.bgtz c a z) ∧
       bad (wordJ 0x0A d j) (.jal c d j) ∧ bad (wordOf 0x0B d a 0 o) (.jalr c d a o) ∧ bad (wordOf 0x0C 0 0 0x12 0) (.eret c))) ∧
  (∀ (s : State) (c : CoreId) (a : Reg), ReadyBranch c s →
     traps c ⟨1, 0, some ((wordOf 0x0D 0 a 0 0).setWidth 64)⟩ s (.loop c a 0))

/-- R58, R59, R269: loads from the strongroom SRAM write their register, extended as the kind says. R58, R59, R269: stores to the strongroom
SRAM write the low bytes of their register there, least significant first. -/
def Obligations.StrongroomLoadsAndStores : Prop :=
  (∀ (s : State) (c : CoreId) (d a : Reg) (o : BitVec 12), Ready c s →
     let p := (s.g c a + o.signExtend 64).toNat
     let v (n : Nat) : Nat := fromLe (sramBytes c p n s)
     (SramAccess c p 1 s →
       writesG c d ((BitVec.ofNat 8 (v 1)).signExtend 64) s (.lb c d a o) ∧ writesG c d (BitVec.ofNat 64 (v 1)) s (.lbu c d a o)) ∧
     (SramAccess c p 2 s →
       writesG c d ((BitVec.ofNat 16 (v 2)).signExtend 64) s (.lh c d a o) ∧ writesG c d (BitVec.ofNat 64 (v 2)) s (.lhu c d a o)) ∧
     (SramAccess c p 4 s →
       writesG c d ((BitVec.ofNat 32 (v 4)).signExtend 64) s (.lw c d a o) ∧ writesG c d (BitVec.ofNat 64 (v 4)) s (.lwu c d a o) ∧
       changesCore c (·.wf d (BitVec.ofNat 64 (v 4))) s (.fldS c d a o)) ∧
     (SramAccess c p 8 s →
       writesG c d (BitVec.ofNat 64 (v 8)) s (.ld c d a o) ∧ changesCore c (·.wf d (BitVec.ofNat 64 (v 8))) s (.fldD c d a o))) ∧
  (∀ (s : State) (c : CoreId) (r a : Reg) (o : BitVec 12), Ready c s →
     let p := (s.g c a + o.signExtend 64).toNat
     let done (n : Nat) (v : Word) (i : Instr) : Prop := exec i s = .next (retire c .seq (sramPut c p (toLe n v.toNat) s))
     (SramAccess c p 1 s → done 1 (s.g c r) (.sb c r a o)) ∧ (SramAccess c p 2 s → done 2 (s.g c r) (.sh c r a o)) ∧
     (SramAccess c p 4 s → done 4 (s.g c r) (.sw c r a o) ∧ done 4 (s.f c r) (.fsdS c r a o)) ∧
     (SramAccess c p 8 s → done 8 (s.g c r) (.sd c r a o) ∧ done 8 (s.f c r) (.fsdD c r a o)))

/-- R58, R308, R330: loads of lines that the core's L2 holds give their bytes as the core's polder reads them; only the replacement trees,
the L1 copies and the register change. R58, R314, R316: stores into lines that the core's L2 holds in M write their bytes there at once,
with no traffic. R63: with STATUS.MAL at 1 all that holds of misaligned accesses too, across a line as well. -/
def Obligations.HeldLineLoadsAndStores : Prop :=
  (∀ (s : State) (c : CoreId) (d a : Reg) (o : BitVec 12), Ready c s →
     let p := (s.g c a + o.signExtend 64).toNat
     let v (n : Nat) : Nat := fromLe (viewBytes s (s.core c).polder p n)
     let u (n : Nat) : State := heldHit c p n s
     let done (i : Instr) (t : State) : Prop := exec i s = .next (retire c .seq t)
     (HeldAccess c p 1 s →
       done (.lb c d a o) ((u 1).setG c d ((BitVec.ofNat 8 (v 1)).signExtend 64)) ∧ done (.lbu c d a o) ((u 1).setG c d (BitVec.ofNat 64 (v 1)))) ∧
     (HeldAccess c p 2 s →
       done (.lh c d a o) ((u 2).setG c d ((BitVec.ofNat 16 (v 2)).signExtend 64)) ∧ done (.lhu c d a o) ((u 2).setG c d (BitVec.ofNat 64 (v 2)))) ∧
     (HeldAccess c p 4 s →
       done (.lw c d a o) ((u 4).setG c d ((BitVec.ofNat 32 (v 4)).signExtend 64)) ∧ done (.lwu c d a o) ((u 4).setG c d (BitVec.ofNat 64 (v 4))) ∧
       done (.fldS c d a o) ((u 4).setF c d (BitVec.ofNat 64 (v 4)))) ∧
     (HeldAccess c p 8 s →
       done (.ld c d a o) ((u 8).setG c d (BitVec.ofNat 64 (v 8))) ∧ done (.fldD c d a o) ((u 8).setF c d (BitVec.ofNat 64 (v 8))))) ∧
  (∀ (s : State) (c : CoreId) (r a : Reg) (o : BitVec 12), Ready c s →
     let p := (s.g c a + o.signExtend 64).toNat
     let owned (n : Nat) : Prop := HeldAccess c p n s ∧ ∀ l ∈ linesAt p n, coreHolds (s.core c) l = some .m
     let done (n : Nat) (v : Word) (i : Instr) : Prop := exec i s = .next (retire c .seq (pokeBytes p (toLe n v.toNat) (heldHit c p n s)))
     (owned 1 → done 1 (s.g c r) (.sb c r a o)) ∧ (owned 2 → done 2 (s.g c r) (.sh c r a o)) ∧
     (owned 4 → done 4 (s.g c r) (.sw c r a o) ∧ done 4 (s.f c r) (.fsdS c r a o)) ∧
     (owned 8 → done 8 (s.g c r) (.sd c r a o) ∧ done 8 (s.f c r) (.fsdD c r a o)))

/-- R60 and the atomic table: gD takes the old value, and memory takes the function of it and gB, on 4 or 8 bytes of the strongroom
SRAM; `cas` stores only where the old value equals the prior gD. R62, R278: a misaligned scalar access with STATUS.MAL at 0, or in
strongroom mode, is refused with cause 0x02 and its address before anything is read or written; R64: a misaligned atomic always is. -/
def Obligations.AtomicsAndMisalignedAccesses : Prop :=
  (∀ (s : State) (c : CoreId) (d a b : Reg) (dbl aq rl : Bool), Ready c s →
     let p := (s.g c a).toNat
     let n := if dbl then 8 else 4
     SramAccess c p n s →
     let old : Word := BitVec.ofNat 64 (fromLe (sramBytes c p n s))
     let x := s.g c b
     let got : Word := if dbl then old else (old.setWidth 32).signExtend 64
     let mem (v : Word) : State := s.modCore c fun k => { k with sram := wrBytes k.sram (p - 0xFFC0000000000) (toLe n v.toNat) }
     let both (f : (w : Nat) → BitVec w → BitVec w → BitVec w) : Word :=
       if dbl then f 64 old x else (f 32 (old.setWidth 32) (x.setWidth 32)).setWidth 64
     let done (t : State) (i : Instr) : Prop := exec i s = .next (retire c .seq (t.setG c d got))
     done (mem (both fun _ _ y => y)) (.amoswap c d a b dbl aq rl) ∧ done (mem (both fun _ u y => u + y)) (.amoadd c d a b dbl aq rl) ∧
     done (mem (both fun _ u y => u &&& y)) (.amoand c d a b dbl aq rl) ∧ done (mem (both fun _ u y => u ||| y)) (.amoor c d a b dbl aq rl) ∧
     done (mem (both fun _ u y => u ^^^ y)) (.amoxor c d a b dbl aq rl) ∧
     done (mem (both fun _ u y => if u.toInt < y.toInt then u else y)) (.amomin c d a b dbl aq rl) ∧
     done (mem (both fun _ u y => if u.toInt < y.toInt then y else u)) (.amomax c d a b dbl aq rl) ∧
     done (mem (both fun _ u y => if u.toNat < y.toNat then u else y)) (.amominu c d a b dbl aq rl) ∧
     done (mem (both fun _ u y => if u.toNat < y.toNat then y else u)) (.amomaxu c d a b dbl aq rl) ∧
     done (if (if dbl then old = s.g c d else old.setWidth 32 = (s.g c d).setWidth 32) then mem (both fun _ _ y => y) else s)
       (.cas c d a b dbl aq rl)) ∧
  (∀ (s : State) (c : CoreId) (a v x y : Word) (n op : Nat) (dbl : Bool),
     ((a.toNat % n ≠ 0 ∧ ((s.core c).mal = false ∨ (s.core c).srm = true)) →
       loadScalar c a n s = .error (.exc ⟨2, 0, some a⟩) s ∧ storeScalar c a n v s = .error (.exc ⟨2, 0, some a⟩) s) ∧
     (a.toNat % (if dbl then 8 else 4) ≠ 0 → atomicAccess c op dbl a x y s = .error (.exc ⟨2, 0, some a⟩) s))

/-- R42: the levels of the system-register table, number by number. R42, R44: below its level a system register is neither read nor written
(cause 0x05, SUB 2); a number absent from the table raises cause 0x01; tile and vector registers need their enable bit (cause 0x0A). -/
def Obligations.SystemRegisterAccessLevels : Prop :=
  (let one (n r : Nat) (w : Option Nat) : Prop := sysLevel n = some (r, w)
   one 0x000 0 (some 1) ∧ one 0x001 0 (some 1) ∧ one 0x002 0 none ∧ one 0x003 1 (some 2) ∧ one 0x004 0 none ∧ one 0x010 0 (some 0) ∧
   one 0x011 0 (some 0) ∧ one 0x020 1 (some 1) ∧ one 0x021 1 (some 1) ∧ one 0x022 1 (some 1) ∧ one 0x023 1 (some 1) ∧
   one 0x024 2 (some 2) ∧ one 0x028 1 none ∧ one 0x029 1 (some 1) ∧ one 0x02A 1 (some 1) ∧
   (∀ l : Fin 4, one (0x030 + l.val) l.val (some l.val) ∧ one (0x034 + l.val) l.val (some l.val)) ∧ one 0x038 3 (some 3) ∧
   one 0x039 3 (some 3) ∧ one 0x040 0 (some 0) ∧ one 0x041 0 (some 0) ∧ one 0x042 0 (some 0) ∧ one 0x048 1 (some 1) ∧
   one 0x049 2 (some 2) ∧ one 0x100 0 (some 0) ∧ one 0x101 0 (some 0) ∧ one 0x102 0 none ∧
   (∀ i : Fin 8, one (0x108 + i.val) 0 (some 0)) ∧ one 0x120 0 (some 0) ∧ one 0x121 0 (some 0) ∧ one 0x122 0 (some 0) ∧
   one 0x123 0 none ∧ one 0x124 0 (some 0) ∧
   ∀ n : BitVec 12, (0x005 ≤ n.toNat ∧ n.toNat ≤ 0x00F ∨ 0x012 ≤ n.toNat ∧ n.toNat ≤ 0x01F ∨ 0x025 ≤ n.toNat ∧ n.toNat ≤ 0x027 ∨
     0x02B ≤ n.toNat ∧ n.toNat ≤ 0x02F ∨ 0x03A ≤ n.toNat ∧ n.toNat ≤ 0x03F ∨ 0x043 ≤ n.toNat ∧ n.toNat ≤ 0x047 ∨
     0x04A ≤ n.toNat ∧ n.toNat ≤ 0x0FF ∨ 0x103 ≤ n.toNat ∧ n.toNat ≤ 0x107 ∨ 0x110 ≤ n.toNat ∧ n.toNat ≤ 0x11F ∨ 0x125 ≤ n.toNat) →
     sysLevel n.toNat = none) ∧
  (∀ (s : State) (c : CoreId) (d a : Reg) (n : BitVec 12), Ready c s →
     let k := s.core c
     (∀ r w, sysLevel n.toNat = some (r, w) →
       (k.pl.toNat < r → traps c ⟨5, 2, none⟩ s (.sysrd c d n)) ∧ (k.pl.toNat < w.getD r → traps c ⟨5, 2, none⟩ s (.syswr c n a)) ∧
       (r ≤ k.pl.toNat → sysTile n.toNat = true → k.ten = false → traps c ⟨0x0A, 0, none⟩ s (.sysrd c d n)) ∧
       (r ≤ k.pl.toNat → sysVec n.toNat = true → k.ven = false → traps c ⟨0x0A, 1, none⟩ s (.sysrd c d n)) ∧
       (w.getD r ≤ k.pl.toNat → sysTile n.toNat = true → k.ten = false → traps c ⟨0x0A, 0, none⟩ s (.syswr c n a)) ∧
       (w.getD r ≤ k.pl.toNat → sysVec n.toNat = true → k.ven = false → traps c ⟨0x0A, 1, none⟩ s (.syswr c n a)) ∧
       (r ≤ k.pl.toNat → w = none → n.toNat ≠ 0x102 → exec (.syswr c n a) s = .next (retire c .seq s))) ∧
     (sysLevel n.toNat = none →
       traps c ⟨1, 0, some ((wordOf 0x0C d 0 0 n).setWidth 64)⟩ s (.sysrd c d n) ∧
       traps c ⟨1, 0, some ((wordOf 0x0C 0 a 1 n).setWidth 64)⟩ s (.syswr c n a)))

/-- R42, R44: at a level that may read it, and with its enable bit set, `sysrd` writes gD with the register's value; R127: that of TSTATn once the
tile operations that name accn are done, which the model commits at that point, with no lane deviation (log entry 21); TUSE holds what the
operations in flight have set. The values, number by number. R42 to R45 and the field tables: what `syswr` puts into each register that has no
row of its own, at a level that may write it; through the number of a register with a row of its own it does what that row does. -/
def Obligations.SystemRegisterReadsAndWrites : Prop :=
  ((∀ (s : State) (c : CoreId) (d : Reg) (n : BitVec 12) (r : Nat) (w : Option Nat), Ready c s → sysLevel n.toNat = some (r, w) →
     r ≤ (s.core c).pl.toNat → (sysTile n.toNat = true → (s.core c).ten = true) → (sysVec n.toNat = true → (s.core c).ven = true) →
     let acc : Bool := 0x108 ≤ n.toNat && n.toNat < 0x110
     (acc = true → (s.core c).mxStopped = false ∨ ∀ x ∈ (s.core c).flight, x.names (Fin.ofNat 8 n.toNat) = false) →
     let t := if acc then s.modCore c (·.drainAcc (Fin.ofNat 8 n.toNat)) else s
     exec (.sysrd c d n) s = .next (retire c .seq (t.setG c d (sysVal t c n.toNat)))) ∧
   (∀ (s : State) (c : CoreId) (l : Fin 4) (n : Fin 8),
     let k := s.core c
     let is (n : Nat) (v : Word) : Prop := sysVal s c n = v
     is 0x000 k.status ∧ is 0x001 k.mode ∧ is 0x002 (BitVec.ofNat 64 c.val) ∧ is 0x003 (k.polder.setWidth 64) ∧
     is 0x004 s.ltime ∧ is 0x010 k.fctl ∧ is 0x011 k.fstat ∧ is 0x020 k.epc ∧ is 0x021 k.estatus ∧
     is 0x022 k.ecause ∧ is 0x023 k.eaddr ∧ is 0x024 k.edeleg ∧
     (k.pl ≠ 1 → is 0x028 (match k.dse with | e :: _ => e.addr | [] => 0) ∧ is 0x029 (match k.dse with | e :: _ => e.info | [] => 0) ∧
       is 0x02A (BitVec.ofNat 64 k.dse.length ||| (if k.dseOvf then 0x100 else 0) ||| k.dseDropped.setWidth 64 <<< 16)) ∧
     (∀ e l, k.pl = 1 → k.dse = e :: l → (e.polder ≠ k.polder ∨ 2 ≤ e.pl.toNat) → is 0x028 0 ∧ is 0x029 0 ∧ is 0x02A 0) ∧
     is (0x030 + l.val) k.vbase[l.val] ∧ is (0x034 + l.val) k.spx[l.val] ∧
     is 0x038 k.dfvec ∧ is 0x039 k.dfsp ∧ is 0x040 k.lstart ∧ is 0x041 k.lend ∧ is 0x042 k.lcount ∧
     is 0x048 k.gptb ∧ is 0x049 k.iptb ∧ is 0x100 k.tcfg ∧ is 0x101 k.ocfg ∧
     (∀ b < 64, (sysVal s c 0x102).getLsbD b = (k.tuse.getLsbD b || k.flight.any fun x => decide (b = 8 + x.d.val))) ∧
     is (0x108 + n.val) k.tstat[n.val] ∧ is 0x120 k.vshape ∧ is 0x121 k.vcount ∧ is 0x122 k.vresume ∧
     is 0x123 (if k.vuOn then 512 else 8) ∧ is 0x124 k.vstat)) ∧
  (∀ (s : State) (c : CoreId) (a : Reg), Ready c s →
     let v := s.g c a
     let puts (n : BitVec 12) (l : Nat) (f : Core → Core) : Prop := l ≤ (s.core c).pl.toNat → changesCore c f s (.syswr c n a)
     let row (n : BitVec 12) (i : Instr) : Prop := exec (.syswr c n a) s = exec i s
     (2 ≤ (s.core c).pl.toNat →
       exec (.syswr c 0x003 a) s = .next (retire c .seq (releaseHeld c (s.modCore c fun k => { k with polder := v.setWidth 12 })))) ∧
     puts 0x011 0 (fun k => { k with fstat := v &&& 0x1F }) ∧ puts 0x020 1 (fun k => { k with epc := v }) ∧
     puts 0x021 1 (fun k => { k with estatus := v &&& 0xFF }) ∧ puts 0x022 1 (fun k => { k with ecause := v &&& 0x3FF7FF }) ∧
     puts 0x023 1 (fun k => { k with eaddr := v }) ∧ puts 0x024 2 (fun k => { k with edeleg := v &&& 0x6FE }) ∧
     (∀ l : Fin 4, puts (BitVec.ofNat 12 (0x030 + l.val)) l.val (fun k => { k with vbase := k.vbase.set l.val v }) ∧
       puts (BitVec.ofNat 12 (0x034 + l.val)) l.val (fun k => { k with spx := k.spx.set l.val v })) ∧
     puts 0x038 3 (fun k => { k with dfvec := v }) ∧ puts 0x039 3 (fun k => { k with dfsp := v }) ∧
     puts 0x040 0 (fun k => { k with lstart := v }) ∧ puts 0x041 0 (fun k => { k with lend := v }) ∧
     puts 0x048 1 (fun k => { k with gptb := v &&& 0xFFFFFFFFFF001 }) ∧ puts 0x049 2 (fun k => { k with iptb := v &&& 0xFFFFFFFFFF000 }) ∧
     ((s.core c).ven = true →
       puts 0x122 0 (fun k => { k with vresume := v &&& 0x1FFF }) ∧ puts 0x124 0 (fun k => { k with vstat := v &&& 0x3F })) ∧
     row 0x000 (.syswrStatus c a) ∧ row 0x001 (.strongroomEntry c a) ∧ row 0x001 (.strongroomExit c a) ∧ row 0x010 (.syswrFctl c a) ∧
     row 0x029 (.dseNext c a) ∧ row 0x02A (.dseOvfClear c a) ∧ row 0x042 (.syswrLcount c a) ∧ row 0x100 (.syswrTcfg c a) ∧
     row 0x101 (.syswrOcfg c a) ∧ (∀ n : Fin 8, row (BitVec.ofNat 12 (0x108 + n.val)) (.syswrTstat c n a)) ∧ row 0x120 (.syswrVshape c a) ∧
     row 0x121 (.syswrVcount c a))

/-- R43 to R45, R54, R121, R126, R212, R226, R288, R290: the system-register writes with a row of their own. R274, R275: writing MODE
enters and leaves strongroom mode; at PL1 only with SRGNT, else a privilege fault. A write of LCOUNT at LEND counts at once (log entry 70). -/
def Obligations.SystemRegisterWritesWithRows : Prop :=
  (∀ (s : State) (c : CoreId) (a : Reg) (n : Fin 8), Ready c s →
     let k := s.core c
     let v := s.g c a
     let idle : Prop := k.ten = true ∧ k.flight = [] ∧ k.mxStopped = false
     (s.pl c = 1 → changesCore c (fun k => { k with status := (v &&& 0x3C) ||| (k.status &&& ~~~(0x3C : Word)) }) s (.syswrStatus c a)) ∧
     (2 ≤ (s.pl c).toNat →
       changesCore c (fun k => { k with status := (v &&& 0x7C) ||| (k.status &&& ~~~(0x7C : Word)) }) s (.syswrStatus c a)) ∧
     ((fld v 0 3).toNat ≤ 4 → changesCore c (fun k => { k with fctl := v &&& 0x3FF }) s (.syswrFctl c a)) ∧
     (4 < (fld v 0 3).toNat → traps c ⟨1, 0, some ((wordOf 0x0C 0 a 1 0x010).setWidth 64)⟩ s (.syswrFctl c a)) ∧
     (idle → s.stepWait c = false → tcfgOk v = true → changesCore c (fun k => { k with tcfg := v }) s (.syswrTcfg c a)) ∧
     (idle → s.stepWait c = false → ocfgOk v = true → changesCore c (fun k => { k with ocfg := v }) s (.syswrOcfg c a)) ∧
     (idle → (fld v 32 7).toNat ≤ 64 →
       changesCore c (fun k => { k with tstat := k.tstat.set n.val ((v &&& 0xFF7FFFFFFFFF) ||| (k.tstat[n.val] &&& ~~~(0xFF7FFFFFFFFF : Word))) })
         s (.syswrTstat c n a)) ∧
     (k.ven = true →
       changesCore c (fun k => { k with vcount := BitVec.ofNat 64 (Nat.min v.toNat k.vlmax) }) s (.syswrVcount c a) ∧
       changesCore c (fun k =>
         { k with vshape := v &&& 0xF, vcount := BitVec.ofNat 64 (Nat.min k.vcount.toNat (vlmaxOf k.vlen (v &&& 0xF))) }) s (.syswrVshape c a)) ∧
     changesCore c (fun k => { k with lcount := v }) s (.syswrLcount c a) ∧
     (2 ≤ (s.pl c).toNat →
       changesCore c (fun k => if bit v 63 then { k with dse := k.dse.tail, dsePend := k.dsePend && !k.dse.tail.isEmpty } else k)
         s (.dseNext c a) ∧
       changesCore c (fun k => if bit v 8 then { k with dseOvf := false, dseDropped := 0 } else k) s (.dseOvfClear c a))) ∧
  (∀ (s : State) (c : CoreId) (a : Reg), Ready c s → 1 ≤ (s.pl c).toNat → s.stepWait c = false → (s.core c).mxStopped = false →
     let v := s.g c a
     (bit v 0 = true → (s.pl c = 1 → bit (s.core c).status 6 = true) → (s.core c).flight = [] →
       changesCore c (fun k => { k with mode := 1, status := k.status ||| 0x80 }) s (.strongroomEntry c a)) ∧
     (bit v 0 = true → s.pl c = 1 → bit (s.core c).status 6 = false → traps c ⟨5, 2, none⟩ s (.strongroomEntry c a)) ∧
     (bit v 0 = false → changesCore c (fun k => { k with mode := 0, status := k.status &&& ~~~(0x80 : Word) }) s (.strongroomExit c a)))

/-- R70, R43, R416: barriers complete once no STEP store of the core is outstanding; until then, in this model, they leave the state as it is and
are issued again (log entries 10 and 11). `isync` lets GPTB and IPTB govern fetch and empties the fetch line buffer. R512, R514:
`sleep` idles the core unless a wake condition holds already; a sleeping core whose wake condition holds goes on, except in die-quiet. -/
def Obligations.BarriersSleepAndWake : Prop :=
  (∀ (s : State) (c : CoreId), Ready c s →
     exec (.fenceR c) s = .next (retire c .seq s) ∧
     (s.stepWait c = false →
       exec (.fenceW c) s = .next (retire c .seq s) ∧ exec (.fenceRw c) s = .next (retire c .seq s) ∧
       changesCore c (fun k => { k with fetchGptb := k.gptb, fetchIptb := k.iptb, fetchBuf := [] }) s (.isync c)) ∧
     (s.stepWait c = true → exec (.fenceW c) s = .next s ∧ exec (.fenceRw c) s = .next s ∧ exec (.isync c) s = .next s)) ∧
  (∀ (s : State) (c : CoreId),
     (Ready c s → s.wakes c = false →
       exec (.sleep c) s = .next (retire c .seq (settleDoor c (s.modCore c fun k => { k with asleep := true })))) ∧
     (Ready c s → s.wakes c = true → exec (.sleep c) s = .next (retire c .seq s)) ∧
     ((s.core c).asleep = true → s.wakes c = true → s.power.inQuiet = false →
       exec (.coreWake c) s = .next (settleDoor c (s.modCore c fun k => { k with asleep := false }))) ∧
     (s.wakes c = false → exec (.coreWake c) s = .next s))

/-- R292 to R294: an entry to PL2 or PL3 through the strongroom SRAM writes the 24 doublewords of its frame, the saved registers and STATUS,
and goes to the address that the vector table holds. R292: the frame holds EPC, ESTATUS, ECAUSE, EADDR, LSTART, LEND, LCOUNT, VRESUME
and g1 to g16, in that order from its base. R292 to R294: an entry to any level, PL1 through translation among
them, whose three accesses succeed, changes the same registers. R41, R283 to R285: `ecall` is taken one level up (at PL3 from PL3), `ebreak` at the level of
the other synchronous causes, both with EPC at themselves. -/
def Obligations.ExceptionEntryWritesFrame : Prop :=
  (∀ (s : State) (c : CoreId) (cause : BitVec 8) (t : BitVec 2) (sub : BitVec 4) (imprec : Bool) (addr : Option Word) (l : BitVec 2),
     let x := savedAt c cause sub imprec addr l s
     (EntryGood c cause t x s → enter c cause t sub imprec addr l s = .ok () (entryState c cause t x s)) ∧
     ∀ u pc, EntryRuns c cause t x s u pc →
       enter c cause t sub imprec addr l s = .ok () (clearAnswers (.core c) (u.modCore c (enteredAt t ((s.core c).spxAt t - 192) x pc)))) ∧
  (∀ (s : State) (c : CoreId) (cause : BitVec 8) (t : BitVec 2) (x : Saved), EntryGood c cause t x s →
     let k := s.core c
     let u := entryState c cause t x s
     let at_ (i : Nat) : Word := BitVec.ofNat 64 (fromLe (sramBytes c (frameAt c t s + 8 * i) 8 u))
     at_ 0 = x.epc ∧ at_ 1 = x.estatus ∧ at_ 2 = x.ecause ∧ at_ 3 = x.eaddr ∧ at_ 4 = k.lstart ∧ at_ 5 = k.lend ∧ at_ 6 = k.lcount ∧
     at_ 7 = k.vresume ∧ (∀ n : Fin 16, at_ (8 + n.val) = k.g[n.val + 1]) ∧
     ∀ a, ¬ (frameAt c t s - 0xFFC0000000000 ≤ a ∧ a < frameAt c t s - 0xFFC0000000000 + 192) → mget 0 (u.core c).sram a = mget 0 k.sram a) ∧
  (∀ (s : State) (c : CoreId), Ready c s →
     let k := s.core c
     let call (cause : BitVec 8) (t : BitVec 2) (i : Instr) : Prop :=
       let x := savedAt c cause 0 false none k.pl s
       EntryGood c cause t x (unbegun c s) → exec i s = .next (entryState c cause t x (unbegun c s))
     call 8 (if k.pl = 3 then 3 else k.pl + 1) (.ecall c) ∧
     call 9 (if k.pl.ult 2 then (if bit k.edeleg 9 then 1 else 2) else k.pl) (.ebreak c))

/-- R298: `eret` at PL2 or PL3 from a frame in the strongroom SRAM restores g1 to g16, the loop registers, VRESUME, STATUS but for SRM, and
PC, and gives the frame back; so it does at any level, PL1 through translation among them (there STATUS keeps SRGNT too), from a frame
that it has read. R298 steps 2, 4 and 5: an `eret` that may not return restores nothing. -/
def Obligations.ExceptionReturn : Prop :=
  (∀ (s : State) (c : CoreId), ReadyBranch c s → (s.pl c).ult 2 = false →
     let k := s.core c
     let f := k.spxAt k.pl
     let w (i : Nat) : Word := frameWord c i s
     InSram c f.toNat 192 s → fld f 0 6 = 0 → ¬ k.pl < fld (w 1) 0 2 → fld (w 0) 0 2 = 0 →
     exec (.eret c) s = .next (retire c .here (s.modCore c (returned w)))) ∧
  (∀ (s u : State) (c : CoreId) (bs : List Byte), ReadyBranch c s →
     let k := s.core c
     let f := k.spxAt k.pl
     let w (i : Nat) : Word := BitVec.ofNat 64 (fromLe ((bs.drop (8 * i)).take 8))
     fld f 0 6 = 0 → (do let ps ← checkAll c needR f.toNat 192; readPieces c ps) s = .ok bs u → ¬ k.pl < fld (w 1) 0 2 → fld (w 0) 0 2 = 0 →
     exec (.eret c) s = .next (retire c .here (u.modCore c (returned w)))) ∧
  (∀ (s : State) (c : CoreId), ReadyBranch c s → (s.pl c).ult 2 = false →
     let k := s.core c
     let f := k.spxAt k.pl
     (fld f 0 6 ≠ 0 → traps c ⟨2, 0, some f⟩ s (.eret c)) ∧
     (InSram c f.toNat 192 s → fld f 0 6 = 0 → k.pl < fld (frameWord c 1 s) 0 2 → traps c ⟨5, 2, none⟩ s (.eret c)) ∧
     (InSram c f.toNat 192 s → fld f 0 6 = 0 → ¬ k.pl < fld (frameWord c 1 s) 0 2 → fld (frameWord c 0 s) 0 2 ≠ 0 →
       traps c ⟨2, 0, some (frameWord c 0 s)⟩ s (.eret c)))

/-- R50 to R53 and the FP-R table: with a valid fmt and rm, each function's exact value is rounded once into fD, and its flags are ORed into
FSTAT. The FP-R table: the sign functions act on bits, the comparisons and `fclass` write gD; only the comparisons raise flags. -/
def Obligations.FloatArithmetic : Prop :=
  (∀ (s : State) (c : CoreId) (fmt rm : BitVec 3) (d a b : Reg) (x : Fmt) (r : Rm), Ready c s → fpFmt fmt.toNat = some x →
     (s.core c).rmOf false rm = some r →
     let u := (s.core c).fval x a
     let v := (s.core c).fval x b
     let rounds (y : Val × Flags) (i : Instr) : Prop := changesCore c (fun k => k.fpWrite x (k.fpCtl r false) d y) s i
     rounds (u.add r v) (.fadd c fmt rm d a b) ∧ rounds (u.add r v.negate) (.fsub c fmt rm d a b) ∧
     rounds (u.mul v) (.fmul c fmt rm d a b) ∧ rounds (Val.div x.width u v) (.fdiv c fmt rm d a b) ∧
     rounds (Val.sqrt x.width u) (.fsqrt c fmt rm d a) ∧ rounds (Val.pick false true u v) (.fmin c fmt rm d a b) ∧
     rounds (Val.pick true true u v) (.fmax c fmt rm d a b) ∧ rounds (Val.pick false false u v) (.fmini c fmt rm d a b) ∧
     rounds (Val.pick true false u v) (.fmaxi c fmt rm d a b) ∧ rounds (Val.rint r u) (.frint c fmt rm d a) ∧
     ((s.core c).srm = false → rounds (Val.rem u v) (.frem c fmt rm d a b))) ∧
  (∀ (s : State) (c : CoreId) (rm : BitVec 3) (d a b : Reg), Ready c s → ((s.core c).rmOf false rm).isSome = true →
     let x := s.f c a
     let y := s.f c b
     let top : Word := 0x8000000000000000
     let wide (n : Word) (i : Instr) : Prop := changesCore c (·.wf d ((n &&& top) ||| (x &&& ~~~top))) s i
     let half (n : Word) (i : Instr) : Prop := changesCore c (·.wf d ((n &&& 0x80000000) ||| (x &&& 0x7FFFFFFF))) s i
     let cmp (f : Fmt) (sig : Bool) (t : Val → Val → Bool) (i : Instr) : Prop :=
       let u := (s.core c).fval f a
       let v := (s.core c).fval f b
       let un := u.isNan || v.isNan
       let nv := u.isSnan || v.isSnan || (sig && un)
       changesCore c (fun k => (k.wg d (if !un && t u v then 1 else 0)).fpFlags (if nv then 1 else 0)) s i
     wide y (.fsgnj c 0 rm d a b) ∧ wide (~~~y) (.fsgnjn c 0 rm d a b) ∧ wide (x ^^^ y) (.fsgnjx c 0 rm d a b) ∧
     half y (.fsgnj c 1 rm d a b) ∧ half (~~~y) (.fsgnjn c 1 rm d a b) ∧ half (x ^^^ y) (.fsgnjx c 1 rm d a b) ∧
     (∀ p ∈ [((0 : BitVec 3), fp64), (1, fp32)],
       cmp p.2 false (fun u v => !u.lt v && !v.lt u) (.feq c p.1 rm d a b) ∧ cmp p.2 true Val.lt (.flt c p.1 rm d a b) ∧
       cmp p.2 true (fun u v => !v.lt u) (.fle c p.1 rm d a b) ∧
       writesG c d (BitVec.ofNat 64 (p.2.classify ((s.core c).fbits p.2 a))) s (.fclass c p.1 rm d a)))

/-- R50 to R52, R101, R110 and the FP-FMA and FP-CVT tables: fused forms round once; conversions round, widen exactly, saturate or move
bits. R50, R54: the codes of rm; 0b111 takes FCTL.RM; a reserved code, and a fmt other than 0 and 1, raise cause 0x01. -/
def Obligations.FloatFusedAndConversions : Prop :=
  (∀ (s : State) (c : CoreId) (fmt : BitVec 2) (rm : BitVec 3) (d a b e : Reg) (x : Fmt) (r : Rm), Ready c s →
     fpFmt fmt.toNat = some x → (s.core c).rmOf false rm = some r →
     let k := s.core c
     let f : BitVec 3 := fmt.setWidth 3
     let u := k.fval x a
     let v := k.fval x b
     let z := k.fval x e
     let rounds (g : Fmt) (y : Val × Flags) (i : Instr) : Prop := changesCore c (fun k => k.fpWrite g (k.fpCtl r false) d y) s i
     let int (lo hi : Int) (i : Instr) : Prop :=
       changesCore c (fun k => (k.wg d (BitVec.ofInt 64 (roundInt lo hi r u).1)).fpFlags (roundInt lo hi r u).2) s i
     rounds x (Val.fma r u v z) (.fmadd c fmt rm d a b e) ∧ rounds x (Val.fma r u v z.negate) (.fmsub c fmt rm d a b e) ∧
     rounds x (Val.fma r u.negate v z.negate) (.fnmadd c fmt rm d a b e) ∧ rounds x (Val.fma r u.negate v z) (.fnmsub c fmt rm d a b e) ∧
     rounds fp64 (k.fval fp32 a, 0) (.fcvtDS c rm d a) ∧ rounds fp32 (k.fval fp64 a, 0) (.fcvtSD c rm d a) ∧
     int (-(2 ^ 63)) (2 ^ 63 - 1) (.fcvtGF c f rm d a) ∧ int 0 (2 ^ 64 - 1) (.fcvtGuF c f rm d a) ∧
     rounds x (.ofInt (k.rg a).toInt, 0) (.fcvtFG c f rm d a) ∧ rounds x (.ofInt (k.rg a).toNat, 0) (.fcvtFGu c f rm d a) ∧
     (fmt = 0 → writesG c d (k.rf a) s (.fmvGF c f rm d a) ∧ changesCore c (·.wf d (k.rg a)) s (.fmvFG c f rm d a)) ∧
     (fmt = 1 → writesG c d (((k.rf a).setWidth 32).signExtend 64) s (.fmvGF c f rm d a) ∧
       changesCore c (·.wf d (k.rg a &&& 0xFFFFFFFF)) s (.fmvFG c f rm d a)) ∧
     (∀ code : BitVec 4, 2 ≤ code.toNat → code.toNat ≤ 11 →
       changesCore c (fun k => let y := roundElem code.toNat (k.fpCtl r false) u; (k.wg d (BitVec.ofNat 64 y.1)).fpFlags y.2) s
         (.fcvtXF c code f rm d a) ∧
       (code.toNat ≤ 5 → changesCore c (fun k => let y := roundElem code.toNat (k.fpCtl r true) u; (k.wg d (BitVec.ofNat 64 y.1)).fpFlags y.2) s
         (.fcvtXnF c code f rm d a)) ∧
       (rm = 0 → rounds x (decodeElem code.toNat k.fpFtz ((k.rg a).toNat % 2 ^ storageBits code.toNat), 0) (.fcvtFX c code f rm d a))) ∧
     (rm = 0 → rounds x (ofE8 ((k.rg a).toNat % 256), 0) (.fcvtFE8 c f rm d a) ∧
       changesCore c (fun k => (k.wg d (BitVec.ofNat 64 (toE8 u).1)).fpFlags (toE8 u).2) s (.fcvtE8F c f rm d a))) ∧
  ((∀ (k : Core),
     k.rmOf false 0 = some .rne ∧ k.rmOf false 1 = some .rtz ∧ k.rmOf false 2 = some .rup ∧ k.rmOf false 3 = some .rdn ∧
     k.rmOf false 4 = some .rna ∧ k.rmOf false 5 = none ∧ k.rmOf false 6 = none ∧ k.rmOf false 7 = k.rmOf false (fld k.fctl 0 3)) ∧
   ∀ (s : State) (c : CoreId) (fmt rm : BitVec 3) (d a b : Reg), Ready c s →
     2 ≤ fmt.toNat ∨ (s.core c).rmOf false rm = none →
     let word (op : Nat) : Word := (wordOf 0x0E d a b (BitVec.ofNat 12 (64 * op + 8 * rm.toNat + fmt.toNat))).setWidth 64
     traps c ⟨1, 0, some (word 0)⟩ s (.fadd c fmt rm d a b) ∧ traps c ⟨1, 0, some (word 1)⟩ s (.fsub c fmt rm d a b) ∧
     traps c ⟨1, 0, some (word 2)⟩ s (.fmul c fmt rm d a b) ∧ traps c ⟨1, 0, some (word 3)⟩ s (.fdiv c fmt rm d a b))

/-- R131 to R134: `tld` gives rows 0 to NR of its tile the bytes at gA + r x gB in the strongroom SRAM, keeps the rows above, or zeroes them
under Z, and sets the tile's TUSE bit; nothing else changes. R132, R137: `tst` writes rows 0 to NR in increasing order to gA + r x gB,
and nothing else. R121, R125, R138, R139: `tzero` zeroes a tile, its TUSE bit and an accumulator's TSTAT; `tcfg` takes a valid value
only; `tsync` waits until every operation in flight has committed, which the model lets it do itself, with no lane deviation (log entry 21). -/
def Obligations.TileLoadsStoresAndForms : Prop :=
  (∀ (s : State) (c : CoreId) (t : BitVec 5) (a b : Reg) (z : Bool) (nr : BitVec 5), TileReady c s → Physical c s → t.toNat < 24 →
     (s.core c).flight = [] →
     let k := s.core c
     let n := t.toNat
     let row (r : Nat) : Nat := (s.g c a + BitVec.ofNat 64 r * s.g c b).toNat
     (∀ r ≤ nr.toNat, InSram c (row r) (rowBytes n) s ∧ row r % (if n < 16 then 64 else 32) = 0) →
     ∃ k' : Core, exec (.tld c t a b z nr) s = .next (retire c .seq (s.setCore c k')) ∧
       (∀ r < 32, k'.tileRow n r =
         if r ≤ nr.toNat then sramBytes c (row r) (rowBytes n) s else if z then toLe (rowBytes n) 0 else k.tileRow n r) ∧
       (∀ m < 24, m ≠ n → k'.tile m = k.tile m) ∧
       k' = { k with tl := k'.tl, acc := k'.acc, sc := k'.sc, tuse := k.tuse ||| BitVec.ofNat 24 (2 ^ n) }) ∧
  (∀ (s : State) (c : CoreId) (t : BitVec 5) (a b : Reg) (nr : BitVec 5), TileReady c s → Physical c s → t.toNat < 24 →
     (s.core c).flight = [] →
     let n := t.toNat
     let row (r : Nat) : Nat := (s.g c a + BitVec.ofNat 64 r * s.g c b).toNat
     (∀ r ≤ nr.toNat, InSram c (row r) (rowBytes n) s ∧ row r % (if n < 16 then 64 else 32) = 0) →
     exec (.tst c t a b false nr) s =
       .next (retire c .seq ((List.range (nr.toNat + 1)).foldl (fun u r => sramPut c (row r) ((s.core c).tileRow n r) u) s))) ∧
  (∀ (s : State) (c : CoreId) (a : Reg), TileReady c s →
     let k := s.core c
     let off (k : Core) (t : Nat) : BitVec 24 := k.tuse &&& ~~~(BitVec.ofNat 24 (2 ^ t))
     (k.flight = [] → ∀ n : Fin 8,
       changesCore c (fun k => { k with tl := k.tl.set n.val 0, tuse := off k n.val }) s (.tzero c (BitVec.ofNat 5 n.val)) ∧
       changesCore c (fun k => { k with acc := k.acc.set n.val 0, tstat := k.tstat.set n.val 0, tuse := off k (8 + n.val) }) s
         (.tzero c (BitVec.ofNat 5 (8 + n.val))) ∧
       changesCore c (fun k => { k with sc := k.sc.set n.val 0, tuse := off k (16 + n.val) }) s (.tzero c (BitVec.ofNat 5 (16 + n.val)))) ∧
     (k.flight = [] → s.stepWait c = false →
       (tcfgOk (s.g c a) = true → changesCore c (fun k => { k with tcfg := s.g c a }) s (.tcfg c a)) ∧
       (tcfgOk (s.g c a) = false →
         traps c ⟨1, 0, some ((wordOf 0x14 0 a 0 0x0C0).setWidth 64)⟩ s (.tcfg c a))) ∧
     changesCore c (·.drainAll) s (.tsync c) ∧ (k.flight.length ≤ 4 → k.drainAll.flight = [] ∧ k.drainAll.mxStopped = false))

/-- R154, R165, R166: `tmac` and `tfold` read their tiles and scales as they issue; up to four operations are in flight. R196 to R198:
on the integer path `tfold` adds two accumulators element by element, their KCOUNTs, and their sticky bits. -/
def Obligations.MatrixOperationsIssueAndFold : Prop :=
  (∀ (s : State) (c : CoreId) (d a b : Fin 8) (seg : BitVec 4) (neg z : Bool), TileReady c s →
     let k := s.core c
     let code (base : Nat) (n : Fin 8) : BitVec 5 := BitVec.ofNat 5 (base + n.val)
     let issues (x : Flight) (i : Instr) : Prop := changesCore c (fun k => { k with flight := k.flight ++ [x], mxGated := false }) s i
     k.flight.length < 4 → (route k.tcfg = .fp64 → hasF64m s.variant = true) →
     (seg.toNat < pairSegs k.tcfg →
       issues ⟨false, d, 0, 0, k.tcfg, seg, neg, z, k.tl[a.val], k.tl[b.val], k.sc[a.val], k.sc[b.val]⟩
         (.tmac c (code 8 d) (code 0 a) (code 0 b) seg neg z)) ∧
     (pairSegs k.tcfg ≤ seg.toNat →
       traps c ⟨1, 0, some ((tileWord 0x10 (8 + d.val) a.val b.val
         (seg.toNat * 4 + (if neg then 2 else 0) + (if z then 1 else 0))).setWidth 64)⟩ s
         (.tmac c (code 8 d) (code 0 a) (code 0 b) seg neg z)) ∧
     issues ⟨true, d, a, b, k.tcfg, 0, false, false, 0, 0, 0, 0⟩ (.tfold c (code 8 d) (code 8 a) (code 8 b) 0)) ∧
  (∀ (s : State) (c : CoreId) (x : Flight) (xs : List Flight),
     let k := s.core c
     k.flight = x :: xs → x.fold = true → k.mxStopped = false → k.forced = false → route x.cfg = .int →
     ∃ k' : Core, exec (.tfoldCommit c []) s = .next (s.setCore c k') ∧
       (∀ n < 1024,
         let exact := accInt (accBits k.acc[x.fa.val] n) + accInt (accBits k.acc[x.fb.val] n)
         accInt (accBits k'.acc[x.d.val] n) =
           if tcIsat x.cfg then max (-(2 ^ 31)) (min exact (2 ^ 31 - 1)) else (BitVec.ofInt 32 exact).toInt) ∧
       fld k'.tstat[x.d.val] 0 32 =
         BitVec.ofNat 32 (Nat.min ((fld k.tstat[x.fa.val] 0 32).toNat + (fld k.tstat[x.fb.val] 0 32).toNat) (2 ^ 32 - 1)) ∧
       (∀ b ∈ [40, 41, 42, 43], bit (k.tstat[x.fa.val] ||| k.tstat[x.fb.val]) b = true → bit k'.tstat[x.d.val] b = true) ∧
       k' = { k with
         acc := k.acc.set x.d.val k'.acc[x.d.val], tstat := k.tstat.set x.d.val k'.tstat[x.d.val], flight := xs, mxThird := false
         tuse := k.tuse ||| BitVec.ofNat 24 (2 ^ (8 + x.d.val)) })

/-- R151, R157, R187: on the integer path a `tmac` adds the exact sum of products to each INT32 element, modulo 2^32 with ISAT 0 and
saturated with ISAT 1, and adds K to KCOUNT, or sets it to K under Z (R152); no other accumulator changes. -/
def Obligations.IntegerMacIsExact : Prop :=
  ∀ (s : State) (c : CoreId) (x : Flight) (xs : List Flight),
    let k := s.core c
    k.flight = x :: xs → x.fold = false → k.mxStopped = false → k.forced = false → route x.cfg = .int →
    let a (r e : Nat) : Int := ((x.input.as.getD r []).getD e (.zero false)).toInt
    let b (q e : Nat) : Int := ((x.input.bs.getD q []).getD e (.zero false)).toInt
    let sum (r q : Nat) : Int := ((List.range (pairK x.cfg)).map fun e => a r e * b q e).sum
    ∃ k' : Core, exec (.tmacCommit c []) s = .next (s.setCore c k') ∧
      (∀ r < 32, ∀ q < 32,
        let prior : Int := if x.z then 0 else accInt (accBits k.acc[x.d.val] (32 * r + q))
        let exact : Int := prior + (if x.neg then -sum r q else sum r q)
        let got := accBits k'.acc[x.d.val] (32 * r + q)
        got < 2 ^ 32 ∧
        accInt got = if tcIsat x.cfg then max (-(2 ^ 31)) (min exact (2 ^ 31 - 1)) else (BitVec.ofInt 32 exact).toInt) ∧
      (fld k'.tstat[x.d.val] 0 32 =
        if x.z then BitVec.ofNat 32 (pairK x.cfg)
        else BitVec.ofNat 32 (Nat.min ((fld k.tstat[x.d.val] 0 32).toNat + pairK x.cfg) (2 ^ 32 - 1))) ∧
      fld k'.tstat[x.d.val] 48 2 = 3 ∧
      k' = { k with
        acc := k.acc.set x.d.val k'.acc[x.d.val], tstat := k.tstat.set x.d.val k'.tstat[x.d.val], flight := xs, mxThird := false
        tuse := k.tuse ||| BitVec.ofNat 24 (2 ^ (8 + x.d.val)) }

/-- R151, R159, R180, R202: without RESCALE, each element of a float `tmac` is the rounded sum of its own row and column from the prior
value, in the path's order, and the operation leaves the engine. R159: the rows of special values, in their order. -/
def Obligations.FloatMacElementsAndSpecials : Prop :=
  (∀ (s : State) (c : CoreId) (x : Flight) (xs : List Flight),
     let k := s.core c
     k.flight = x :: xs → x.fold = false → k.mxStopped = false → k.forced = false → route x.cfg ≠ .int → tcRescale x.cfg = false →
     let f := accFmt (route x.cfg)
     let i := x.input
     let rscl := if x.z then 0 else tsRscl k.tstat[x.d.val]
     ∃ k' : Core, exec (.tmacCommit c []) s = .next (s.setCore c k') ∧
       (∀ r < 32, ∀ q < 32,
         let prior := if x.z then .zero false else accVal f (tcFtz x.cfg) (accBits k.acc[x.d.val] (32 * r + q))
         accBits k'.acc[x.d.val] (32 * r + q) = (macElem i rscl (i.as.getD r []) (i.bs.getD q []) prior).bits f % 2 ^ 64) ∧
       tsRscl k'.tstat[x.d.val] = rscl ∧ fld k'.tstat[x.d.val] 48 2 = (route x.cfg).code ∧
       k' = { k with
         acc := k.acc.set x.d.val k'.acc[x.d.val], tstat := k.tstat.set x.d.val k'.tstat[x.d.val], flight := xs, mxThird := false
         tuse := k.tuse ||| BitVec.ofNat 24 (2 ^ (8 + x.d.val)) }) ∧
  (∀ (neg : Bool) (as bs : List Val) (prior : Val),
     let snan := as.any (·.isSnan) || bs.any (·.isSnan)
     let clash := (as.zip bs).any fun p => (p.1.isInf && p.2.isZero) || (p.1.isZero && p.2.isInf)
     let nan := as.any (·.isNan) || bs.any (·.isNan) || prior.isNan
     let ups := (as.zip bs).any (fun p => (p.1.isInf || p.2.isInf) && ((p.1.neg != p.2.neg) = neg)) || (prior.isInf && !prior.neg)
     let downs := (as.zip bs).any (fun p => (p.1.isInf || p.2.isInf) && ((p.1.neg != p.2.neg) != neg)) || (prior.isInf && prior.neg)
     (snan = true → special neg as bs prior = some (.nan false, true)) ∧
     (snan = false → clash = true → special neg as bs prior = some (.nan false, true)) ∧
     (snan = false → clash = false → nan = true → special neg as bs prior = some (.nan false, false)) ∧
     (snan = false → clash = false → nan = false → as.length = bs.length →
       special neg as bs prior =
         if ups && downs then some (.nan false, true) else if ups then some (.inf false, false) else if downs then some (.inf true, false)
         else none))

/-- R173, R174: on the integer path without saturation, one wrong result element, or a wrong checksum row, is caught, and the replay commits
the right result with CKMIS set; a second one in a row stops the engine with nothing committed, and the cofferdam has the lane fault, of SEV 1
and DETAIL 0 until the lane test names its lane (log entries 24 and 91). -/
def Obligations.LaneFaultIsCaught : Prop :=
  ∀ (s : State) (c : CoreId) (x : Flight) (xs : List Flight) (dev dev' : LaneDev),
    let k := s.core c
    let wrong (v : LaneDev) : Prop := match v with | .result _ _ n => n.toNat % 2 ^ 32 ≠ 0 | .check _ => True
    k.flight = x :: xs → x.fold = false → k.mxStopped = false → k.forced = false → k.mxThird = false → route x.cfg = .int →
    tcIsat x.cfg = false → (x.z = true ∨ (fld k.tstat[x.d.val] 0 32).toNat + pairK x.cfg ≤ 65536) → wrong dev → wrong dev' →
    (∀ k' : Core, exec (.tmacCommit c []) s = .next (s.setCore c k') →
      exec (.tmacCommit c [[dev]]) s =
        .next (s.setCore c { k' with tstat := k'.tstat.set x.d.val (k'.tstat[x.d.val] ||| 0x40000000000) })) ∧
    exec (.tmacCommit c [[dev], [dev']]) s =
      .next (record 0x07 (s.corePort c) k.polder 1 0 0
        (s.setCore c { k with mxStopped := true, tstat := k.tstat.set x.d.val (k.tstat[x.d.val] ||| 0x40000000000) }))

/-- R208, R211, R215, R220: without block scales, `tout` to a tile converts each element of the chosen columns through the output stages,
keeps the other elements, ORs FLAGS into TSTAT, and zeroes the accumulator under CLR. R209, R210: without block scales, the memory form
of `tout` writes row r of the converted accumulator at gD + r x gB, in order. CLR sets the accumulator's TUSE bit also where it was 0 (log entry
125). -/
def Obligations.OutputStage : Prop :=
  (∀ (s : State) (c : CoreId) (d n : Fin 8) (clr : Bool) (col : BitVec 3), TileReady c s → (s.core c).flight = [] →
     let k := s.core c
     let oc := k.ocfg
     ((ocSmode oc ≠ 0 ∨ ocBmode oc ≠ 0) → k.ven = true) → k.operandsFit = true → colOk (ocFmt oc) col.toNat = true → ocObsz oc = 0 →
     let w := storageBits (ocFmt oc)
     let at_ (r q : Nat) : Nat := 1024 * r + w * (if ocFmt oc = 0 then q - 16 * col.toNat else 32 * col.toNat + q)
     let elem (r q : Nat) : Nat × Flags :=
       let z := (k.outIn n).stages (accBits k.acc[n.val] (32 * r + q)) r q
       ((convertOut oc none z.1).1, (convertOut oc none z.1).2 ||| z.2)
     ∃ k' : Core, exec (.tout c (BitVec.ofNat 5 d.val) (BitVec.ofNat 5 (8 + n.val)) 0 false clr false col) s =
         .next (retire c .seq (s.setCore c k')) ∧
       (∀ r < 32, ∀ q ∈ outCols (ocFmt oc) col.toNat, slice k'.tl[d.val] (at_ r q) w = (elem r q).1 % 2 ^ w) ∧
       (∀ b < 32768, (∀ r < 32, ∀ q ∈ outCols (ocFmt oc) col.toNat, ¬ (at_ r q ≤ b ∧ b < at_ r q + w)) →
         k'.tl[d.val].getLsbD b = k.tl[d.val].getLsbD b) ∧
       (∀ f < 5, bit k'.tstat[n.val] (43 + f) = (bit k.tstat[n.val] (43 + f) ||
         (List.range 32).any fun r => (outCols (ocFmt oc) col.toNat).any fun q => (elem r q).2.getLsbD f)) ∧
       k'.acc[n.val] = (if clr then 0 else k.acc[n.val]) ∧
       k' = { k with
         tl := k.tl.set d.val k'.tl[d.val]
         tuse := (k.tuse ||| BitVec.ofNat 24 (2 ^ d.val)) ||| (if clr then BitVec.ofNat 24 (2 ^ (8 + n.val)) else 0)
         acc := k.acc.set n.val k'.acc[n.val], tstat := k.tstat.set n.val k'.tstat[n.val] }) ∧
  (∀ (s : State) (c : CoreId) (d b : BitVec 5) (n : Fin 8) (clr : Bool), TileReady c s → Physical c s → (s.core c).flight = [] →
     let k := s.core c
     let oc := k.ocfg
     ((ocSmode oc ≠ 0 ∨ ocBmode oc ≠ 0) → k.ven = true) → k.operandsFit = true → ocObsz oc = 0 →
     let w := storageBits (ocFmt oc)
     let row (r : Nat) : Nat := (s.g c d.toFin + BitVec.ofNat 64 r * s.g c b.toFin).toNat
     let elem (r q : Nat) : Nat × Flags :=
       let z := (k.outIn n).stages (accBits k.acc[n.val] (32 * r + q)) r q
       ((convertOut oc none z.1).1, (convertOut oc none z.1).2 ||| z.2)
     (∀ r < 32, InSram c (row r) (4 * w) s ∧ row r % Nat.min (4 * w) 64 = 0) →
     ∃ (bytes : Nat → List Byte) (st : Word), exec (.tout c d (BitVec.ofNat 5 (8 + n.val)) b true clr false 0) s =
         .next (retire c .seq (((List.range 32).foldl (fun u r => sramPut c (row r) (bytes r) u) s).modCore c fun k =>
           { k with
             acc := k.acc.set n.val (if clr then 0 else k.acc[n.val]), tstat := k.tstat.set n.val st
             tuse := k.tuse ||| (if clr then BitVec.ofNat 24 (2 ^ (8 + n.val)) else 0) })) ∧
       (∀ r < 32, (bytes r).length = 4 * w ∧ ∀ q < 32, fromLe (bytes r) / 2 ^ (w * q) % 2 ^ w = (elem r q).1 % 2 ^ w) ∧
       (∀ f < 5, bit st (43 + f) = (bit k.tstat[n.val] (43 + f) ||
         (List.range 32).any fun r => (List.range 32).any fun q => (elem r q).2.getLsbD f)))

/-- R140, R141, R144: `tsave` writes the header and then each tile that TUSE marks, at the image's places. R141, R142, R145: `trest` of a
valid image gives back TUSE, TCFG, OCFG, TSTAT and each marked tile, and zeroes the others; an image whose header is not valid raises
cause 0x01. -/
def Obligations.TileSaveAndRestore : Prop :=
  (∀ (s : State) (c : CoreId) (a : Reg), TileReady c s → Physical c s → (s.core c).flight = [] →
     let k := s.core c
     let base := (s.g c a).toNat
     base % 256 = 0 → InSram c base 0x1A100 s →
     let place (t : Nat) : Nat := base + (if t < 8 then 0x100 + 0x1000 * t else if t < 16 then 0x8100 + 0x2000 * (t - 8) else 0x18100 + 0x400 * (t - 16))
     let size (t : Nat) : Nat := 32 * rowBytes t
     let head : List Word := [k.tuse.setWidth 64, k.tcfg, k.ocfg, 0] ++ k.tstat.toList ++ [1] ++ List.replicate 19 0
     exec (.tsave c a) s = .next (retire c .seq
       (((List.range 24).filter fun t => k.tuse.getLsbD t).foldl (fun u t => sramPut c (place t) (toLe (size t) (k.tile t)) u)
         (sramPut c base (head.flatMap fun w => toLe 8 w.toNat) s)))) ∧
  (∀ (s : State) (c : CoreId) (a : Reg), TileReady c s → Physical c s → (s.core c).flight = [] →
     let k := s.core c
     let base := (s.g c a).toNat
     base % 256 = 0 → InSram c base 0x1A100 s →
     let w (i : Nat) : Word := BitVec.ofNat 64 (fromLe (sramBytes c (base + 8 * i) 8 s))
     let place (t : Nat) : Nat := base + (if t < 8 then 0x100 + 0x1000 * t else if t < 16 then 0x8100 + 0x2000 * (t - 8) else 0x18100 + 0x400 * (t - 16))
     let ok : Bool := headerOk ((List.range 32).map w)
     (ok = true → ∃ k' : Core, exec (.trest c a) s = .next (retire c .seq (s.setCore c k')) ∧
       (∀ t < 24, k'.tile t = if bit (w 0) t then fromLe (sramBytes c (place t) (32 * rowBytes t) s) else 0) ∧
       (∀ n : Fin 8, k'.tstat[n.val] = w (4 + n.val)) ∧
       k' = { k with
         tl := k'.tl, acc := k'.acc, sc := k'.sc, tstat := k'.tstat, tuse := (w 0).setWidth 24, tcfg := w 1, ocfg := w 2 }) ∧
     (ok = false → traps c ⟨1, 0, some ((wordOf 0x14 0 a 0 0x140).setWidth 64)⟩ s (.trest c a)) ∧
     (tstatSaved 0 = true ∧ ∀ x : Word, tstatSaved x = true ↔ (fld x 32 7).toNat ≤ 64 ∧ x &&& 0xFFFC008000000000 = 0))

/-- R225, R227, R233: element-wise integer operations write A op B to the active elements from VRESUME on, modulo 2^SEW; B is a vector, or a
register that is broadcast. R228, R233, R234: comparisons write one bit of mD for each active element. -/
def Obligations.VectorIntegerAndComparisons : Prop :=
  (∀ (s : State) (c : CoreId) (kind : BitVec 2) (d a b : Reg) (mk : Fin 16), VecReady c s →
     let k := s.core c
     let w := k.sew
     kind ≠ 3 → d.val % k.grp = 0 → a.val % k.grp = 0 → (kind = 0 → b.val % k.grp = 0) →
     let x (e : Nat) : BitVec w := BitVec.ofNat w (k.velem a.val w e)
     let y (e : Nat) : BitVec w :=
       if kind = 0 then BitVec.ofNat w (k.velem b.val w e) else if kind = 1 then (s.g c b).setWidth w else (s.f c b).setWidth w
     let es := (List.range k.vcount.toNat).filter fun e => k.vresume.toNat ≤ e && (mk = 0 || k.mbit mk e)
     let put (f : BitVec w → BitVec w → BitVec w) (i : Instr) : Prop := writesElems c d.val w es (fun e => ((f (x e) (y e)).toNat, 0)) s i
     put (· + ·) (.vadd c kind d a b mk) ∧ put (· - ·) (.vsub c kind d a b mk) ∧ put (· &&& ·) (.vand c kind d a b mk) ∧
     put (· ||| ·) (.vor c kind d a b mk) ∧ put (· ^^^ ·) (.vxor c kind d a b mk) ∧
     put (fun u v => u <<< (v.toNat % w)) (.vsll c kind d a b mk) ∧ put (fun u v => u >>> (v.toNat % w)) (.vsrl c kind d a b mk) ∧
     put (fun u v => u.sshiftRight (v.toNat % w)) (.vsra c kind d a b mk) ∧
     put (fun u v => if u.toInt < v.toInt then u else v) (.vmin c kind d a b mk) ∧
     put (fun u v => if u.toInt < v.toInt then v else u) (.vmax c kind d a b mk) ∧
     put (fun u v => if u.toNat < v.toNat then u else v) (.vminu c kind d a b mk) ∧
     put (fun u v => if u.toNat < v.toNat then v else u) (.vmaxu c kind d a b mk) ∧
     put (· * ·) (.vmul c kind d a b mk) ∧
     put (fun u v => BitVec.ofInt w (u.toInt * v.toInt / 2 ^ w)) (.vmulh c kind d a b mk) ∧
     put (fun u v => BitVec.ofNat w (u.toNat * v.toNat / 2 ^ w)) (.vmulhu c kind d a b mk)) ∧
  (∀ (s : State) (c : CoreId) (kind : BitVec 2) (d a b : Reg) (mk : Fin 16), VecReady c s →
     let k := s.core c
     let w := k.sew
     kind ≠ 3 → d.val < 16 → a.val % k.grp = 0 → (kind = 0 → b.val % k.grp = 0) →
     let x (e : Nat) : BitVec w := BitVec.ofNat w (k.velem a.val w e)
     let y (e : Nat) : BitVec w :=
       if kind = 0 then BitVec.ofNat w (k.velem b.val w e) else if kind = 1 then (s.g c b).setWidth w else (s.f c b).setWidth w
     let es := (List.range k.vcount.toNat).filter fun e => k.vresume.toNat ≤ e && (mk = 0 || k.mbit mk e)
     let md : Fin 16 := Fin.ofNat 16 d.val
     let put (f : BitVec w → BitVec w → Bool) (i : Instr) : Prop := writesBits c md es (fun e => (f (x e) (y e), 0)) s i
     let cmp (sig : Bool) (f : Val → Val → Bool) (i : Instr) : Prop :=
       writesBits c md es (fun e =>
         let g := if k.sewLog = 3 then fp64 else fp32
         let u := g.decode k.fpFtz (x e).toNat
         let v := g.decode k.fpFtz (y e).toNat
         (!(u.isNan || v.isNan) && f u v, if u.isSnan || v.isSnan || (sig && (u.isNan || v.isNan)) then 1 else 0)) s i
     put (fun u v => u = v) (.vcmpeq c kind d a b mk) ∧ put (fun u v => u ≠ v) (.vcmpne c kind d a b mk) ∧
     put (fun u v => u.toInt < v.toInt) (.vcmplt c kind d a b mk) ∧ put (fun u v => u.toInt ≤ v.toInt) (.vcmple c kind d a b mk) ∧
     put (fun u v => u.toNat < v.toNat) (.vcmpltu c kind d a b mk) ∧ put (fun u v => u.toNat ≤ v.toNat) (.vcmpleu c kind d a b mk) ∧
     (2 ≤ k.sewLog →
       cmp false (fun u v => !u.lt v && !v.lt u) (.vfeq c kind d a b mk) ∧ cmp true Val.lt (.vflt c kind d a b mk) ∧
       cmp true (fun u v => !v.lt u) (.vfle c kind d a b mk)))

/-- R234, R238: element-wise floating-point operations round each active element once in FCTL.RM, in the format of SEW, and OR their flags
into VSTAT. R226, R235: `vsetl` sets VSHAPE, VCOUNT and gD together; narrowing rounds, widening is exact, and integers convert as R51
says. -/
def Obligations.VectorFloatAndConversions : Prop :=
  (∀ (s : State) (c : CoreId) (kind : BitVec 2) (d a b : Reg) (mk : Fin 16), VecReady c s →
     let k := s.core c
     let w := k.sew
     kind ≠ 3 → 2 ≤ k.sewLog → d.val % k.grp = 0 → a.val % k.grp = 0 → (kind = 0 → b.val % k.grp = 0) →
     let g := if k.sewLog = 3 then fp64 else fp32
     let r := k.vrm
     let xb (e : Nat) : Nat := k.velem a.val w e
     let yb (e : Nat) : Nat :=
       if kind = 0 then k.velem b.val w e else if kind = 1 then (s.g c b).toNat % 2 ^ w else (s.f c b).toNat % 2 ^ w
     let val (n : Nat) : Val := g.decode k.fpFtz n
     let es := (List.range k.vcount.toNat).filter fun e => k.vresume.toNat ≤ e && (mk = 0 || k.mbit mk e)
     let put (f : Val → Val → Val → Val × Flags) (i : Instr) : Prop :=
       writesElems c d.val w es (fun e =>
         let y := f (val (xb e)) (val (yb e)) (val (k.velem d.val w e))
         let z := g.round ⟨r, false, k.fpFtz, false⟩ y.1
         (z.1, z.2 ||| y.2)) s i
     put (fun x y _ => x.add r y) (.vfadd c kind d a b mk) ∧ put (fun x y _ => x.add r y.negate) (.vfsub c kind d a b mk) ∧
     put (fun x y _ => x.mul y) (.vfmul c kind d a b mk) ∧ put (fun x y _ => Val.div w x y) (.vfdiv c kind d a b mk) ∧
     put (fun x _ _ => Val.sqrt w x) (.vfsqrt c 0 d a 0 mk) ∧ put (fun x y _ => Val.pick false true x y) (.vfmin c kind d a b mk) ∧
     put (fun x y _ => Val.pick true true x y) (.vfmax c kind d a b mk) ∧ put (fun x y z => Val.fma r x y z) (.vfmadd c kind d a b mk) ∧
     put (fun x y z => Val.fma r x.negate y z) (.vfnmsub c kind d a b mk) ∧
     writesElems c d.val w es (fun e => (xb e % 2 ^ (w - 1) + yb e / 2 ^ (w - 1) * 2 ^ (w - 1), 0)) s (.vfsgnj c kind d a b mk)) ∧
  (∀ (s : State) (c : CoreId) (d a : Reg) (shape code : BitVec 4) (rm : BitVec 3) (r : Rm) (sat : Bool) (mk : Fin 16), VecReady c s →
     let k := s.core c
     let w := k.sew
     let t := code.toNat
     let g := if k.sewLog = 3 then fp64 else fp32
     let es := (List.range k.vcount.toNat).filter fun e => k.vresume.toNat ≤ e && (mk = 0 || k.mbit mk e)
     let sh : Word := shape.setWidth 64
     let n : Word := BitVec.ofNat 64 (Nat.min (s.g c a).toNat (vlmaxOf k.vlen sh))
     vecScalar c (fun k => { k with vshape := sh, vcount := n }.wg d n) s (.vsetl c d a shape) ∧
     (k.cvtOk t d a = true → (sat = true → t ≠ 1 ∧ t < 9) → k.rmOf (decide (t ≤ 8)) rm = some r →
       writesElems c d.val (storageBits t) es (fun e => roundElem t ⟨r, sat, k.fpFtz, false⟩ (g.decode k.fpFtz (k.velem a.val w e))) s
         (.vcvtN c d a sat code rm mk)) ∧
     (k.cvtOk t a d = true →
       writesElems c d.val w es (fun e =>
         g.round ⟨.rne, false, k.fpFtz, false⟩ (decodeElem t k.fpFtz (k.velem a.val (storageBits t) e))) s (.vcvtW c d a code 0 mk)) ∧
     (2 ≤ k.sewLog → d.val % k.grp = 0 → a.val % k.grp = 0 → k.rmOf false rm = some r →
       writesElems c d.val w es (fun e =>
         let y := roundInt (-(2 ^ (w - 1))) (2 ^ (w - 1) - 1) r (g.decode k.fpFtz (k.velem a.val w e))
         ((y.1 % 2 ^ w).toNat, y.2)) s (.vcvtIF c d a rm mk) ∧
       writesElems c d.val w es (fun e =>
         g.round ⟨r, false, k.fpFtz, false⟩ (.ofInt (BitVec.ofNat w (k.velem a.val w e)).toInt)) s (.vcvtFI c d a rm mk)))

/-- R227, R236: a reduction with VCOUNT at 0 writes nothing but VRESUME; otherwise element 0 of vD takes B[0] combined with the active
elements, and only it changes: integers modulo 2^SEW or as the least or greatest, floating-point numbers by the balanced tree over the
smallest power of two not below VCOUNT, B[0] combined last. R232, R224: vector instructions need STATUS.VEN, and are illegal in
strongroom mode; a group field that is not a multiple of the group's size is illegal. -/
def Obligations.VectorReductionsAndRefusals : Prop :=
  (∀ (s : State) (c : CoreId) (d a b : Reg) (rm : BitVec 3) (r : Rm) (mk : Fin 16) (l : Nat), VecReady c s →
     let k := s.core c
     let w := k.sew
     let n := k.vcount.toNat
     d.val % k.grp = 0 → a.val % k.grp = 0 → b.val % k.grp = 0 → n ≤ 2 ^ l → (l = 0 ∨ 2 ^ (l - 1) < n) →
     let on (e : Nat) : Bool := mk = 0 || k.mbit mk e
     let act := (List.range n).filter on
     let x (e : Nat) : BitVec w := BitVec.ofNat w (k.velem a.val w e)
     let b0 : BitVec w := BitVec.ofNat w (k.velem b.val w 0)
     let one (v : Nat × Flags) (i : Instr) : Prop := writesElems c d.val w [0] (fun _ => v) s i
     let g := if k.sewLog = 3 then fp64 else fp32
     let val (u : Nat) : Val := g.decode k.fpFtz u
     let pair (h : Val → Val → Val × Flags) (q : Rm) (u v : Nat) : Nat × Flags :=
       let y := h (val u) (val v)
       let z := g.round ⟨q, false, k.fpFtz, false⟩ y.1
       (z.1, z.2 ||| y.2)
     let reduces (f : Nat → Nat → Nat × Flags) (i : Instr) : Prop :=
       one (match treeAt f (fun e => if e < n ∧ on e = true then some (k.velem a.val w e) else none) l 0 with
         | (none, _) => (b0.toNat, 0)
         | (some u, fl) => ((f b0.toNat u).1, fl ||| (f b0.toNat u).2)) i
     (n = 0 → vecScalar c id s (.vredsum c d a b mk) ∧ vecScalar c id s (.vredmin c d a b mk) ∧ vecScalar c id s (.vredmax c d a b mk)) ∧
     (n = 0 → 2 ≤ k.sewLog → vecScalar c id s (.vfredmin c d a b mk) ∧ vecScalar c id s (.vfredmax c d a b mk) ∧
       (k.rmOf false rm = some r → vecScalar c id s (.vfredsum c d a b rm mk))) ∧
     (n ≠ 0 →
       one ((act.foldl (fun v e => v + x e) b0).toNat, 0) (.vredsum c d a b mk) ∧
       one ((act.foldl (fun v e => if (x e).toInt < v.toInt then x e else v) b0).toNat, 0) (.vredmin c d a b mk) ∧
       one ((act.foldl (fun v e => if v.toInt < (x e).toInt then x e else v) b0).toNat, 0) (.vredmax c d a b mk)) ∧
     (n ≠ 0 → 2 ≤ k.sewLog →
       (k.rmOf false rm = some r → reduces (pair (fun u v => u.add .rne v) r) (.vfredsum c d a b rm mk)) ∧
       reduces (pair (Val.pick false true) .rne) (.vfredmin c d a b mk) ∧ reduces (pair (Val.pick true true) .rne) (.vfredmax c d a b mk))) ∧
  (∀ (s : State) (c : CoreId) (d a b : Reg) (mk : Fin 16), Ready c s →
     let k := s.core c
     let w : Word := ((wordOf 0x18 d a b (BitVec.ofNat 12 (mk.val * 256))).setWidth 64)
     (k.srm = true → traps c ⟨1, 0, some w⟩ s (.vadd c 0 d a b mk)) ∧
     (k.srm = false → k.ven = false → traps c ⟨0x0A, 1, none⟩ s (.vadd c 0 d a b mk)) ∧
     (k.srm = false → k.ven = true → (d.val % k.grp ≠ 0 ∨ a.val % k.grp ≠ 0 ∨ b.val % k.grp ≠ 0) →
       traps c ⟨1, 0, some w⟩ s (.vadd c 0 d a b mk)) ∧
     (k.srm = true → traps c ⟨1, 0, some ((wordOf 0x14 0 0 0 0x180).setWidth 64)⟩ s (.tsync c)) ∧
     (k.srm = false → k.ten = false → traps c ⟨0x0A, 0, none⟩ s (.tsync c)))

/-- R227, R237: moves between a vector and a scalar register, which write nothing with VCOUNT at 0, `vid`, slides, permutation and packing;
elements from VLMAX on read as 0. R227, R228, R237: the mask operations act on the bits below VCOUNT; `vmpopc` counts them and `vmfirst`
finds the lowest, and neither writes anything with VCOUNT at 0. -/
def Obligations.VectorMovesAndMasks : Prop :=
  (∀ (s : State) (c : CoreId) (d a b : Reg) (mk : Fin 16), VecReady c s →
     let k := s.core c
     let w := k.sew
     let n := k.vcount.toNat
     let on (e : Nat) : Bool := mk = 0 || k.mbit mk e
     let es := (List.range n).filter fun e => k.vresume.toNat ≤ e && on e
     let all := (List.range n).filter on
     let el (r : Reg) (i : Nat) : Nat := if i < k.vlmax then k.velem r.val w i else 0
     let apart (x : Reg) : Prop := d.val + k.grp ≤ x.val ∨ x.val + k.grp ≤ d.val
     let puts (es : List Nat) (f : Nat → Nat) (i : Instr) : Prop := writesElems c d.val w es (fun e => (f e, 0)) s i
     (d.val % k.grp = 0 →
       puts es (fun _ => (s.g c a).toNat) (.vmvVG c d a mk) ∧ puts es (fun _ => (s.f c a).toNat) (.vmvVF c d a mk) ∧
       puts es id (.vid c d mk)) ∧
     (a.val % k.grp = 0 →
       vecScalar c (fun k => if n = 0 then k else k.wg d ((BitVec.ofNat w (el a (s.g c b).toNat)).signExtend 64)) s (.vmvGV c d a b) ∧
       vecScalar c (fun k => if n = 0 then k else k.wf d (BitVec.ofNat 64 (el a (s.g c b).toNat))) s (.vmvFV c d a b)) ∧
     (d.val % k.grp = 0 → a.val % k.grp = 0 → apart a →
       puts all (fun e => el a (e + (s.g c b).toNat)) (.vslidedn c d a b mk) ∧
       puts (all.filter fun e => (s.g c b).toNat ≤ e) (fun e => k.velem a.val w (e - (s.g c b).toNat)) (.vslideup c d a b mk) ∧
       (b.val % k.grp = 0 → apart b → puts all (fun e => el a (k.velem b.val w e)) (.vperm c d a b mk)) ∧
       let src := (List.range n).filter fun e => k.mbit mk e
       puts (List.range src.length) (fun e => k.velem a.val w (src.getD e 0)) (.vcompress c d a mk))) ∧
  (∀ (s : State) (c : CoreId) (x y z : Fin 16) (d : Reg), VecReady c s →
     let k := s.core c
     let r (m : Fin 16) : Reg := Fin.ofNat 32 m.val
     let below := List.range k.vcount.toNat
     let puts (f : Bool → Bool → Bool) (i : Instr) : Prop := writesBits c x below (fun e => (f (k.mbit y e) (k.mbit z e), 0)) s i
     puts (· && ·) (.vmand c (r x) (r y) (r z)) ∧ puts (· || ·) (.vmor c (r x) (r y) (r z)) ∧ puts xor (.vmxor c (r x) (r y) (r z)) ∧
     puts (fun u v => u && !v) (.vmandn c (r x) (r y) (r z)) ∧
     let writes (v : Word) (i : Instr) : Prop := vecScalar c (fun k => if below = [] then k else k.wg d v) s i
     writes (BitVec.ofNat 64 (below.countP fun e => k.mbit y e)) (.vmpopc c d (r y)) ∧
     writes (match below.find? fun e => k.mbit y e with | some e => BitVec.ofNat 64 e | none => 0xFFFFFFFFFFFFFFFF) (.vmfirst c d (r y)))

/-- R239 to R243: vector loads from the strongroom SRAM: unit-stride, records, strided, gathered and first-fault; each field of each active
element takes its bytes, and every other register keeps its own. R239 to R243: vector stores to the strongroom SRAM write each field of each
active element, in order, and nothing else; mask registers move whole. R244: where element e faults, those below it are complete, no other is,
VRESUME is e, and EADDR its address. R247: past its first active element a first-fault load cuts VCOUNT to e instead. -/
def Obligations.VectorLoadsAndStores : Prop :=
  (∀ (s : State) (c : CoreId) (d a b : Reg) (iw : BitVec 2) (mk : Fin 16), VecReady c s → Physical c s →
     let k := s.core c
     let w := k.sew
     let n := w / 8
     let es := (List.range k.vcount.toNat).filter fun e => k.vresume.toNat ≤ e && (mk = 0 || k.mbit mk e)
     let base := (s.g c a).toNat
     let there (at_ : Nat → Nat) : Prop := ∀ e ∈ es, InSram c (at_ e) n s ∧ at_ e % n = 0
     let one (at_ : Nat → Nat) (i : Instr) : Prop :=
       there at_ → writesElems c d.val w es (fun e => (fromLe (sramBytes c (at_ e) n s), 0)) s i
     let idx (e : Nat) : Nat := k.velem b.val (8 * 2 ^ iw.toNat) e
     let rec_ (fields : Nat) (i : Instr) : Prop :=
       k.vcount.toNat ≤ k.vlmax → d.val + (fields - 1) * k.grp ≤ 31 →
       (∀ e ∈ es, ∀ f < fields, base + (fields * e + f) * n < 2 ^ 64 ∧
         InSram c (base + (fields * e + f) * n) n s ∧ (base + (fields * e + f) * n) % n = 0) →
       ∃ k' : Core, exec i s = .next (retire c .seq (s.setCore c k')) ∧ vecFrame k k' ∧ k'.m = k.m ∧ k'.cm = k.cm ∧ k'.vstat = k.vstat ∧
         (∀ f < fields, ∀ e < k.vlmax, k'.velem (d.val + f * k.grp) w e =
           if e ∈ es then fromLe (sramBytes c (base + (fields * e + f) * n) n s) else k.velem (d.val + f * k.grp) w e) ∧
         ∀ r < 32, (∀ f < fields, ∀ e ∈ es, r ≠ d.val + f * k.grp + e * w / k.vlen) → k'.vreg r = k.vreg r
     d.val % k.grp = 0 →
     one (fun e => (base + e * n) % 2 ^ 64) (.vld c d a mk) ∧ one (fun e => (base + e * n) % 2 ^ 64) (.vldff c d a mk) ∧
     one (fun e => (s.g c a + BitVec.ofNat 64 e * s.g c b).toNat) (.vlds c d a b mk) ∧
     (k.indexOk true d b iw = true →
       one (fun e => (base + idx e) % 2 ^ 64) (.vldx c d a b iw mk) ∧ one (fun e => (base + idx e) % 2 ^ 64) (.vldxff c d a b iw mk)) ∧
     rec_ 2 (.vld2 c d a mk) ∧ rec_ 3 (.vld3 c d a mk) ∧ rec_ 4 (.vld4 c d a mk)) ∧
  (∀ (s : State) (c : CoreId) (d a b : Reg) (iw : BitVec 2) (mk md : Fin 16), VecReady c s → Physical c s →
     let k := s.core c
     let w := k.sew
     let n := w / 8
     let es := (List.range k.vcount.toNat).filter fun e => k.vresume.toNat ≤ e && (mk = 0 || k.mbit mk e)
     let base := (s.g c a).toNat
     let ends (t : State) (i : Instr) : Prop :=
       exec i s = .next (retire c .seq (t.modCore c fun k => { k with vresume := 0, vuGated := k.vuGated && !k.vuOn }))
     let stores (fields : Nat) (at_ : Nat → Nat → Nat) (i : Instr) : Prop :=
       d.val + (fields - 1) * k.grp ≤ 31 → (∀ e ∈ es, ∀ f < fields, InSram c (at_ e f) n s ∧ at_ e f % n = 0) →
       ends (es.foldl (fun u e =>
         (List.range fields).foldl (fun u f => sramPut c (at_ e f) (toLe n (k.velem (d.val + f * k.grp) w e)) u) u) s) i
     let idx (e : Nat) : Nat := k.velem b.val (8 * 2 ^ iw.toNat) e
     let bytes := k.vlen / 8
     let mr : Reg := Fin.ofNat 32 md.val
     (d.val % k.grp = 0 →
       stores 1 (fun e _ => (base + e * n) % 2 ^ 64) (.vst c d a mk) ∧
       stores 1 (fun e _ => (s.g c a + BitVec.ofNat 64 e * s.g c b).toNat) (.vsts c d a b mk) ∧
       (k.indexOk false d b iw = true → stores 1 (fun e _ => (base + idx e) % 2 ^ 64) (.vstx c d a b iw mk)) ∧
       stores 2 (fun e f => (base + (2 * e + f) * n) % 2 ^ 64) (.vst2 c d a mk) ∧
       stores 3 (fun e f => (base + (3 * e + f) * n) % 2 ^ 64) (.vst3 c d a mk) ∧
       stores 4 (fun e f => (base + (4 * e + f) * n) % 2 ^ 64) (.vst4 c d a mk)) ∧
     (InSram c base bytes s → base % 8 = 0 →
       ends (sramPut c base (toLe bytes (k.mreg md)) s) (.vsm c mr a) ∧
       ends (s.modCore c fun k => k.setMreg md (fromLe (sramBytes c base bytes s))) (.vlm c mr a))) ∧
  (∀ (s : State) (c : CoreId) (d a b : Reg) (mk : Fin 16) (e : Nat), VecReady c s → Physical c s → clearAnswers (.core c) s = s →
     let k := s.core c
     let w := k.sew
     let n := w / 8
     let es := (List.range k.vcount.toNat).filter fun e => k.vresume.toNat ≤ e && (mk = 0 || k.mbit mk e)
     let below := es.filter (· < e)
     let loaded (at_ : Nat → Nat) (k' : Core) : Prop :=
       (∀ i, d.val + i * w / k.vlen < 32 → k'.velem d.val w i = if i ∈ below then fromLe (sramBytes c (at_ i) n s) else k.velem d.val w i) ∧
       ∀ r < 32, (∀ i ∈ below, r ≠ d.val + i * w / k.vlen) → k'.vreg r = k.vreg r
     let used : Bool := k.vuGated && !k.vuOn
     d.val % k.grp = 0 → e ∈ es →
     (let at_ (i : Nat) : Nat := (s.g c a + BitVec.ofNat 64 i * s.g c b).toNat
      let faults (t : State) (i : Instr) : Prop := ∀ u, takeExc c ⟨2, 0, some (BitVec.ofNat 64 (at_ e))⟩ t = .ok () u → exec i s = .next u
      (∀ i ∈ below, InSram c (at_ i) n s ∧ at_ i % n = 0) → at_ e % n ≠ 0 →
      (∃ k' : Core, loaded at_ k' ∧ k' = { k with v := k'.v, f := k'.f, vresume := BitVec.ofNat 64 e, vuGated := used } ∧
        faults (s.setCore c k') (.vlds c d a b mk)) ∧
      faults ((below.foldl (fun u i => sramPut c (at_ i) (toLe n (k.velem d.val w i)) u) s).modCore c fun k =>
        { k with vresume := BitVec.ofNat 64 e, vuGated := used }) (.vsts c d a b mk)) ∧
     (let at_ (i : Nat) : Nat := ((s.g c a).toNat + i * n) % 2 ^ 64
      below ≠ [] → (∀ i ∈ below, InSram c (at_ i) n s ∧ at_ i % n = 0) → at_ e % n = 0 → 0xFFC0000040000 ≤ at_ e →
      ∃ k' : Core, exec (.vldff c d a mk) s = .next (retire c .seq (s.setCore c k')) ∧ loaded at_ k' ∧
        k' = { k with v := k'.v, f := k'.f, vcount := BitVec.ofNat 64 e, vstat := k.vstat ||| 0x20, vresume := 0, vuGated := used }))

/-- R7, R304, R305, R448: what a message to a routing entry, a write to one, and ISWI do. Of a write whose outcome is undefined, the host's
and a PL2 or PL3 store's stop the model; a PL0 or PL1 store's is ignored, which is the model's choice (log entry 111). R305: interrupts
of one cause merge, with the highest level and the highest priority among them; other causes keep their entries. That coreTimer moves LTIME to
TIMECMP, and that undefinedOutcome stops the model, are the model's choices (log entries 9, 50). -/
def Obligations.InterruptRoutingAndMerging : Prop :=
  (∀ (s : State) (c k : CoreId) (w : Writer) (n : Fin 1024) (v : Word),
     let e := s.irte n
     let counted (x : Word) : Word := if (irteCount x) = 0x3FFFFFFF then x else x + 0x400000000
     let set (x : Word) : State := s.setIrte n x
     let pend (x : Word) : State := pendIrq (irteCore x) (irteCause x) (irteLvl x) (irtePrio x) s
     let new : Word := (v &&& 0x3FFFFFFF9) ||| (e &&& ~~~(0x3FFFFFFF9 : Word))
     let held (x : Word) : Prop := irteLvl x = 1 ∧ (s.core (irteCore x)).polder ≠ irtePolder x
     let valid (x : Word) : Prop := 0x28 ≤ (irteCause x).toNat ∧ irteLvl x ≠ 0 ∧ s.present (irteCore x) = true
     (bit e 0 = false → exec (.interruptMessage n) s = .next (set (counted e))) ∧
     (bit e 0 = true → s.offline (irteCore e) = false →
       (held e → exec (.interruptMessage n) s = .next (set (e ||| 2))) ∧
       (¬ held e → exec (.interruptMessage n) s = .next ((pend e).setIrte n (e &&& ~~~(2 : Word))))) ∧
     (bit e 0 = true → s.offline (irteCore e) = true → exec (.interruptMessage n) s = .next (set (counted (e &&& ~~~(2 : Word))))) ∧
     (writerShut w s = false → bit new 0 = true → ¬ valid new →
       exec (.irteWrite w n v) s = if writerTrusted w s then .fault (.undefinedOutcome 304) else .next s) ∧
     (writerShut w s = false → bit new 0 = false ∨ valid new →
       (bit e 1 = false → exec (.irteWrite w n v) s = .next (set new)) ∧
       (bit e 1 = true → bit new 0 = false → exec (.irteWrite w n v) s = .next (set (counted (new &&& ~~~(2 : Word))))) ∧
       (bit e 1 = true → bit new 0 = true → s.offline (irteCore new) = false →
         (held new → exec (.irteWrite w n v) s = .next (set (new ||| 2))) ∧
         (¬ held new → exec (.irteWrite w n v) s = .next ((pend new).setIrte n (new &&& ~~~(2 : Word)))))) ∧
     (writerShut w s = false → s.present c = true → s.offline c = false → 0x28 ≤ (fld v 0 8).toNat → fld v 8 2 ≠ 0 →
       exec (.iswi w c v) s = .next (pendIrq c (fld v 0 8) (fld v 8 2) 0 s)) ∧
     (writerShut w s = false → (s.present c = false ∨ s.offline c = true ∨ (fld v 0 8).toNat < 0x28 ∨ fld v 8 2 = 0) → exec (.iswi w c v) s = .next s) ∧
     (s.present k = true → s.power.rootLock = true → s.power.rootOff = false → s.ltime.toNat < (s.core k).timecmp.toNat →
       exec (.coreTimer k) s = .next { s with ltime := (s.core k).timecmp } ∧
       ∃ t, exec (.coreTimer k) s = .next t ∧ (⟨0x20, 2, 15⟩ : PendIrq) ∈ t.pendingOf k)) ∧
  (∀ (irqs : List PendIrq) (p : PendIrq),
     let at_ (xs : List PendIrq) (c : BitVec 8) : Option PendIrq := xs.find? fun q => q.cause = c
     (at_ irqs p.cause = none → at_ (mergeIrq p irqs) p.cause = some p) ∧
     (∀ q, at_ irqs p.cause = some q → ∃ r, at_ (mergeIrq p irqs) p.cause = some r ∧
       r.lvl.toNat = max q.lvl.toNat p.lvl.toNat ∧ r.prio.toNat = max q.prio.toNat p.prio.toNat) ∧
     (∀ c, c ≠ p.cause → at_ (mergeIrq p irqs) c = at_ irqs c) ∧
     ((irqs.map (·.cause)).Nodup → ((mergeIrq p irqs).map (·.cause)).Nodup))

/-- R297, R306: an entry that has begun comes before every event. An interrupt is taken at a boundary only when nothing comes before it: no
pending cause 0x06, no takable cause 0x07, and no acceptable interrupt of a higher level, of a higher priority at its level, or of a
lower cause. R283 to R291, R295, R297, R306: an event of a boundary is taken in place of the next instruction, which completes first
only where it is an atomic, a `syswr` or a device access already sent: the model performs the event in the command's place, and takes
FROMPL of cause 0x07 from the queue's entry (log entries 6, 56). EPC is at it. An entry that has begun goes on as it was
recognised. A fetch fault comes before a reserved word, which raises its exception. A deferred store error enters the queue of eight, or
is counted as dropped. -/
def Obligations.BoundaryEvents : Prop :=
  (∀ (s : State) (c : CoreId),
     let k := s.core c
     let ok (q : PendIrq) : Prop := k.pl.toNat < q.lvl.toNat ∨ (q.lvl = k.pl ∧ bit k.status 2 = true)
     (∀ e, k.entering = some e ↔ s.boundary c = .resume e) ∧
     (∀ p, s.boundary c = .irq p →
       k.fpPend = none ∧ ¬ (k.dsePend = true ∧ k.dse ≠ [] ∧ k.pl ≤ k.dseTarget) ∧ p ∈ s.pendingOf c ∧ ok p ∧
       ∀ q ∈ s.pendingOf c, ok q → q.lvl.toNat < p.lvl.toNat ∨
         (q.lvl = p.lvl ∧ (q.prio.toNat < p.prio.toNat ∨ (q.prio = p.prio ∧ p.cause.toNat ≤ q.cause.toNat)))) ∧
     (s.boundary c = .dse → k.fpPend = none ∧ k.dsePend = true ∧ k.dse ≠ [] ∧ k.pl ≤ k.dseTarget) ∧
     (s.boundary c = .none → k.fpPend = none → ∀ q ∈ s.pendingOf c, ¬ ok q)) ∧
  (∀ (s : State) (c : CoreId) (word : BitVec 32) (d a b : Reg), s.runs c = true → (s.core c).pausing = false →
     (s.core c).armPausing = false → (s.core c).fileErr = none →
     let k := s.core c
     let both (t : State) : Prop := exec (.exceptionEntry c word) s = .next t ∧ exec (.add c d a b) s = .next t
     let taken (f : Core → Core) (cause : BitVec 8) (t : BitVec 2) (imprec : Bool) (at_ : Option Word) (from_ : BitVec 2) : Prop :=
       let u := abandonReqs (.core c) (s.modCore c f)
       let x := savedAt c cause 0 imprec at_ from_ u
       EntryGood c cause t x u → both (entryState c cause t x u)
     (∀ e, k.entering = some e →
       let x := savedAt c e.cause e.sub e.imprec e.addr e.fromPl s
       EntryGood c e.cause e.level x s → both (entryState c e.cause e.level x s)) ∧
     (s.completesFirst c = false →
       (∀ p, s.boundary c = .irq p →
         taken (fun k => { k with irqs := k.irqs.filter fun q => q.cause ≠ p.cause }) p.cause p.lvl false none k.pl) ∧
       (∀ at_ i, s.boundary c = .fp at_ i → taken (fun k => { k with fpPend := none }) 6 (k.target 6 0) i (some at_) k.pl) ∧
       (∀ e rest, k.dse = e :: rest → s.boundary c = .dse →
         taken (fun k => { k with dsePend := false }) 7 k.dseTarget false none e.pl)) ∧
     (s.completesFirst c = true → k.entering = none → s.boundary c ≠ .none → ∀ t, fetchCheck c k.pc s = .ok () t →
       exec (.add c d a b) s = .next (retire c .seq (t.setG c d (t.g c a + t.g c b)))) ∧
     (s.boundary c = .none →
       (∀ e t, fetchCheck c k.pc s = .error (.exc e) t → ∀ u, takeExc c e t = .ok () u → both u) ∧
       (∀ t, fetchCheck c k.pc s = .ok () t →
         (∀ e u, Isa.reservedExc (t.core c) word = some e → takeExc c e t = .ok () u → exec (.exceptionEntry c word) s = .next u) ∧
         (Isa.reservedExc (t.core c) word = none → exec (.exceptionEntry c word) s = .next t))) ∧
     (s.present c = true → ∀ (addr : Word) (size kind : BitVec 4) (pl : BitVec 2) (polder : BitVec 12) (src : BitVec 2),
       let e : DseEntry := ⟨addr, size, kind, pl, polder, src⟩
       let i : Instr := .deferredStoreError c addr size kind pl polder src
       (k.dse.length < 8 →
         exec i s = .next (s.setCore c { k with dse := k.dse ++ [e], dsePend := if k.dse = [] then true else k.dsePend })) ∧
       (8 ≤ k.dse.length →
         exec i s = .next (s.setCore c { k with
           dseOvf := true, dseDropped := if k.dseDropped = 0xFFFF then 0xFFFF else k.dseDropped + 1 }))))

/-- R317: a write to RANGE_OP of a busy slot sets REJ only; of an idle one it captures the writer and queues the request behind the wing's
other busy slots; a request with a misaligned base or length fails with ERRKIND 1, and one of no lines is done, once it is at the head.
R320, R321: the request at the head of its wing finishes. -/
def Obligations.RangeRequests : Prop :=
  (∀ (s : State) (by_ : Writer) (w n : Fin 4) (v : Word), w.val < nWings s.variant → writerShut by_ s = false →
     (s.gate (0x28 + w.val)).open_ = true →
     let x := s.slot w n
     let order := (s.wings[w.val]).order
     ∀ p ∈ [((0 : BitVec 3), Instr.clean by_ w n v), (1, .invalidate by_ w n v), (2, .cleanAndInvalidate by_ w n v), (3, .zeroFill by_ w n v),
         (4, .demote by_ w n v), (5, .prefetch by_ w n v)],
       let y : Slot := { capture by_ s x with op := setFld v 0 p.1 &&& 0xFFDF, stat := (x.stat &&& 8) ||| 1, res := 0 }
       let q := (s.setSlot w n y).modWing w fun g => { g with order := g.order ++ [n] }
       (bit x.stat 0 = true → exec p.2 s = .next (s.setSlot w n { x with stat := x.stat ||| 8 })) ∧
       (bit x.stat 0 = false → order ≠ [] → exec p.2 s = .next q) ∧
       (bit x.stat 0 = false → order = [] → (x.base.toNat % 64 ≠ 0 ∨ x.len.toNat % 64 ≠ 0 ∨ 2 ^ 38 < x.len.toNat) →
         exec p.2 s = .next (q.setSlot w n { y with res := 1 })) ∧
       (bit x.stat 0 = false → order = [] → x.base.toNat % 64 = 0 → x.len = 0 → (∀ c, by_ = .core c → bit v 3 = true → (s.pl c).ult 2 = false) →
         exec p.2 s = .next (q.setSlot w n { y with res := 15 }))) ∧
  (∀ (s : State) (w n : Fin 4), w.val < nWings s.variant → (s.wings[w.val]).order = [n] → (s.gate (0x28 + w.val)).open_ = true →
     let x := s.slot w n
     let stat : Word := if x.res = 15 then (x.stat &&& ~~~(1 : Word)) ||| 2 else (x.stat &&& ~~~(1 : Word)) ||| 4 ||| x.res.setWidth 64 <<< 4
     let t := (s.setSlot w n { x with stat := stat, res := 0 }).modWing w fun g => { g with order := [] }
     x.res ≠ 0 →
     exec (.rangeComplete w) s = .next (if bit x.op 4 then irteMessage (fld x.op 6 10).toFin t else t))

/-- R319 to R321: each operation on one line of this die's memory, asked for by the host or the pumphouse with PHYS while nothing else has
the line. A dirty line that is uncorrectable is lost, and the request ends with ERRKIND 5. -/
def Obligations.RangeLineOperations : Prop :=
  ∀ (s : State) (by_ : Writer) (w n : Fin 4) (v : Word) (d : Fin 4), w.val < nWings s.variant → (∀ c, by_ ≠ .core c) →
    (s.gate (0x28 + w.val)).open_ = true →
    let x := s.slot w n
    let g := s.wings[w.val]
    let a := x.base.toNat
    let l := a / 64
    let y (op : BitVec 3) : Slot := { capture by_ s x with op := setFld v 0 op &&& 0xFFDF, stat := (x.stat &&& 8) ||| 1, res := 0 }
    let q (op : BitVec 3) : State := (s.setSlot w n (y op)).modWing w fun g => { g with order := g.order ++ [n] }
    let fin (op : BitVec 3) (t : State) : Host.Outcome State Fault Refusal :=
      .next ((clearAnswers (.scullery w) t).setSlot w n { y op with stat := setFld (y op).stat 16 (1 : BitVec 32), res := 15 })
    bit x.stat 0 = false → g.order = [] → bit v 3 = true → a % 64 = 0 → x.len = 64 → place a = .mem d → s.ownDie d = true →
    (stackOf a).val < nStacks s.variant → s.unsaved a = false → dirOf s l = DirEntry.none → s.lost a = false →
    mget none s.mem.arrays l = none → supplied (.scullery w) l s = none →
    exec (.invalidate by_ w n v) s = fin 1 (dropCopies l (unspoil l (discardLine l (q 1)))) ∧
    (s.spoilt l = true → s.isDirty l = true →
      ∀ op ∈ [(0, Instr.clean by_ w n v), (2, .cleanAndInvalidate by_ w n v)], ∃ t,
        exec op.2 s = .next t ∧ (t.slot w n).res = 5 ∧ (s.coff.lpt.length < 1024 → t.lost a = true)) ∧
    (s.spoilt l = false →
    (s.isDirty l = false →
      exec (.clean by_ w n v) s = fin 0 (q 0) ∧ exec (.cleanAndInvalidate by_ w n v) s = fin 2 (dropCopies l (q 2))) ∧
    (s.isDirty l = true →
      exec (.clean by_ w n v) s = fin 0 (cleanCopies l (storeLine ((heldTag (q 0) l).getD 0) l (q 0))) ∧
      exec (.cleanAndInvalidate by_ w n v) s = fin 2 (dropCopies l (cleanCopies l (storeLine ((heldTag (q 2) l).getD 0) l (q 2))))) ∧
    (cset wingGeo g.cache l = CSet.empty → (∃ i < 16, wayOff g i = false) →
      ∃ t, exec (.zeroFill by_ w n v) s = .next t ∧ lineData t l = 0 ∧ t.isDirty l = true ∧ wingHolds t.wings[w.val] l = some .m ∧
        (t.slot w n).res = 15) ∧
    (wingCoreEntry s w l = none → exec (.demote by_ w n v) s = fin 4 (q 4)) ∧
    (∀ e, wingCoreEntry s w l = some e → exec (.demote by_ w n v) s = fin 4 (wingFill w e (dropWingCores w l (q 4)))) ∧
    (cset wingGeo g.cache l = CSet.empty → (∃ i < 16, wayOff g i = false) → holdings s l = [] →
      s.errsOf l = 0 → mget none s.mem.dirErrs l = none → (∀ k : Fin 4, s.nodeLost k.val = false) → (∀ t ∈ s.th.txns, t.line ≠ l) →
      ∃ t, exec (.prefetch by_ w n v) s = .next t ∧ lineData t l = viewLine s 0 l ∧ wingHolds t.wings[w.val] l = some .e ∧
        (t.slot w n).res = 15))

/-- R325 to R329, R498: the scrubber reads a line of its stack and handles what it meets, a poll adds the stack's own counts, and a repair changes
no data. -/
def Obligations.MemoryControllerWork : Prop :=
  ∀ (s : State) (m : Fin 4) (line : BitVec 30) (count : BitVec 32) (req : Word) (lines : List (BitVec 30)), m.val < nStacks s.variant →
    let x := s.mem.ctrls[m.val]
    let n := stackLine s m line
    let does (f : State → Prop) : Prop := ∃ t, exec (.scrub m line) s = .next t ∧ f t
    (does fun _ => True) ∧
    ((bit x.scrub 16 = false ∨ x.trained = false ∨ s.power.rootOff = true) → exec (.scrub m line) s = .next s) ∧
    (bit x.scrub 16 = true → x.trained = true → s.power.rootOff = false →
      (s.errsOf n = 0 → exec (.scrub m line) s = .next (countRd n (notePass n s))) ∧
      (∀ sym, outerCode (s.errsOf n) = .corrected sym → does fun t =>
        t.mem.bytes = s.mem.bytes ∧ t.errsOf n = 0 ∧ t.mem.ctrls[m.val].cecnt = satInc x.cecnt ∧
        t.mem.ctrls[m.val].erraddr = BitVec.ofNat 64 (64 * n) ||| sym.setWidth 64 ||| 0x8000000000000000) ∧
      (outerCode (s.errsOf n) = .detected → (s.isDirty n = true ∨ (dirOf s n).owner.isSome = true) → does fun t =>
        t.coff.lpt = s.coff.lpt ∧ t.mem.ctrls[m.val].uecnt = satInc x.uecnt) ∧
      (outerCode (s.errsOf n) = .detected → s.isDirty n = false → (dirOf s n).owner = none → s.lost (64 * n) = false →
        s.coff.lpt.length < 1024 → does fun t => t.lost (64 * n) = true ∧ t.mem.ctrls[m.val].uecnt = satInc x.uecnt)) ∧
    exec (.ieccPoll m count) s = .next (setCtrl m { x with iecc :=
      if x.iecc.toNat + count.toNat < 2 ^ 32 then x.iecc + count else 0xFFFFFFFF } s) ∧
    ∃ t, exec (.postPackageRepair m req lines) s = .next t ∧ t.mem.ctrls[m.val].ppr = req ∧
      ((∀ l ∈ lines, outerCode (s.errsOf (stackLine s m l)) ≠ .unclaimed) → t.mem.bytes = s.mem.bytes)

/-- R351 to R353, R376: a doorbell of the right size and polder moves SQ_PI or RQ_PI forward, or sets ARM; a value that is behind does
nothing, one beyond the ring is BAD_WR and an error; others are counted and dropped. A store that reaches the context is a use of it
(R380). -/
def Obligations.SluiceDoorbells : Prop :=
  ∀ (s : State) (q : BitVec 20) (st : DevStore) (x : QueuePair), s.qp q.toNat = some x →
    let n := q.toNat
    let v : BitVec 32 := fld st.value 0 32
    let right : Prop := st.size = 8 ∧ (st.trusted = true ∨ st.tag = x.polder)
    let moves (i : Instr) (pi ci : BitVec 32) (size : Nat) (new : QueuePair) : Prop :=
      right → x.state ≠ 0 → x.state ≠ 4 → x.onDie = true →
        (2 ^ 31 ≤ (v - pi).toNat → exec i s = sluiceDone n (touchQp n s)) ∧
        ((v - pi).toNat < 2 ^ 31 → (v - ci).toNat ≤ size →
          exec i s = sluiceDone n ((touchQp n s).setQp n { new with used := s.sluice.clock + 1 }))
    moves (.sqPi q st) x.sqPi x.sqCi (2 ^ x.sqLog.toNat) { x with sqPi := v } ∧
    moves (.rqPi q st) x.rqPi x.rqCi (2 ^ x.rqLog.toNat) { x with rqPi := v } ∧
    (right → x.state ≠ 0 → exec (.cqArm q st) s = sluiceDone n (s.setQp n { x with arm := bit st.value 0 })) ∧
    (¬ right → ∀ i ∈ [Instr.sqPi q st, .rqPi q st, .cqArm q st],
      exec i s = sluiceDone n { s with sluice := { s.sluice with dbdrop := satInc s.sluice.dbdrop } }) ∧
    (right → x.state ≠ 0 → x.state ≠ 4 → x.onDie = true → (v - x.sqPi).toNat < 2 ^ 31 → 2 ^ x.sqLog.toNat < (v - x.sqCi).toNat →
      x.opens = [] → x.rx = none → x.early = [] → x.sqPi = x.sqCi → x.rqPi = x.rqCi → (∀ i, (s.shard i).remote = true → (s.shard i).qpn ≠ n) →
      (∀ e ∈ s.sluice.qps, ∀ z h, e.2 = some z → z.held = some h → h.1 ≠ n) →
      ∃ t y, exec (.sqPi q st) s = .next t ∧ t.qp n = some y ∧ y.state = 4 ∧ y.err = 0x0A ∧ y.sqPi = x.sqPi)

/-- R359 to R363, R372, R374: the work request at SQ_CI starts: SQ_CI and the PSN move, its message opens in its local region, a NOP that
asks for no entry completes at once, and a WAIT completes or holds its queue pair until its counter is there. R372, R363, R392: a held
WAIT whose counter has reached THRESH lets its queue go on; the send engine sends the next packet of the oldest work request that has
one and that no WAIT stands before, and notes its PSN as unacknowledged. -/
def Obligations.SluiceWorkRequestsAndPackets : Prop :=
  (∀ (s t : State) (qn : BitVec 20) (x : QueuePair) (w : WorkReq),
     let q := qn.toNat
     let y : QueuePair := { wrOpened x w with used := t.sluice.clock + 1 }
     let opened : State := touchQp q (t.setQp q (wrOpened x w))
     let near : Prop := (t.region (keyIndex w.lkey)).onDie = true
     let open_ (op : BitVec 8) (right : Nat) (i : Instr) : Prop := w.op = op →
       (w.len = 0 → exec i s = sluiceDone q opened) ∧
       (w.len ≠ 0 → near → regionOk t x.polder w.lkey w.laddr.toNat w.len.toNat right false = true →
         exec i s = sluiceDone q (openMessage (keyIndex w.lkey) q x.nextPsn.toNat true opened))
     WrFront q x w s t →
     open_ 1 0 (.write qn) ∧ open_ 2 1 (.read qn) ∧ open_ 3 0 (.send qn) ∧ open_ 4 1 (.atomicFadd qn) ∧ open_ 5 1 (.atomicCswap qn) ∧
     (w.op = 6 → exec (.flush qn) s = sluiceDone q opened) ∧
     (w.op = 0 → w.sig = false → x.opens = [] →
       exec (.nop qn) s = sluiceDone q (opened.setQp q { y with opens := [], scnt := x.scnt + 1 })) ∧
     (w.op = 7 → hasChain s.variant = true → t.variant = s.variant → w.sig = false → x.opens = [] →
       let m := (fld w.laddr 0 20).toNat
       ∀ z, t.qp m = some z → m ≠ q → z.polder = x.polder → z.state ≠ 0 → z.state ≠ 4 →
         let count := if bit w.laddr 20 then z.rcnt else z.scnt
         ((count - w.lkey).toNat < 2 ^ 31 → exec (.wait qn) s = sluiceDone q (opened.setQp q { y with opens := [], scnt := x.scnt + 1 })) ∧
         (2 ^ 31 ≤ (count - w.lkey).toNat →
           exec (.wait qn) s = sluiceDone q (opened.setQp q { y with held := some (m, bit w.laddr 20, w.lkey) })))) ∧
  (∀ (s : State) (qn : BitVec 20) (x : QueuePair), s.qp qn.toNat = some x →
     let q := qn.toNat
     (∀ (o : OpenWr), x.opens = [o] → o.wr.op = 7 → o.wr.sig = false → o.done = none → o.levee = none → x.onDie = true → waitReached s x = true →
       exec (.waitSatisfied qn) s =
         sluiceDone q ((touchQp q s).setQp q { x with held := none, opens := [], scnt := x.scnt + 1, used := s.sluice.clock + 1 })) ∧
     (waitReached s x = false → exec (.waitSatisfied qn) s = sluiceDone q s) ∧
     (sluiceUp s = true → x.state = 3 → x.backoff = none → x.unacked.length < 4096 →
       ∀ i o, sendNext x = some i → x.opens[i]? = some o →
         (∀ typ f u, buildPacket q x o o.sent s = .ok (.ok (typ, f)) u → u.qp q = some x →
           ∃ t y, exec (.packetTransmit qn) s = .next t ∧ sentLast t typ q f.psn ∧ t.qp q = some y ∧ y.unacked = x.unacked ++ [f.psn] ∧
             (y.opens[i]?).map (·.sent) = some (o.sent + 1)) ∧
         (o.wr.op = 2 → ∃ t, exec (.packetTransmit qn) s = .next t ∧ sentLast t tyReadReq q (o.psn + BitVec.ofNat 24 o.sent)) ∧
         (o.wr.op = 6 → ∃ t, exec (.packetTransmit qn) s = .next t ∧ sentLast t tyFlushReq q (o.psn + BitVec.ofNat 24 o.sent))))

/-- R389: a packet that fails its check, names another endpoint or no queue pair of its sender, or carries a reserved TYPE, version or bit
is counted in SL_RXDROP and does nothing else; a sluice that is not up ignores packets. -/
def Obligations.SluicePacketsAreChecked : Prop :=
  ∀ (s : State) (f : Frame),
    ∀ r ∈ [(tyWrite, Instr.writePacket f), (tySend, .sendPacket f), (tyReadReq, .readReq f), (tyReadResp, .readResp f),
        (tyAtomicReq, .atomicReq f), (tyAtomicResp, .atomicResp f), (tyFlushReq, .flushReq f), (tyFlushResp, .flushResp f), (tyAck, .ack f),
        (tyNak, .nak f), (tyEcho, .echo f)],
      (sluiceUp s = false → exec r.2 s = .next s) ∧
      (sluiceUp s = true →
        (f.icrc ≠ icrcOf r.1 f ∨ (reservedType f).isSome = true ∨ f.ver ≠ 1 ∨ f.rsv0 ≠ 0 ∨ f.rsv1 ≠ 0 ∨ f.rsv2 ≠ 0 ∨ f.rsv3 ≠ 0 ∨ f.deid ≠ s.sluice.endpoint ∨
          (∀ x, s.qp f.dqpn.toNat = some x → f.seid ≠ x.peer ∨ f.dport ≠ s.sluice.udpport)) →
        exec r.2 s = .next { s with sluice := { s.sluice with rxdrop := satInc s.sluice.rxdrop } })

/-- R382, R385, R390 to R392, R395, R399: the next request of a queue pair is admitted: its data is placed or its answer sent, and the
expected PSN and the message count move. (Of 16 admitted packets with no ACK the last brings one after its own answer, R392.) R385,
R394, R395, R397, R400: acknowledgements and responses free what they answer, and a work request whose work has ended completes in
order; an RNR NAK begins a back-off of BACKOFF microseconds, and shows ePSN as every packet that names it does; every ACKX, and an ECHO, adds its count of CE marks. -/
def Obligations.SluiceRequestsAndAnswers : Prop :=
  (∀ (s : State) (f : Frame) (q : Nat) (x : QueuePair),
     let s1 (typ : BitVec 8) : State := served typ f q s
     let x1 : QueuePair := { x with used := s.sluice.clock + 1 }
     let region (t : State) : Region := t.region (keyIndex f.rkey)
     let ends (i : Instr) (n : Nat) (more : State → QueuePair → Prop) : Prop :=
       ∃ t y, exec i s = .next t ∧ t.qp q = some y ∧ y.epsn = x.epsn + BitVec.ofNat 24 n ∧ y.msn = x.msn + 1 ∧ y.rx = none ∧ more t y
     (NextRequest tyWrite f q x s → f.first = true → f.last = true → f.notify = false → f.payload.length = f.len.toNat →
       f.len.toNat ≤ x.mtuBytes → f.len ≠ 0 → regionOk s x.polder f.rkey f.raddr.toNat f.len.toNat 3 false = true →
       let m : RxMsg := ⟨tyWrite, f.psn, f.rkey, f.raddr, f.len, false, 0, 0, 0, 0, 0, 0, false⟩
       let s2 := (openMessage (keyIndex f.rkey) q f.psn.toNat false (s1 tyWrite)).setQp q { x1 with rx := some m }
       ∀ u, regionWrite (.sluice q) (region s2) f.raddr.toNat f.payload s2 = .ok 0 u → u.qp q = some { x1 with rx := some m } →
         ends (.writePacket f) 1 fun t _ => t.mem = u.mem ∧ sentLast t tyAck q (x.epsn + 1)) ∧
     (NextRequest tyReadReq f q x s → x.sinceAck < 15 → (f.len = 0 ∨ regionOk s x.polder f.rkey f.raddr.toNat f.len.toNat 2 false = true) →
       ∀ bs u, regionRead (.sluice q) (region (s1 tyReadReq)) f.raddr.toNat f.len.toNat (s1 tyReadReq) = .ok (0, bs) u →
         u.qp q = some x1 → bs.length = f.len.toNat →
         ends (.readReq f) (packetsOf x.mtuBytes f.len.toNat) fun t _ => t.mem = u.mem ∧
           sentLast t tyReadResp q (f.psn + BitVec.ofNat 24 (packetsOf x.mtuBytes f.len.toNat - 1))) ∧
     (NextRequest tyAtomicReq f q x s → x.sinceAck < 15 → f.raddr.toNat % 8 = 0 → regionOk s x.polder f.rkey f.raddr.toNat 8 4 false = true →
       ∀ old u, performAtomic q (region (s1 tyAtomicReq)) f (s1 tyAtomicReq) = .ok (0, old) u → u.qp q = some x1 →
         ends (.atomicReq f) 1 fun t y => t.mem = u.mem ∧ sentLast t tyAtomicResp q f.psn ∧ y.atomics.head? = some (f.psn, old)) ∧
     (NextRequest tyFlushReq f q x s → x.sinceAck < 15 → ends (.flushReq f) 1 fun t _ => t.mem = s.mem ∧ sentLast t tyFlushResp q f.psn) ∧
     (NextRequest tySend f q x s → f.first = true → f.last = true → f.payload = [] → x.rqPi ≠ x.rqCi →
       ∀ bs t1, ringRead q x1 x.rqKey x.rqAddr x.rqLog x.rqCi 32 (s1 tySend) = .ok (.ok bs) t1 → t1.qp q = some x1 →
         let w (i : Nat) : Word := BitVec.ofNat 64 (fromLe ((bs.drop (8 * i)).take 8))
         w 3 = 0 → (fld (w 2) 32 32).toNat ≤ 2 ^ 30 →
         let y : QueuePair :=
           { x1 with rqCi := x.rqCi + 1, epsn := x.epsn + 1, sinceAck := x.sinceAck + 1, owed := true, msn := x.msn + 1 }
         let t2 := closeMessage (keyIndex (fld (w 2) 0 32)) q (f.psn.toNat + 2 ^ 24) true (t1.setQp q y)
         ∀ u, putCqe q (w 0) 0 3 true 0 f.imm t2 = .ok 0 u → u.qp q = some { y with cqPi := x.cqPi + 1, arm := false } →
           ends (.sendPacket f) 1 fun t z => t.mem = u.mem ∧ z.rcnt = x.rcnt + 1 ∧ sentLast t tyAck q (x.epsn + 1))) ∧
  (∀ (s : State) (f : Frame) (q : Nat) (x : QueuePair) (o : OpenWr),
     let ends (i : Instr) (more : State → QueuePair → Prop) : Prop := ∃ t y, exec i s = .next t ∧ t.qp q = some y ∧ more t y
     let done (i : Instr) : Prop := ends i fun _ y => y.opens = [] ∧ y.unacked = [] ∧ y.scnt = x.scnt + 1
     let one : Prop := x.opens = [o] ∧ o.wr.sig = false ∧ o.done = none ∧ o.levee = none ∧ o.sent = 1 ∧ o.got = 0 ∧ x.unacked = [o.psn]
     let s1 (typ : BitVec 8) : State := touchQp q (countCecnt q typ f (countRx typ f s))
     let x1 : QueuePair := { x with winM := x.winM + f.cecnt.toNat, used := s.sluice.clock + 1 }
     let until_ : Word := s.ltime + BitVec.ofNat 64 (100 * f.backoff.toNat)
     (Arrives tyAck f q x s → one → (o.wr.op = 1 ∨ o.wr.op = 3) → o.wr.len.toNat ≤ x.mtuBytes → o.npsn = 1 → f.psn = o.psn + 1 → done (.ack f)) ∧
     (Arrives tyReadResp f q x s → one → o.wr.op = 2 → o.npsn = 1 → f.psn = o.psn → o.wr.len.toNat ≤ x.mtuBytes →
       f.payload.length = o.wr.len.toNat → f.last = true →
       ∀ u, placeLocal q x1 o.wr 0 f.payload (s1 tyReadResp) = .ok 0 u → u.qp q = some x1 → done (.readResp f)) ∧
     (Arrives tyAtomicResp f q x s → one → (o.wr.op = 4 ∨ o.wr.op = 5) → o.npsn = 1 → f.psn = o.psn →
       ∀ u, placeLocal q x1 o.wr 0 (f.payload.take 8) (s1 tyAtomicResp) = .ok 0 u → u.qp q = some x1 → done (.atomicResp f)) ∧
     (Arrives tyFlushResp f q x s → one → o.wr.op = 6 → o.npsn = 1 → f.psn = o.psn → done (.flushResp f)) ∧
     (Arrives tyNak f q x s → f.code = 1 → f.psn ≠ x.rnrPsn → x.rnrretry ≠ 0 →
       ends (.nak f) fun _ y => y = showEpsn f.psn s.ltime { x1 with backoff := some (f.psn, until_), rnrPsn := f.psn, rnrCount := 1 }) ∧
     (Arrives tyNak f q x s → f.code = 4 → ends (.nak f) fun _ y => y = { x1 with backoff := some (f.psn, until_) }) ∧
     (Arrives tyEcho f q x s → x.onDie = true → ends (.echo f) fun _ y => y = { x with winM := x.winM + f.cecnt.toNat }))

/-- R392, R396, R397, R400, R403, R405: the sluice's timers: an acknowledgement is sent in time, unacknowledged packets are sent again, a
back-off ends, the rate follows its windows, a context comes onto the die, and a revoked region is cut free. -/
def Obligations.SluiceTimers : Prop :=
  ∀ (s : State) (qn : BitVec 20) (idx : BitVec 18) (x : QueuePair), s.qp qn.toNat = some x →
    let q := qn.toNat
    let ends (i : Instr) (more : State → QueuePair → Prop) : Prop := ∃ t y, exec i s = .next t ∧ t.qp q = some y ∧ more t y
    let read (o : OpenWr) (p : BitVec 24) : Prop :=
      x.opens = [o] ∧ o.wr.op = 2 ∧ o.psn = p ∧ 0 < o.npsn ∧ x.unacked = [p]
    (sluiceUp s = true →
      (x.owed = true → ends (.ackTimer qn) fun t y => sentLast t tyAck q x.epsn ∧
        y = { x with ce := 0, sinceAck := 0, owed := false, used := s.sluice.clock + 1 }) ∧
      (x.ce ≠ 0 → ends (.echoTimer qn) fun t y => sentLast t tyEcho q x.epsn ∧
        y = { x with ce := 0, used := s.sluice.clock + 1 }) ∧
      (∀ o p, read o p → x.backoff = none → x.timeouts + 1 ≤ x.retry.toNat →
        ends (.retransmitTimeout qn) fun t y => sentLast t tyReadReq q p ∧ y.timeouts = x.timeouts + 1 ∧ y.unacked = [p] ∧
          t.sluice.retx = satInc s.sluice.retx ∧ s.ltime.toNat ≤ t.ltime.toNat ∧ y.rtoStart = t.ltime) ∧
      (∀ o p due, read o p → x.backoff = some (p, due) →
        ends (.rnrBackoff qn) fun t y => sentLast t tyReadReq q p ∧ y.backoff = none ∧ due.toNat ≤ t.ltime.toNat) ∧
      (s.power.inQuiet = false → x.onDie = false → x.parked = [] →
        exec (.contextFetchDone qn true) s = sluiceDone q (bringQp q s) ∧
        (qpCount s (·.onDie) < 16384 → ends (.contextFetchDone qn true) fun _ y => y.onDie = true))) ∧
    (let m := x.winM
     let a := max x.winA 1
     exec (.rateWindow qn) s = .next (if x.unacked = [] then s.setQp q x else s.setQp q
      { x with
        winM := 0, winA := 0
        rung := if 0 < m then min (x.rung + max 1 ((8 * m + a - 1) / a)) 40
          else if 0 < x.winA ∧ x.cleanWin + 1 = 4 then x.rung - 1 else x.rung
        cleanWin := if 0 < m then 0 else if 0 < x.winA then (if x.cleanWin + 1 = 4 then 0 else x.cleanWin + 1) else x.cleanWin })) ∧
    (x.unacked = [] → exec (.rateIdleReset qn) s = .next (s.setQp q { x with rung := 0, cleanWin := 0 })) ∧
    (let r := s.region idx.toNat
     let found (m : Nat × Nat × Bool) : Option (QueuePair × RxMsg) :=
       (s.qp m.1).bind fun x => ((x.rx.toList ++ x.early).find? fun r => r.psn.toNat = m.2.1 && r.typ = tyWrite).map fun r => (x, r)
     r.state = .revoking → (∀ m ∈ r.open_, m.2.2 = false ∧ ∀ e, found m = some e → e.2.notify = false) →
      ∃ t, exec (.revokeCut idx) s = .next t ∧ (t.region idx.toNat).state = .free ∧
        t.sluice.revdrop = satAdd s.sluice.revdrop (r.open_.foldl (fun n m =>
          n + match found m with | some e => notHere e.1 e.2 (packetsOf e.1.mtuBytes e.2.len.toNat) | none => 0) 0))

/-- R412, R413, R415, R416, R433: stores to a step page and the timer: a trigger on an idle shard begins to arm it, takes the next sequence
number and keeps its STEP; on any other state it is counted as skipped; a store of another polder is dropped and counted. R415, R418,
R420 to R422, R430: the stages of a checkpoint and a restore: the arm marks every granule of the shard as unsaved and notes TA; the
resume begins the copy; a copy saves one granule; the commit writes its record and ends; a restore reads its records first. That leveeTimer
moves LTIME, that arm steps 2 to 4 are one step, the unit message to the pumphouse, and the count of failed restore reads are the model's
(log entries 9, 87, 117, 138). -/
def Obligations.LeveeTriggersAndStages : Prop :=
  (∀ (s : State) (i : Fin 16) (w : Writer) (st : DevStore) (v : Word), leveeUp s = true → writerShut w s = false →
     let x := s.shard i
     let right : Prop := st.trusted = true ∨ st.tag = x.polder
     let fires : Prop := x.steps ≠ 0 ∧ st.value.toNat % x.steps.toNat = 0 ∧ st.value ≠ x.lstep
     let due : Word := x.tmrStart + x.tmr.setWidth 64 * 100000
     let now : Word := if s.ltime.toNat < due.toNat then due else s.ltime
     (st.size ≠ 8 → right → exec (.step i w st) s = .next s) ∧
     (¬ right → exec (.step i w st) s = .next { s with levee := { s.levee with tagdrop := satInc s.levee.tagdrop } }) ∧
     (st.size = 8 → right → ¬ fires → exec (.step i w st) s = .next (s.setShard i { x with step := st.value })) ∧
     (st.size = 8 → right → fires → x.state ≠ .idle →
       exec (.step i w st) s = .next (s.setShard i { x with step := st.value, skip := satInc x.skip })) ∧
     (st.size = 8 → right → fires → x.state = .idle → x.cores = 0 →
       let u := setEvent 6 (s.setShard i { x with
         step := st.value, state := .arming, seq := x.seq + 1, trig := 1, lstep := st.value, tmrStart := s.ltime, stepCore := coreOf w })
       (coreOf w = none → exec (.step i w st) s = .next u) ∧
       ∀ c, w = .core c → exec (.step i w st) s = .next (u.modCore c fun k => { k with stepOut := k.stepOut ++ [i] })) ∧
     exec (.leveeTmrWrite w i v) s = .next (s.setShard i { x with tmr := fld v 0 32, tmrStart := s.ltime }) ∧
     (x.tmr = 0 → exec (.leveeTimer i) s = .next s) ∧
     (x.state = .idle → x.tmr ≠ 0 → x.cores = 0 →
       exec (.leveeTimer i) s = .next (setEvent 6 ({ s with ltime := now }.setShard i { x with
         state := .arming, seq := x.seq + 1, trig := 0, lstep := x.step, tmrStart := now }))) ∧
     (x.state ≠ .idle → x.tmr ≠ 0 →
       exec (.leveeTimer i) s = .next ({ s with ltime := now }.setShard i { x with skip := satInc x.skip, tmrStart := now }))) ∧
  (∀ (s : State) (i : Fin 16), leveeUp s = true →
     let x := s.shard i
     let ends (j : Instr) (f : State → Prop) : Prop := ∃ t, exec j s = .next t ∧ f t
     (x.state = .arming → x.armed = false → coresPaused s x = true →
       ends (.armPoint i) fun t => (∃ l, t.shard i = { x with armed := true, ta := s.ltime, toDown := l } ∧
           ∀ n, n ∈ l ↔ inShard s x n = true ∧ lineBusy s n = true) ∧ (∀ a ∈ shardGranules s x, t.unsaved a = true) ∧
         (∀ a, s.unsaved a = true → t.unsaved a = true) ∧ t.mem = s.mem) ∧
     (x.state = .arming → x.armed = true → x.toDown = [] → x.stepFar = none → (∀ t ∈ s.th.txns, t.unit ≠ .levee i) →
       ends (.armResume i) fun t =>
         t.shard i = { x with state := .copying, armed := false, crc := 0, copied := 0, phase := 0 } ∧
         ∀ c : CoreId, i ∉ (t.core c).stepOut ∧
           (x.cores.getLsbD c.val = true → (∀ j, j ≠ i → (s.shard j).state = .arming → (s.shard j).cores.getLsbD c.val = false) →
             (t.core c).armPaused = false ∧ (t.core c).armPausing = false)) ∧
     (x.state = .copying → x.phase = 1 → x.remote = false → ∀ prio a, nextGranule s x = some (prio, a) →
       let idx := ((shardGranules s x).findIdx? (· = a)).getD 0
       let n := (shardGranules s x).length
       ∀ bs t1 u, agentRead (.levee i) x.polder false a 0x40000 s = .ok (0, bs) t1 → t1.shard i = x →
         agentWrite (.levee i) x.polder false (x.slot x.next + (0x1000 + idx * 0x40000)) bs t1 = .ok 0 u →
         let v := releaseGran (granOf a) u
         v.shard i = x → v.th.queued = [] →
         ends (.granuleCopy i) fun t => (t.shard i).copied = x.copied + 1 ∧ (t.shard i).crc = x.crc ^^^ crcPart idx n bs ∧
           (t.shard i).state = (if n ≤ x.copied + 1 then .committing else .copying) ∧ t.mem = v.mem) ∧
     (x.state = .committing → x.remote = false → ∀ u, agentWrite (.levee i) x.polder false (x.slot x.next) (recordBytes s x) s = .ok 0 u →
       u.shard i = x → u.th.queued = [] →
       ends (.commitRecord i) fun t => t.mem = u.mem ∧
         t.shard i = { x with state := .idle, last := 0, next := !x.next, cstep := x.lstep, phase := 0 }) ∧
     (∀ b, s.background 0x53 i.val = some b → x.state = .restoring → x.recs = [] → x.remote = false →
       ∀ bs u, agentRead (.levee i) x.polder false (x.slot false) 64 s = .ok (0, bs) u → u.shard i = x → u.th.queued = [] →
       ends (.restoreCopy i) fun t => t.mem = u.mem ∧
         t.shard i = { x with rfails := if x.rfails = 1 then 0 else x.rfails, recs := [(List.range 8).map fun k => BitVec.ofNat 64 (fromLe ((bs.drop (8 * k)).take 8))] }))

/-- R422 to R424: the commit record that the levee writes has 64 bytes, holds its fields where the table puts them, is valid for its shard,
and ends in the CRC of what comes before. R423: the parts that the granules add to the running CRC, put together by exclusive or, are
the CRC of the slot's bytes in slot order. -/
def Obligations.CommitRecordAndSlotCrc : Prop :=
  (∀ (s : State) (x : Shard),
     let bs := recordBytes s x
     let w (i : Nat) : Word := BitVec.ofNat 64 (fromLe ((bs.drop (8 * i)).take 8))
     bs.length = 64 ∧ fld (w 0) 0 32 = 0x4C564545 ∧ fld (w 0) 32 8 = 1 ∧ bit (w 0) 40 = true ∧ bit (w 0) 41 = x.next ∧
     fld (w 0) 42 2 = x.trig ∧ w 1 = x.seq ∧ fld (w 2) 0 32 = fld x.desc[0] 0 32 ∧ fld (w 2) 32 12 = x.polder ∧
     w 3 = BitVec.ofNat 64 (shardGranules s x).length ∧ w 4 = x.lstep ∧ w 5 = x.ta ∧ w 6 = 0 ∧ w 7 = crc64 x.crc (bs.take 56) ∧
     recordValid x ((List.range 8).map w) = true) ∧
  (∀ (gs : List (List Byte)), (∀ g ∈ gs, g.length = 0x40000) →
     (List.range gs.length).foldl (fun c i => c ^^^ crcPart i gs.length (gs.getD i [])) 0 = crc64 0 gs.flatten)

/-- R434, R443, R445, R446: a watchdog, an exhausted link or a missed pause closes the floodgate of the failed unit and records an event; a
memory controller, the router, or the pumphouse or the cofferdam themselves stop the die (R22, R453); a wing cache, in its turn, keeps one way
that passes its test, or stops the die; a fenced unit's requests are counted and go nowhere. That a fence waits for its turn, that the
reduced wing's floodgate opens again, and that a failed spare room is free no longer are the model's choices (log entries 84, 90). -/
def Obligations.FaultyUnitsAreFenced : Prop :=
  ∀ (s : State) (c : CoreId) (port : BitVec 8) (n : BitVec 32) (levee : Bool), s.coff.dieStop = false → s.porch.direct = none →
    let p := port.toNat
    let ends (i : Instr) (f : State → Prop) : Prop := ∃ t, exec i s = .next t ∧ f t
    let event (kind : BitVec 8) (p : Nat) (t : State) : Prop :=
      ∃ e, t.coff.events = s.coff.events ++ [e] ∧ e.kind = kind ∧ e.sev = 2 ∧ e.port = BitVec.ofNat 8 p
    let both (f : BitVec 8 → State → Prop) : Prop :=
      ends (.fabricWatchdog port) (f 0x09) ∧ ends (.fabricReplayExhausted port) (f 0x0B)
    (s.coff.sramErr = some .uncorrectable → (s.gate p).open_ = true → (p < 0x22 ∨ p = 0x40 ∨ p = 0x41) → both fun _ t => t.coff.dieStop = true) ∧
    (p = 0xFF → both fun _ t => t.coff.dieStop = true ∧ t.side.faultLow = true) ∧
    (s.coff.events.length < 256 → s.coff.sramErr = none →
    ((s.core c).pausing = true ∨ (s.core c).armPausing = true →
      ends (.pauseWatchdog c) fun t => (t.gate (s.corePort c)).open_ = false ∧ (t.core c).pausing = false ∧ (t.core c).armPausing = false ∧
        event 0x09 (s.corePort c) t) ∧
    ((s.core c).pausing = false → (s.core c).armPausing = false → exec (.pauseWatchdog c) s = .next s) ∧
    ((s.gate p).open_ = false → p ≠ 0xFF →
      let spare : Prop := (p = 32 ∨ p = 33) ∧ s.coff.spareFree.getLsbD (p - 32) = true
      (¬ spare → exec (.fabricWatchdog port) s = .next s ∧ exec (.fabricReplayExhausted port) s = .next s) ∧
      (spare → both fun _ t => t.coff.spareFree.getLsbD (p - 32) = false)) ∧
    ((s.gate p).open_ = true →
      ((p < 0x22 ∨ p = 0x40 ∨ p = 0x41) → both fun kind t => (t.gate p).open_ = false ∧ event kind p t) ∧
      ((0x38 ≤ p ∧ p < 0x40) → both fun _ t => (t.gate p).open_ = false) ∧
      ((0x30 ≤ p ∧ p < 0x34 ∨ p = 0x42) → both fun _ t => t.coff.dieStop = true ∧ t.side.faultLow = true) ∧
      (∀ w : Fin 4, p = 0x28 + w.val → nextRecovery s = none →
        (∀ keep, goodWay s.wings[w.val] = some keep → both fun _ t =>
          (mget Gate.closed t.coff.gates p).open_ = true ∧ ∀ i < 16, i ≠ keep → wayOff t.wings[w.val] i = true) ∧
        (goodWay s.wings[w.val] = none → both fun _ t => t.coff.dieStop = true))) ∧
    ((s.gate p).open_ = false → p < 0x43 → n ≠ 0 →
      ends (.lateSpeaker port n) fun t => (t.gate p).drop = satAdd (s.gate p).drop n.toNat) ∧
    ((s.gate p).open_ = true → exec (.lateSpeaker port n) s = .next s) ∧
    (turnOf (fenceEvent 0x41) s = true → s.th.queued = [] → ends (.unitFence true) fun t =>
      t.coff.leveeFenced = true ∧ (t.gate 0x41).open_ = false ∧ ∀ i, (t.shard i).busy = false) ∧
    (turnOf (fenceEvent 0x40) s = true → ends (.unitFence false) fun t =>
      t.coff.sluiceFenced = true ∧ (t.gate 0x40).open_ = false ∧ ∀ q x, t.qp q = some x → x.state = 4) ∧
    (turnOf (fenceEvent 0x41) s = false → exec (.unitFence true) s = .next s) ∧ (turnOf (fenceEvent 0x40) s = false → exec (.unitFence false) s = .next s))

/-- R174, R175, R447 to R451: recovery: a logical core moves to a spare room or goes offline, a failed lane is replaced by the spare lane, a
way is disabled, a row is repaired with no data changed, or reported to the host where its bank has no spare row. Each waits for its turn
in the event queue (R452). That the rows wait for their turn, what the report of such a row says, and that a mapped lane begins the
count of mismatches afresh are the model's choices (log entries 24, 84, 115). -/
def Obligations.FailedPartsAreSpared : Prop :=
  ∀ (s : State) (c : CoreId) (w : Fin 4) (way : Fin 16) (m : Fin 4) (req : Word) (lines : List (BitVec 30)) (failed : BitVec 34) (l : Fin 34),
    s.coff.dieStop = false →
    let ends (i : Instr) (f : State → Prop) : Prop := ∃ t, exec i s = .next t ∧ f t
    (s.present c = true → s.offline c = false →
      (nextMove s c = false → exec (.spareRoomMove c) s = .next s) ∧
      (nextMove s c = true →
        (∀ p, freeSpare s = some p → (s.phys c).toNat ≠ p → ends (.spareRoomMove c) fun t =>
          t.phys c = BitVec.ofNat 6 p ∧ t.offline c = false ∧ (t.gate (s.phys c).toNat).open_ = false ∧
            t.coff.spareFree.getLsbD (p - 32) = false ∧ (t.core c).g = Core.reset.g) ∧
        (freeSpare s = none → ends (.spareRoomMove c) fun t => t.offline c = true ∧ (t.gate (s.phys c).toNat).open_ = false)) ∧
      ∀ (h : (s.phys c).toNat < 34),
        let r := s.rooms[(s.phys c).toNat]'h
        ((s.core c).mxStopped = false → exec (.laneTest c failed) s = .next s) ∧
        ((s.core c).mxStopped = true → (s.gate (s.corePort c)).open_ = true →
          turnOf (fun e => laneEvent s e && e.port.toNat = s.corePort c) s = true → failed.getLsbD 33 = false → r.spareBad = false →
          (failedLanes r failed = [l] → r.laneMap = none → ends (.laneTest c failed) fun t =>
            (t.core c).mxStopped = false ∧ (t.core c).mxThird = false ∧ (t.rooms[(s.phys c).toNat]'h).laneMap = some l) ∧
          (failedLanes r failed = [] → ends (.laneTest c failed) fun t =>
            (t.core c).mxStopped = false ∧ (t.core c).mxThird = true ∧ (t.rooms[(s.phys c).toNat]'h).laneMap = r.laneMap) ∧
          ((2 ≤ (failedLanes r failed).length ∨ (failedLanes r failed = [l] ∧ r.laneMap.isSome = true)) → ends (.laneTest c failed) fun t =>
            (t.gate (s.phys c).toNat).open_ = false ∧ (t.rooms[(s.phys c).toNat]'h).engineFailed = true))) ∧
    (w.val < nWings s.variant → wayDue s w way.val = true → turnOf (fun e => wayEvent s e && wingOfPort e.port.toNat = some w) s = true →
      (∀ e ∈ s.coff.events, reduceEvent e = false) →
      ends (.wayDisable w way) fun t => t.wings[w.val].waydis = s.wings[w.val].waydis ||| (1 : BitVec 16) <<< way.val) ∧
    (wayDue s w way.val = false → exec (.wayDisable w way) s = .next s) ∧
    (m.val < nStacks s.variant → rowDue m lines s = true → turnOf (rowOf s m lines) s = true →
      ends (.rowRepair m req lines) fun t =>
        (s.mem.noSpare.contains (m.val, req) = true → t.mem.hardRows = s.mem.hardRows ∧
          (s.coff.events = [] → s.coff.sramErr = none → s.rfull = false → s.porch.waiting = [] → t.porch.rplPi = s.porch.rplPi + 1)) ∧
        (s.mem.noSpare.contains (m.val, req) = false → (m.val, req) ∈ t.mem.hardRows) ∧
        (s.coff.events = [] → s.th.queued = [] → bit s.porch.mirror 0 = false → (∀ l ∈ lines, outerCode (s.errsOf (stackLine s m l)) ≠ .unclaimed) →
          t.mem.bytes = s.mem.bytes)) ∧
    (rowDue m lines s = false → exec (.rowRepair m req lines) s = .next s)

/-- R463, with R458, R459 and R462: ALU and pointer triggers, beside any move into an operand port: result, flags and the next word. A pointer
takes bits [7:0] of its value, sign-extended: the model's reading (log entry 116). -/
def Obligations.PumphouseAlu : Prop :=
  ∀ (s : State) (m : PhMove) (n : Fin 8),
    let runs (port : BitVec 8) (i : Instr) (f : BitVec 16 → Pump → Pump) : Prop :=
      ∀ v, PhWord (phWord port m) port.toNat v s → exec i s = phGoes 1 (phWord port m) (f v (phBefore (phWord port m) s)) s
    let alu (port : BitVec 8) (i : Instr) (r : Byte → Byte → Byte) (c o : Byte → Byte → Bool) : Prop :=
      runs port i fun v q =>
        let x := r q.aluA (fld v 0 8)
        { q with aluR := if port = 0x17 then q.aluR else x, flags := phFlags x (c q.aluA (fld v 0 8)) (o q.aluA (fld v 0 8)) }
    let ci : Nat := (bit s.pump.flags 1).toNat
    let no : Byte → Byte → Bool := fun _ _ => false
    let borrow (k : Nat) : Byte → Byte → Bool := fun a b => decide (a.toNat < b.toNat + k)
    let sum (k : Nat) : Byte → Byte → Byte := fun a b => a + b + BitVec.ofNat 8 k
    let dif (k : Nat) : Byte → Byte → Byte := fun a b => a - b - BitVec.ofNat 8 k
    let ovfl (k : Int) (sign : Int) (r : Byte → Byte → Byte) : Byte → Byte → Bool :=
      fun a b => decide (a.toInt + sign * (b.toInt + k) ≠ (r a b).toInt)
    alu 0x10 (.aluAddT m) (sum 0) (fun a b => decide (256 ≤ a.toNat + b.toNat)) (ovfl 0 1 (sum 0)) ∧
    alu 0x11 (.aluAdcT m) (sum ci) (fun a b => decide (256 ≤ a.toNat + b.toNat + ci)) (ovfl ci 1 (sum ci)) ∧
    alu 0x12 (.aluSubT m) (dif 0) (borrow 0) (ovfl 0 (-1) (dif 0)) ∧
    alu 0x13 (.aluSbcT m) (dif ci) (borrow ci) (ovfl ci (-1) (dif ci)) ∧
    alu 0x14 (.aluAndT m) (· &&& ·) no no ∧ alu 0x15 (.aluOrT m) (· ||| ·) no no ∧ alu 0x16 (.aluXorT m) (· ^^^ ·) no no ∧
    alu 0x17 (.aluCmpT m) (dif 0) (borrow 0) (ovfl 0 (-1) (dif 0)) ∧
    alu 0x18 (.aluShlT m) (fun _ b => b + b) (fun _ b => bit b 7) no ∧
    alu 0x19 (.aluShrT m) (fun _ b => BitVec.ofNat 8 (b.toNat / 2)) (fun _ b => bit b 0) no ∧
    alu 0x1A (.aluSarT m) (fun _ b => BitVec.ofInt 8 (b.toInt / 2)) (fun _ b => bit b 0) no ∧
    alu 0x1B (.aluMovT m) (fun _ b => b) (fun _ _ => bit s.pump.flags 1) (fun _ _ => bit s.pump.flags 3) ∧
    runs (0x38 + BitVec.ofNat 8 n.val) (.ptrAddT n m) fun v q => { q with ptrs := q.ptrs.set n.val (q.ptrs[n.val] + (fld v 0 8 : Byte).signExtend 16) n.isLt }

/-- R457, R464 to R468: loads, stores, the two stacks and branches of the pumphouse, the halts that they bring about, and the correction of
single-bit errors (R434: an event each). R470 to R472: a byte of the hatch comes from the snapshot or a new one; stores fill the staging register, and byte 7
writes it. -/
def Obligations.PumphouseMemoryBranchesAndHatch : Prop :=
  (∀ (s : State) (m : PhMove) (second : Bool) (dst : BitVec 8) (rest : BitVec 16),
     let p := s.pump
     let b := phBefore
     let halts (cause : BitVec 4) (port : BitVec 8) : Host.Outcome State Fault Refusal := phStops cause (phWord port m) s
     let runs (port : BitVec 8) (i : Instr) (f : BitVec 16 → Pump → (Nat → Pump → Prop) → Host.Outcome State Fault Refusal → Prop) : Prop :=
       let w := phWord port m
       ∀ v, PhWord w port.toNat v s → f v (b w s) (fun n q => exec i s = phGoes n w q s) (exec i s)
     let load (port : BitVec 8) (i : Instr) : Prop := runs port i fun v q _ o =>
       let a := lsuAddr p port.toNat v
       let t := sramRead a 1 { phRead (phWord port m) s with pump := q }
       ((a < 0xE000 ∨ 0xF000 ≤ a) → p.badSram.contains a = false →
         o = .next { t with pump := tickLoads 1 { t.pump with loads := q.loads ++ [(2, p.byte a)] } }) ∧
       ((a < 0xE000 ∨ 0xF000 ≤ a) → p.badSram.contains a = true → o = halts 6 port)
     let store (port : BitVec 8) (i : Instr) : Prop := runs port i fun v q next _ =>
       let a := lsuAddr p port.toNat v
       (a < 0xA000 → p.lock = true → next 1 { q with codeErr := satInc p.codeErr }) ∧
       (a < 0xA000 → p.lock = false → next 1 { q.freshCheck a 1 with code := mset 0 p.code a q.lsuD }) ∧
       (0xA000 ≤ a → a < 0xE000 → next 1 { q.freshCheck a 1 with data := mset 0 p.data (a - 0xA000) q.lsuD }) ∧
       (0xF000 ≤ a → next 1 q)
     let branch (port : BitVec 8) (i : Instr) (taken : Bool) : Prop := runs port i fun v q next o =>
       (taken = false → next 1 q) ∧ (taken = true → v.toNat % 4 = 0 → next 2 { q with pc := v }) ∧
       (taken = true → v.toNat % 4 ≠ 0 → o = halts 2 port)
     let z := bit p.flags 0
     let c := bit p.flags 1
     let n := bit p.flags 2
     let o := bit p.flags 3
     load 0x41 (.lsuLdpT m) ∧ load 0x43 (.lsuLdaT m) ∧ store 0x42 (.lsuStpT m) ∧ store 0x44 (.lsuStaT m) ∧
     runs 0x48 (.stkPushT m) (fun v q next o =>
       (inData (q.dsp - 1).toNat = true → next 1 { q.setData (q.dsp - 1).toNat (fld v 0 8) with dsp := q.dsp - 1 }) ∧
       (inData (q.dsp - 1).toNat = false → o = halts 5 0x48)) ∧
     (let w := phWord dst (if second then .bus1 0x39 rest else .bus0 0x39 rest)
       ∀ v, PhWord w dst.toNat v s → (0x39, dst.toNat) ∈ phMoves w → phTriggers dst.toNat = false →
         v = (p.byte p.dsp.toNat).setWidth 16 ∧ ((∀ x ∈ phMoves w, x.2 ≠ 0x49) → (b w s).dsp = p.dsp + 1) ∧
         (ptrClash (phValues w s) = none → exec (.stkPop second dst rest) s = phGoes 1 w (b w s) s) ∧
         ∃ t, exec (.stkPop second dst rest) s = .next t ∧ t.pump.dsp = (b w s).dsp ∧ t.pump.pc = p.pc + 4) ∧
     branch 0x50 (.brJmpT m) true ∧ branch 0x51 (.brZT m) z ∧ branch 0x52 (.brNzT m) (!z) ∧ branch 0x53 (.brCT m) c ∧
     branch 0x54 (.brNcT m) (!c) ∧ branch 0x55 (.brNT m) n ∧ branch 0x56 (.brLtT m) (n != o) ∧ branch 0x57 (.brGeT m) (n == o) ∧
     runs 0x58 (.brCallT m) (fun v q next o =>
       (v.toNat % 4 = 0 → p.rstack.length < 64 → next 2 { q with pc := v, rstack := (p.pc + 4) :: p.rstack }) ∧
       (v.toNat % 4 = 0 → 64 ≤ p.rstack.length → o = halts 3 0x58)) ∧
     runs 0x59 (.brRetT m) fun _ q next o =>
       (∀ a l, p.rstack = a :: l → next 2 { q with pc := a, rstack := l }) ∧ (p.rstack = [] → o = halts 4 0x59)) ∧
  (∀ (s : State) (m : PhMove) (v : BitVec 16) (store : Bool),
     let port : BitVec 8 := if store then 0x44 else 0x43
     let q := phBefore (phWord port m) s
     let off := q.hatchPg.toNat * 4096 + (v.toNat - 0xE000)
     let d := off / 8 * 8
     let k := off % 8
     let next (q : Pump) : Host.Outcome State Fault Refusal := phGoes 1 (phWord port m) q s
     PhWord (phWord port m) port.toNat v s → 0xE000 ≤ v.toNat → v.toNat < 0xF000 →
     (store = false →
       let t := { phRead (phWord port m) s with pump := q }
       let t := match viewAddr d with | some a => sramRead a 8 t | none => t
       let w := ctlRead t d 0 true
       let fresh : Prop := k = 0 ∨ ∀ x, s.pump.snap ≠ some (d, x)
       (∀ x, k ≠ 0 → s.pump.snap = some (d, x) → exec (.lsuLdaT m) s = next { q with loads := q.loads ++ [(2, fld x (8 * k) 8)] }) ∧
       (fresh → (∀ a, viewAddr d = some a → s.pump.spoilt a 8 = true) → (viewAddr d).isSome = true →
         exec (.lsuLdaT m) s = phStops 6 (phWord port m) s) ∧
       (fresh → (∀ a, viewAddr d = some a → s.pump.spoilt a 8 = false) →
         exec (.lsuLdaT m) s = .next { t with pump := tickLoads 1 { t.pump with snap := some (d, w), loads := q.loads ++ [(2, fld w (8 * k) 8)] } })) ∧
     (store = true →
       (k = 0 → exec (.lsuStaT m) s = next { q with stage := some (d, q.lsuD.setWidth 64) }) ∧
       (k ≠ 0 → (∀ x, s.pump.stage ≠ some (d, x)) → exec (.lsuStaT m) s = next { q with hatchErr := satInc s.pump.hatchErr }) ∧
       ∀ x, s.pump.stage = some (d, x) →
         (k ≠ 0 → k ≠ 7 → exec (.lsuStaT m) s = next { q with stage := some (d, setFld x (8 * k) q.lsuD) }) ∧
         (k = 7 → exec (.lsuStaT m) s = outcome (do
           regWrite .hatch d 8 (setFld x 56 q.lsuD) 0 true
           modify fun t => { t with pump := tickLoads (if t.pump.waiting.isSome then 2 else 1) t.pump })
           { phRead (phWord port m) s with pump := { q with stage := none } })))

/-- R474 to R476, R503: event waits, the timer, the heartbeat, the mover and the mailbox. A move that does not fit ends at once with ERR, and the
event of the mover's end comes with it (R474). That timerExpiry moves LTIME is the model's choice (log entry 9). -/
def Obligations.PumphouseEventsAndMover : Prop :=
  ∀ (s : State) (m : PhMove) (by_ : Writer) (v : Word),
    let p := s.pump
    let runs (port : BitVec 8) (i : Instr) (f : BitVec 16 → Pump → State → Host.Outcome State Fault Refusal → Prop) : Prop :=
      let w := phWord port m
      ∀ v, PhWord w port.toNat v s → f v (phBefore w s) (phRead w s) (exec i s)
    let ev (i : Nat) : Byte := p.events ||| (1 : Byte) <<< i
    let len := (fld v 0 13).toNat
    let n := (fld p.mvCtl 0 13).toNat
    let sram := p.mvSram.toNat
    let a := p.mvAddr.toNat
    let fits (n : Nat) : Prop := 1 ≤ n ∧ n ≤ 4096 ∧ ((0xA000 ≤ sram ∧ sram + n ≤ 0xE000) ∨ (sram + n ≤ 0xA000 ∧ p.lock = false))
    let stop : Word := p.mvCtl &&& ~~~(0xC0000 : Word)
    runs 0x68 (.evtWaitT m) (fun v q t o =>
      let mask : Byte := fld v 0 8
      ((mask = 0 ∨ evtPend t &&& mask ≠ 0) → o = .next { t with pump := tickLoads 1 q }) ∧
      (mask ≠ 0 → evtPend t &&& mask = 0 → o = .next { t with pump := tickLoads 2 { q with waiting := some mask } })) ∧
    runs 0x69 (.evtClrT m) (fun v q t o => o = .next { t with pump := tickLoads 1 { q with events := p.events &&& ~~~(fld v 0 8) } }) ∧
    runs 0x6A (.tmrT m) (fun v q t o => o = .next { t with pump := tickLoads 1 { q with
      timer := if v = 0 then none else some (s.ltime + BitVec.ofNat 64 (100 * v.toNat)) } }) ∧
    runs 0x6B (.hbT m) (fun _ q t o => o = .next { t with
      pump := tickLoads 1 q, side := { s.side with beatLow := s.side.beatLow != !s.coff.dieStop } }) ∧
    (∀ mask, p.waiting = some mask →
      (evtPend s &&& mask ≠ 0 → exec .evtWaitResume s = .next { s with pump := { p with waiting := none } }) ∧
      (evtPend s &&& mask = 0 → exec .evtWaitResume s = .next s)) ∧
    (p.waiting = none → exec .evtWaitResume s = .next s) ∧
    (∀ t, p.timer = some t → s.power.rootLock = true ∨ t.toNat ≤ s.ltime.toNat → exec .timerExpiry s = .next { s with
      pump := { p with timer := none, events := ev 2 }, ltime := if s.ltime.ult t then t else s.ltime }) ∧
    (∀ t, p.timer = some t → s.power.rootLock = false → s.ltime.toNat < t.toNat → exec .timerExpiry s = .next s) ∧
    (p.timer = none → exec .timerExpiry s = .next s) ∧
    (writerShut by_ s = false → exec (.phMboxWrite by_ v) s = .next { s with pump := { p with mbox := v, events := ev 3 } }) ∧
    (bit p.mvCtl 18 = true → exec (.moverGo v) s = .next s) ∧
    (bit p.mvCtl 18 = false → bit v 17 = true →
      (fits len → exec (.moverGo v) s = .next { s with pump := { p with mvCtl := (v &&& 0xFFF00031FFF) ||| flag true 18 } }) ∧
      (¬ fits len → exec (.moverGo v) s = .next { s with pump := { p with mvCtl := (v &&& 0xFFF00031FFF) ||| flag true 19, events := ev 4 } })) ∧
    ((bit p.mvCtl 18 = false ∨ s.coff.dieStop = true) → exec .moverDone s = .next s) ∧
    (bit p.mvCtl 18 = true → s.inReset = false → s.coff.dieStop = false → fits n → a / 64 = (a + n - 1) / 64 → QuietLine a s → supplied .pump (a / 64) s = none →
      (bit p.mvCtl 16 = true → (∀ i < n, p.badSram.contains (sram + i) = false) →
        let t := sramRead sram n s
        let u := homeWrite (fld p.mvCtl 32 12) a ((List.range n).map fun i => p.byte (sram + i)) (if n = 64 then t else countRd (a / 64) t)
        exec .moverDone s = .next (clearAnswers .pump { u with pump := { t.pump with mvCtl := stop, events := ev 4 } })) ∧
      (bit p.mvCtl 16 = false → ∃ u, exec .moverDone s = .next u ∧ u.pump.mvCtl = stop ∧ u.pump.events = ev 4 ∧ u.mem.bytes = s.mem.bytes ∧
        ∀ i < n, u.pump.byte (sram + i) = viewByte s (fld p.mvCtl 32 12) (a + i)))

/-- R481, R483, R489, R492, R585: a command posted into an empty ring is served at once; one with a bad flag, reserved field or LENGTH is
FAILED 0xFF01, one that the die does not serve now is BUSY, and neither has any other effect; the identity and status commands reply
with what the registers hold, and change nothing. What QP_QUERY of no queue pair refuses, when POWER_STATUS says that it throttles, and that a
row first posts its packet are the model's readings (log entries 94, 97, 98). -/
def Obligations.PorchServesAndReports : Prop :=
  ∀ (s : State) (p : Packet) (su : StartUp),
    (∀ x ∈ [((0x01 : BitVec 8), Instr.identify p), (0x10, .setLatency p), (0x11, .setQuiet p), (0x12, .setPowerCap p), (0x13, .powerStatus p),
        (0x20, .corePause p), (0x21, .coreResume p), (0x22, .coreReset p), (0x23, .coreStatus p), (0x30, .keyLoad p), (0x31, .keyErase p),
        (0x40, .slConfig p), (0x41, .regionRegister p), (0x42, .regionRevoke p), (0x43, .qpCreate p), (0x44, .qpModify p), (0x45, .qpDestroy p),
        (0x46, .qpQuery p), (0x47, .anteQuota p), (0x50, .shardDefine p), (0x51, .shardDisable p), (0x52, .leveeCheckpoint p),
        (0x53, .leveeRestore p), (0x54, .leveeAbort p), (0x60, .rasStatus p), (0x61, .rasCounts p), (0x62, .lptRelease p), (0x63, .coreFence p),
        (0x70, .fwInfo p), (0x71, .fwSvnRaise p), (0x72, .fwReload p su), (0x80, .telemConfig p), (0x90, .thermLimits p), (0x91, .thermStatus p),
        (0xF0, .shutdown p), (0xF1, .dieReset p su)],
      (canServe s = true → noEvents s → noMirrorWrite s → s.porch.cmdPi = s.porch.cmdCi → exec x.2 s = exec x.2 (post x.1 p s)) ∧
      (x.1 ≠ 0x42 → x.1 ≠ 0x44 → PorchFront x.1 p s →
        ((p.flags.ult 4 = false ∨ p.rsv ≠ 0 ∨ 65 < p.length.toNat) → repliesWith x.1 p 0xFE 0xFF01 0 0 0 s s x.2) ∧
        (PacketGood p (p.length = 0) [] → onlySome x.1 s = true → p.p2 = 0 → (x.1 = 0x30 ∨ x.1 = 0x43 ∨ x.1 = 0x50 ∨
          repliesWith x.1 p 0x10 0 0 0 0 s s x.2)))) ∧
    let plain (op : BitVec 8) (i : Instr) (r0 r1 r2 : Word) : Prop := PorchGood op p (p.length = 0) [] s → repliesWith op p 0 0 r0 r1 r2 s s i
    let cs := allCores.filter s.present
    plain 0x01 (.identify p) (featVariant s) (feat0 s.variant) (feat1 s.variant) ∧
    plain 0x13 (.powerStatus p) (s.power.power.setWidth 64) ((stepInForce s).setWidth 64 ||| flag (stepInForce s ≠ 0) 8) (pwDoor s) ∧
    plain 0x23 (.coreStatus p) (cs.foldl (fun w c => w ||| flag ((s.core c).paused || (s.core c).armPaused) c.val) 0)
      (cs.foldl (fun w c => w ||| flag (s.offline c) c.val) 0) ((cs.take 8).foldl (fun w c => w ||| put (s.phys c) (8 * c.val)) 0) ∧
    plain 0x60 (.rasStatus p) (cfStat s) (lptStat s) (cfSpare s) ∧
    plain 0x61 (.rasCounts p) s.coff.nCorr (s.coff.evDrop.setWidth 64) s.coff.nSev ∧
    plain 0x70 (.fwInfo p) s.pump.fwid (s.pump.fwReason.setWidth 64) 0 ∧
    plain 0x91 (.thermStatus p) (thermStatus s) 0 0 ∧
    (PorchGood 0x46 p (p.length = 0) [0xFFFFF] s → s.coff.sluiceFenced = false →
      (s.qp p.p2.toNat = none → repliesWith 0x46 p 0xFE 0xFF02 0 0 0 s s (.qpQuery p)) ∧
      ∀ x, s.qp p.p2.toNat = some x →
        repliesWith 0x46 p 0 0 (qpstat x) (put x.scnt 0 ||| put x.rcnt 32) (put x.peer 0 ||| put x.peerQpn 16) s s (.qpQuery p))

/-- R331, R434, R493, R494, R498, R500, R507, R508, R516, R518: the commands on latency, quiet, power, temperature, cores, keys, telemetry
and shutdown; a replies-consumed store. A range that R585 refuses changes nothing. A tolerance that changes meets a core that idles Open at
once, one in a deeper state at its next entry. That SET_LATENCY may name an offline core is the model's reading (log entry 96). -/
def Obligations.PorchSetsTheDie : Prop :=
  ∀ (s : State) (p : Packet) (by_ : Writer) (v : Word) (ts : TelemSample),
    let len0 := p.length = 0
    let ends (i : Instr) (f : State → Prop) : Prop := ∃ t, exec i s = .next t ∧ f t
    let reply (op st : BitVec 8) (d : BitVec 16) (r0 : Word) (t : State) (i : Instr) : Prop := repliesWith op p st d r0 0 0 t s i
    let masked (op : BitVec 8) (f : Instr) (off : Bool) (ok : Prop) : Prop :=
      (∀ st d, maskRefusal s p.p2 off = some (.reply st d 0 0 0) → reply op st d 0 s f) ∧ (maskRefusal s p.p2 off = none → ok)
    (PorchGood 0x10 p len0 [0xFFFFFFFF, 0xFFFFFFFF] s → masked 0x10 (.setLatency p) true (
      let tol : BitVec 32 := fld p.p3 0 32
      ends (.setLatency p) fun t => ∀ c : CoreId, (t.core c).tol = (if p.p2.getLsbD c.val then tol else (s.core c).tol) ∧ (t.core c).g = (s.core c).g ∧
        (p.p2.getLsbD c.val = true → (s.core c).idle = true → (s.core c).door = 0 → (s.core c).forced = false → tolDoor tol ≠ 3 →
          (t.core c).door = tolDoor tol) ∧
        (p.p2.getLsbD c.val = true → (s.core c).idle = true → (s.core c).door ≠ 0 → (t.core c).door = (s.core c).door))) ∧
    (PorchGood 0x11 p len0 [0xFFFFFFFF] s →
      reply 0x11 0 0 (flag (300 ≤ p.p2.toNat) 0) { s with power := { s.power with quiet := fld p.p2 0 32 } } (.setQuiet p)) ∧
    (PorchGood 0x12 p len0 [0xFFFF] s →
      ((p.p2.toNat < 100 ∨ 300 < p.p2.toNat) → reply 0x12 0xFE 0xFF02 0 s (.setPowerCap p)) ∧
      (100 ≤ p.p2.toNat → p.p2.toNat ≤ 300 →
        reply 0x12 0 0 p.p2 { s with power := { s.power with limit := fld p.p2 0 16, raiseWait := 0 } } (.setPowerCap p))) ∧
    (PorchGood 0x20 p len0 [0xFFFFFFFF] s → masked 0x20 (.corePause p) false (
      (∀ c : CoreId, p.p2.getLsbD c.val = true → canPause s c = true) → ends (.corePause p) fun t =>
        (∀ c : CoreId, p.p2.getLsbD c.val = true → (t.core c).paused = true ∧ (t.core c).pausing = false) ∧ t.porch.direct = none ∧
          t.porch.cmdCi = s.porch.cmdCi + 1 ∧ (s.porch.waiting = [] → s.porch.mirror = 0 → (∀ c : CoreId, tolDoor (s.core c).tol ≠ 3) →
            t.porch.rplPi = s.porch.rplPi + (if bit p.flags 1 then 0 else 1)))) ∧
    (PorchGood 0x21 p len0 [0xFFFFFFFF] s → masked 0x21 (.coreResume p) false (ends (.coreResume p) fun t =>
      ∀ c : CoreId, p.p2.getLsbD c.val = true → (t.core c).paused = false ∧ (t.core c).pausing = false)) ∧
    (PorchGood 0x22 p len0 [0xFFFFFFFF] s → masked 0x22 (.coreReset p) false (ends (.coreReset p) fun t =>
      ∀ c : CoreId, p.p2.getLsbD c.val = true → (t.core c).pc = (s.core c).rvec ∧ (t.core c).g = Core.reset.g ∧
        (t.core c).status = Core.reset.status ∧ (t.core c).paused = false ∧ (t.core c).spill = (s.core c).spill)) ∧
    (PorchGood 0x30 p (p.length = 1) [1] s →
      (∀ bs t, payload p s = .ok (some bs) t → reply 0x30 0 0 0 (setKey p.polder
        ⟨BitVec.ofNat 256 (fromLe (bs.take 32)), BitVec.ofNat 256 (fromLe (bs.drop 32)), bit p.p2 0⟩ t) (.keyLoad p)) ∧
      ∀ t, payload p s = .ok none t → reply 0x30 0xFE 0xFF04 0 t (.keyLoad p)) ∧
    (PorchGood 0x31 p len0 [] s → reply 0x31 0 0 0 (setKey p.polder Key.none s) (.keyErase p)) ∧
    (PorchGood 0x80 p len0 [0xFFFFFFFFFFFFF, 0x1F, 0xFFFFFFFF] s →
      let good : Prop := p.p2.toNat % 512 = 0 ∧ 4 ≤ p.p3.toNat ∧ p.p3.toNat ≤ 16 ∧ (p.p4 = 0 ∨ (100 ≤ p.p4.toNat ∧ p.p4.toNat ≤ 60000000))
      (good → reply 0x80 0 0 0 { s with telem := { s.telem with
        running := p.p4 ≠ 0, stopped := false, base := p.p2, log2 := fld p.p3 0 5, interval := fld p.p4 0 32, count := 0, inFlight := [] } } (.telemConfig p)) ∧
      (¬ good → reply 0x80 0xFE 0xFF02 0 s (.telemConfig p))) ∧
    (PorchGood 0x90 p len0 [0xFFFF] s →
      let lo := p.p2.toNat % 256
      let hi := p.p2.toNat / 256
      let good : Prop := 60 ≤ lo ∧ lo ≤ 105 ∧ lo + 5 ≤ hi ∧ hi ≤ 115
      (good → reply 0x90 0 0 0 { s with power := { s.power with tThrottle := fld p.p2 0 8, tCritical := fld p.p2 8 8 } } (.thermLimits p)) ∧
      (¬ good → reply 0x90 0xFE 0xFF02 0 s (.thermLimits p))) ∧
    (PorchGood 0xF0 p len0 [1] s → p.p2 = 0 → (∀ c : CoreId, canPause s c = true) → ends (.shutdown p) fun t =>
      t.porch.down = true ∧ t.power.inQuiet = true ∧ t.porch.direct = none ∧
      (∀ c : CoreId, s.present c = true → s.offline c = false → (s.core c).held = false → (t.core c).paused = true) ∧
      ∀ m : Fin 4, s.mem.ctrls[m.val].present = true → t.mem.ctrls[m.val].selfRef = true) ∧
    ((s.telem.running = false ∨ s.inReset = true ∨ s.coff.dieStop = true) → exec (.telemetrySample ts) s = .next (clearAnswers .pump s)) ∧
    (s.telem.running = true → s.inReset = false → s.coff.dieStop = false → place s.telem.base.toNat = .nothing → s.telem.base.toNat % 64 = 0 →
      s.telem.count % 2 ^ s.telem.log2.toNat = 0 → ends (.telemetrySample ts) fun t =>
        t.telem.running = false ∧ t.telem.stopped = true ∧ t.telem.seq = s.telem.seq + 1 ∧ t.mem.bytes = s.mem.bytes) ∧
    (s.telem.running = true → s.inReset = false → s.coff.dieStop = false → s.telem.inFlight = [] → s.telem.base.toNat % 64 = 0 →
      (∀ j < 8, QuietLine (s.telem.base.toNat + s.telem.count % 2 ^ s.telem.log2.toNat * 512 + 64 * j) s) → ends (.telemetrySample ts) fun t =>
        t.telem.running = true ∧ t.telem.seq = s.telem.seq + 1 ∧ t.telem.count = s.telem.count + 1) ∧
    (writerShut by_ s = false → noEvents s → s.porch.waiting = [] → noMirrorWrite s →
      exec (.poRplciWrite by_ v) s = .next { s with porch := { s.porch with rplCi := fld v 0 32 } })

/-- R355, R358, R376, R402, R495: the commands on memory regions, queue pairs and the anteroom; each refuses what R495 says with no effect. That
a queue pair starts at PSN 0, that one which does not exist is refused with 0xFF02, and that a new region or queue pair starts on the die
are the model's (log entries 93, 94, 95). -/
def Obligations.PorchSluiceObjects : Prop :=
  ∀ (s : State) (p : Packet), s.coff.sluiceFenced = false →
    let len0 := p.length = 0
    let all : Word := BitVec.allOnes 64
    let reply (op st : BitVec 8) (d : BitVec 16) (r0 : Word) (t : State) (i : Instr) : Prop := repliesWith op p st d r0 0 0 t s i
    let ends (i : Instr) (f : State → Prop) : Prop := ∃ t, exec i s = .next t ∧ f t
    let fails (op : BitVec 8) (d : BitVec 16) (i : Instr) : Prop := reply op 0xFE d 0 s i
    let i := p.p2.toNat
    let q := p.p2.toNat % 2 ^ 20
    let new := p.p2.toNat / 2 ^ 20 % 8
    let on := s.sluice.enabled
    (PorchGood 0x40 p len0 [0xFFFFFFFF, 0xFFFFFFFF00001] s →
      (s.sluice.qps ≠ [] → reply 0x40 0x10 0 0 s (.slConfig p)) ∧
      (s.sluice.qps = [] → reply 0x40 0 0 0 { s with sluice := { s.sluice with
        enabled := true, endpoint := fld p.p2 0 16, udpport := fld p.p2 16 16, bsbase := p.p3 &&& 0xFFFFFFFF00000, hostStore := bit p.p3 0 } } (.slConfig p))) ∧
    (PorchGood 0x41 p len0 [0x3FFFF, all, all, 0x3FF, all] s → (s.region i).state ≠ .revoking →
      let good : Prop := p.p4 ≠ 0 ∧ p.p4.toNat ≤ 2 ^ 40 ∧ p.p5.toNat / 32 % 4 ≠ 3 ∧ p.p5.toNat / 128 ≤ 4 ∧ p.p6.toNat % 8 = 0
      (¬ good → fails 0x41 0xFF02 (.regionRegister p)) ∧ (good → on = false → fails 0x41 0xFF03 (.regionRegister p)) ∧
      (good → on = true → (s.region i).state = .valid → fails 0x41 1 (.regionRegister p)) ∧
      (good → on = true → (s.region i).state = .free → ends (.regionRegister p) fun t =>
        t.region i = { Region.none with
          base := p.p3, len := p.p4, polder := p.polder, access := fld p.p5 0 5, state := .valid
          gen := (s.region i).gen + 1, pgsz := fld p.p5 5 2, plist := p.p6, stash := fld p.p5 7 3, onDie := true })) ∧
    (PorchGood 0x42 p len0 [0x3FFFF] s →
      s.porch.accepted.length < 16 → (s.region i).state = .valid → ends (.regionRevoke p) fun t =>
        (t.region i).state ≠ .valid ∧ ((s.region i).open_ = [] → (t.region i).state = .free) ∧ t.porch.cmdCi = s.porch.cmdCi + 1) ∧
    (PorchGood 0x43 p (p.length = 1) [0x3FFFFFFF] s → ∀ bs t, payload p s = .ok (some bs) t →
      let x := newQp p.polder (fld p.p2 20 10) (wordAt bs)
      x.pin = false →
      (t.sluice.enabled = false → reply 0x43 0xFE 0xFF03 0 t (.qpCreate p)) ∧
      (t.sluice.enabled = true → (t.qp q).isSome = true → reply 0x43 0xFE 1 0 t (.qpCreate p)) ∧
      (t.sluice.enabled = true → t.qp q = none → ringsOk t x = false → reply 0x43 0xFE 2 0 t (.qpCreate p)) ∧
      (t.sluice.enabled = true → t.qp q = none → ringsOk t x = true → reply 0x43 0 0 0 (bringQp q (t.setQp q x)) (.qpCreate p))) ∧
    (PorchGood 0x44 p len0 (modifyMasks p) s → s.sluice.regions = [] →
      (s.qp q = none → fails 0x44 0xFF02 (.qpModify p)) ∧
      ∀ x, s.qp q = some x →
        (4 < new → fails 0x44 0xFF02 (.qpModify p)) ∧
        (new ≤ 3 → (new ≠ 2 ∨ (transportOk p = true ∧ (bit p.p7 12 = false ∨ x.pin = true))) → mayMove x.state.toNat new = false →
          fails 0x44 0xFF03 (.qpModify p)) ∧
        (x.state = 0 → new = 1 → ends (.qpModify p) fun t => t.qp q = some { x with state := 1 }) ∧
        (x.state = 1 → new = 2 → transportOk p = true → (bit p.p7 12 = false ∨ x.pin = true) → ends (.qpModify p) fun t =>
          ∃ y, t.qp q = some y ∧ y.state = 2 ∧ y.peer = fld p.p3 0 16 ∧ y.peerQpn = fld p.p3 16 20 ∧ y.epsn = 0 ∧ y.nextPsn = 0 ∧ y.mtu = fld p.p6 7 2) ∧
        (x.state = 2 → new = 3 → ends (.qpModify p) fun t => t.qp q = some { x with state := 3, rung := 0, cleanWin := 0 }) ∧
        (x.state = 4 → new = 0 → (∀ e ∈ s.sluice.qps, ∀ z h, e.2 = some z → z.held = some h → h.1 ≠ q) → ends (.qpModify p) fun t => t.qp q = some { x with state := 0, nak := none, anteNak := none })) ∧
    (PorchGood 0x45 p len0 [0xFFFFF] s →
      (s.qp i = none → fails 0x45 0xFF02 (.qpDestroy p)) ∧
      ∀ x, s.qp i = some x →
        (x.state ≠ 0 → fails 0x45 0xFF03 (.qpDestroy p)) ∧
        (x.state = 0 → reply 0x45 0 0 0 { s with sluice := { s.sluice with qps := mset none s.sluice.qps i none } } (.qpDestroy p))) ∧
    (PorchGood 0x47 p len0 [0x3FF] s →
      (512 < i → fails 0x47 0xFF02 (.anteQuota p)) ∧ (i ≤ 512 → on = false → fails 0x47 0xFF03 (.anteQuota p)) ∧
      (i ≤ 512 → on = true → reply 0x47 0 0 0 { s with sluice := { s.sluice with
        quota := mset 16 s.sluice.quota p.polder.toNat (fld p.p2 0 10) } } (.anteQuota p)))

/-- R409, R413, R424, R427, R440, R444, R447, R479, R497, R522: the commands on checkpoint shards, lost pages, core fences, the SVN floor
and resets. That LEVEE_ABORT of a shard that restores is BUSY is the model's reading (log entry 96). -/
def Obligations.PorchLeveeAndRecovery : Prop :=
  ∀ (s : State) (p : Packet) (su : StartUp), s.coff.leveeFenced = false →
    let len0 := p.length = 0
    let reply (op st : BitVec 8) (d : BitVec 16) (r0 : Word) (t : State) (i : Instr) : Prop := repliesWith op p st d r0 0 0 t s i
    let ends (i : Instr) (f : State → Prop) : Prop := ∃ t, exec i s = .next t ∧ f t
    let i := shardOf p
    let x := s.shard i
    let c : CoreId := (fld p.p2 0 5).toFin
    let room := s.porch.accepted.length < 16
    (PorchGood 0x50 p (2 ≤ p.length.toNat ∧ p.length.toNat ≤ 65) [0xF] s →
      (∀ t, payload p s = .ok none t → reply 0x50 0xFE 0xFF04 0 t (.shardDefine p)) ∧
      ∀ bs t, payload p s = .ok (some bs) t →
        let y : Shard := { t.shard i with desc := maskDesc bs }
        let m := putRegions t.levee.regions y.first y.nreg (bs.drop 64)
        (p.length.toNat ≠ 1 + (y.nreg + 3) / 4 → reply 0x50 0xFE 0xFF01 0 t (.shardDefine p)) ∧
        (p.length.toNat = 1 + (y.nreg + 3) / 4 →
          ((t.shard i).state ≠ .idle → (t.shard i).state ≠ .disabled → reply 0x50 0x10 0 0 t (.shardDefine p)) ∧
          (((t.shard i).state = .idle ∨ (t.shard i).state = .disabled) →
            (shardRange y m = true → reply 0x50 0xFE 0xFF02 0 t (.shardDefine p)) ∧
            (shardRange y m = false → shardBad t i y m = true → reply 0x50 0xFE 1 0 t (.shardDefine p)) ∧
            (shardRange y m = false → shardBad t i y m = false → reply 0x50 0 0 0
              (({ t with levee := { t.levee with regions := m } }).setShard i { y with state := .idle }) (.shardDefine p))))) ∧
    (PorchGood 0x51 p len0 [0xF] s →
      (x.state ≠ .idle → x.state ≠ .disabled → reply 0x51 0x10 0 0 s (.shardDisable p)) ∧
      ((x.state = .idle ∨ x.state = .disabled) → ends (.shardDisable p) fun t => (t.shard i).state = .disabled ∧ bit (t.shard i).desc[0] 44 = false)) ∧
    (PorchGood 0x52 p len0 [0xF] s →
      (x.state = .idle → ends (.leveeCheckpoint p) fun t => (t.shard i).state = .arming ∧ (t.shard i).seq = x.seq + 1 ∧ (t.shard i).trig = 2 ∧
        t.porch.direct = some ⟨p.tag, 0x52, bit p.flags 1, i.val, 0, 0⟩) ∧
      (x.state ≠ .idle → reply 0x52 0x10 0 0 (s.setShard i { x with skip := satInc x.skip }) (.leveeCheckpoint p))) ∧
    (PorchGood 0x53 p len0 [0x3F, BitVec.allOnes 64] s →
      (x.state ≠ .idle → reply 0x53 0x10 0 0 s (.leveeRestore p)) ∧ (x.state = .idle → ¬ room → reply 0x53 0x20 0 0 s (.leveeRestore p)) ∧
      (x.state = .idle → room → accepts 0x53 p i.val (fld p.p2 4 2).toNat p.p3 (s.setShard i { x with
        state := .restoring, rslot := false, rnewest := (fld p.p2 4 2).toNat = 2, rfails := 0, recs := [], copied := 0, crc := 0, phase := 0 }) s (.leveeRestore p))) ∧
    (PorchGood 0x54 p len0 [0xF] s →
      (x.state = .restoring → reply 0x54 0x10 0 0 s (.leveeAbort p)) ∧
      ((x.state = .idle ∨ x.state = .disabled) → reply 0x54 0 0 0 s (.leveeAbort p)) ∧
      (x.busy = true → s.th.queued = [] → ends (.leveeAbort p) fun t => (t.shard i).state = .idle ∧ (t.shard i).last = 0x03 ∧ (t.shard i).seq = x.seq)) ∧
    (PorchGood 0x62 p len0 [0xFFFFFFFFFF000] s →
      let page : BitVec 40 := fld p.p2 12 40
      ((∀ e ∈ s.coff.lpt, ∀ y, e.2 = some y → y.page ≠ page) → reply 0x62 0xFE 1 0 s (.lptRelease p)) ∧
      (∀ e y, s.coff.lpt = [(e, some y)] → y.page = page → s.unsaved (page.toNat * 4096) = false → s.porch.mirror = 0 →
        (∀ n, n / 64 = page.toNat → dirOf s n = DirEntry.none ∧ ∀ t ∈ s.th.txns, t.line ≠ n) → ends (.lptRelease p) fun t =>
        t.coff.lpt = [] ∧ ∀ a, a / 4096 = page.toNat → viewByte t y.polder a = 0)) ∧
    (PorchGood 0x63 p len0 [0x1F] s →
      (∀ st d, maskRefusal s (flag true c.val) false = some (.reply st d 0 0 0) → reply 0x63 st d 0 s (.coreFence p)) ∧
      (maskRefusal s (flag true c.val) false = none → ¬ room → reply 0x63 0x20 0 0 s (.coreFence p)) ∧
      (maskRefusal s (flag true c.val) false = none → room → ends (.coreFence p) fun t =>
        (t.gate (s.corePort c)).open_ = false ∧ (∃ e, t.coff.events = [e] ∧ e.kind = 0x0E ∧ e.sev = 2) ∧
          (⟨p.tag, 0x63, bit p.flags 1, c.val, 0, 0⟩ : Background) ∈ t.porch.accepted)) ∧
    (PorchGood 0x71 p len0 [0xFF] s →
      let new := p.p2.toNat
      ((s.background 0x71 0).isSome = true → reply 0x71 0x10 0 0 s (.fwSvnRaise p)) ∧
      (s.background 0x71 0 = none → room → (new ≤ s.pump.svnFloor.toNat ∨ (fld s.pump.fwid 16 8 : BitVec 8).toNat < new) →
        reply 0x71 0xFE 1 0 s (.fwSvnRaise p)) ∧
      (s.background 0x71 0 = none → room → s.pump.svnFloor.toNat < new → new ≤ (fld s.pump.fwid 16 8 : BitVec 8).toNat →
        accepts 0x71 p 0 new 0 s s (.fwSvnRaise p))) ∧
    (s.background 0x71 0 = none → exec .fwSvnRaiseDone s = .next s) ∧
    (∀ b, s.background 0x71 0 = some b → s.coff.dieStop = false → ends .fwSvnRaiseDone fun t =>
      t.pump.svnFloor = BitVec.ofNat 8 b.n ∧ fld t.pump.fwid 24 8 = BitVec.ofNat 8 b.n ∧ b ∉ t.porch.accepted) ∧
    ∀ y ∈ [((0x72 : BitVec 8), Instr.fwReload p su), (0xF1, .dieReset p su)],
      (∀ b, s.porch.direct = some b → b.opcode = y.1 → b.tag = p.tag → (s.coff.dieStop = true ∨ s.inReset = true) → exec y.2 s = .next s) ∧
      (PorchGood y.1 p len0 [] s →
        ((∃ c : CoreId, s.present c = true ∧ s.offline c = false ∧ (s.core c).held = false ∧ canPause s c = false) → ends y.2 fun t =>
          t.porch.direct = some ⟨p.tag, y.1, bit p.flags 1, 0, 0, 0⟩) ∧
        ((∀ c : CoreId, (s.core c).l2 = [] ∧ canPause s c = true ∧ tolDoor (s.core c).tol ≠ 3 ∧ (s.core c).pausing = false) → (∀ w : Fin 4, s.wings[w.val].cache = []) →
          s.th.reqs = [] → s.th.queued = [] → s.th.txns = [] → (∀ n : Fin 8, s.doors[n.val].up = false) → s.porch.mirror = 0 → s.porch.hostIrq = 0 →
          ends y.2 fun t => t.power.rstCause = 2 ∧ t.mem.keys = s.mem.keys ∧ t.ltime = s.ltime))

/-- R507 to R511: the power step rises after a hot 10 µs average and falls after a cool millisecond; the thermal step follows the hottest
sensor; at the critical limit cores are forced into Ajar, and 10 ms of it stop the die. R510, R519, R563 to R567: the sideband inputs:
an accepted transition, the storm detector and the end of its mask, stuck inputs, short pulses on RST_N, and what WAKE_N wakes. That a
sample comes with its command, how ten cool samples count, and that a reset pulse is two transitions are the model's (log entries 9, 25, 83). -/
def Obligations.PowerThermalAndSideband : Prop :=
  (∀ (s : State) (a b : BitVec 32) (temps : List (BitVec 16)) (h : Int),
     (controls s = false → exec (.powerSample a b) s = .next s ∧ exec (.thermalSample temps) s = .next s) ∧ (controls s = true →
     let p := s.power
     let lim := Nat.min p.limit.toNat 300 * 1000
     let power (x : Power) : Prop := exec (.powerSample a b) s = .next { s with power := { x with power := b } }
     let q : Power := { p with raiseWait := p.raiseWait - 1, lowerWait := p.lowerWait - 1 }
     let tt : Int := 8 * p.tThrottle.toNat
     let tc : Int := 8 * p.tCritical.toNat
     (1 < p.raiseWait → power q) ∧
     (p.raiseWait ≤ 1 → lim < a.toNat → power { q with pwStep := satInc p.pwStep, raiseWait := 10 }) ∧
     (p.raiseWait ≤ 1 → a.toNat ≤ lim →
       (b.toNat * 100 < 95 * lim → p.pwStep ≠ 0 → p.lowerWait ≤ 1 → power { q with pwStep := p.pwStep - 1, lowerWait := 100 }) ∧
       ((95 * lim ≤ b.toNat * 100 ∨ p.pwStep = 0 ∨ 1 < p.lowerWait) → power q)) ∧
     (temps.length = 96 → (∀ x ∈ temps, x.toInt ≤ h) → (∃ x ∈ temps, x.toInt = h) → ∃ t, exec (.thermalSample temps) s = .next t ∧
       t.power.sensors.toList = temps ∧
       t.power.thStep = (if tt ≤ h then satInc p.thStep
         else if h < tt - 24 ∧ p.thStep ≠ 0 ∧ p.coolRun = 10 then p.thStep - 1 else p.thStep) ∧
       (tc ≤ h → (p.critical = false ∨ tt ≤ h) → t.power.critical = true ∧ (p.critical = false → ∀ c : CoreId, (t.core c).forced = true)) ∧
       (h < tc → h < tt → p.critical = true → t.power.critical = false ∧ ∀ c : CoreId, (t.core c).forced = false) ∧
       (h < tc → tt ≤ h → t.power.critical = p.critical)) ∧
     ((∃ x ∈ p.sensors.toList, tc ≤ x.toInt) → p.critical = true → s.coff.dieStop = false → exec .criticalTimeout s = .next (dieStop s)) ∧
     (p.critical = false → exec .criticalTimeout s = .next s))) ∧
  (∀ (s : State) (active : Bool) (i : Fin 3),
     let ends (i : Instr) (f : State → Prop) : Prop := ∃ t, exec i s = .next t ∧ f t
     let recent (i : Fin 3) : List Word := s.ltime :: (s.pin i).trans.filter fun t => s.ltime - t ≤ 1000000
     let moves (i : Fin 3) (t : State) : Prop :=
       let p := s.pin i
       (p.filt = active → t.side = s.side) ∧
       (p.filt ≠ active → (t.pin i).filt = active ∧
         (p.masked = true → (t.pin i).masked = true ∧ t.side.storms = s.side.storms) ∧
         (p.masked = false → (recent i).length ≤ 1000 → (t.pin i).masked = false ∧ (t.pin i).trans = recent i ∧ t.side.storms = s.side.storms) ∧
         (p.masked = false → 1000 < (recent i).length → (t.pin i).masked = true ∧ (t.pin i).trans = [] ∧
           t.side.storms[i.val] = satInc s.side.storms[i.val] ∧ t.side.log.getLsbD i.val = true))
     ends (.thermAlertN active) (fun t => moves 0 t ∧ t.power.alert = ((t.pin 0).filt || (t.pin 0).masked)) ∧
     (s.power.inQuiet = false → ends (.wakeN active) (moves 1)) ∧
     ((s.pin 1).filt = false → (s.pin 1).masked = false → active = true → (recent 1).length ≤ 1000 → s.power.inQuiet = true →
       s.porch.ready = true → s.porch.down = false → s.inReset = false → (s.pin 1).stuck = false → ends (.wakeN active) fun t =>
         t.power.inQuiet = false ∧ ∀ m : Fin 4, t.mem.ctrls[m.val].selfRef = false) ∧
     ((s.pin i).masked = false → exec (.stormMaskEnd i) s = .next s) ∧
     ((s.pin i).masked = true → ends (.stormMaskEnd i) fun t => t.pin i = { s.pin i with masked := false, trans := [] } ∧
       t.power.alert = ((t.pin 0).filt || (t.pin 0).masked)) ∧
     (((s.pin 0).filt = true ∧ (s.pin 0).masked = false) → ends .thermAlertStuck fun t =>
       (t.pin 0).stuck = true ∧ t.side.log.getLsbD 3 = true ∧ t.power = s.power) ∧
     (((s.pin 1).filt = true ∧ (s.pin 1).masked = false) → ends .wakeStuck fun t =>
       (t.pin 1).stuck = true ∧ t.side.log.getLsbD 4 = true ∧ wakeActive t = false) ∧
     (((s.pin 0).filt = false ∨ (s.pin 0).masked = true) → exec .thermAlertStuck s = .next s) ∧
     (((s.pin 1).filt = false ∨ (s.pin 1).masked = true) → exec .wakeStuck s = .next s) ∧
     (s.inReset = true → exec .rstN s = .next s) ∧
     (s.inReset = false → (s.pin 2).masked = false → (s.pin 2).filt = false → (recent 2).length ≤ 999 → ends .rstN fun t =>
       t.side.shorts = satInc s.side.shorts ∧ t.side.log.getLsbD 5 = true ∧ t.cores = s.cores ∧ t.mem = s.mem))

/-- R454, R502, R517 to R519, R571, R572: loss of a clock or a supply stops or resets the die; units gate; die-quiet begins and ends. That
undefinedOutcome stops the model, that die-quiet ends in one step, and that a stopped die's floodgates keep their own bits are the
model's (log entries 50, 81, 102). -/
def Obligations.LossesGatingAndQuiet : Prop :=
  ∀ (s : State) (m : Fin 4) (c : CoreId),
    let ends (i : Instr) (f : State → Prop) : Prop := ∃ t, exec i s = .next t ∧ f t
    let stopped (t : State) : Prop := t.coff.dieStop = true ∧ t.side.faultLow = true
    (s.inReset = false → s.coff.dieStop = false →
      exec .refclkLoss s = .next (dieStop s) ∧ stopped (dieStop s) ∧
      (ends .rootPllUnlock fun t => stopped t ∧ t.power.rootLock = false ∧ t.mem = s.mem) ∧
      (m.val < nStacks s.variant → ends (.stackPllUnlock m) fun t => stopped t ∧ t.power.stackLock.getLsbD m.val = false ∧ t.mem.bytes = s.mem.bytes)) ∧
    (nStacks s.variant ≤ m.val → exec (.stackPllUnlock m) s = .next s) ∧
    (s.inReset = true → exec .refclkLoss s = .next s ∧ exec .rootPllUnlock s = .next s ∧ exec (.stackPllUnlock m) s = .next s ∧
      exec (.railOutOfRange m) s = .next s) ∧
    (s.inReset = false → s.coff.dieStop = true → exec .refclkLoss s = .next s) ∧
    (s.inReset = false → m = 3 → s.power.hbmWindow = false → exec (.railOutOfRange m) s = .next s) ∧
    (s.inReset = false → m ≠ 2 → (m = 3 → s.power.hbmWindow = true) → ends (.railOutOfRange m) fun t => t.coff.dieStop = true ∧ (s.coff.dieStop = false → t.side.faultLow = true)) ∧
    (s.inReset = false → m = 2 → ends (.railOutOfRange m) fun t => t.inReset = true ∧ t.side.faultLow = false ∧ t.mem.keys = []) ∧
    (s.porch.down = true → s.power.inQuiet = false → ends .powerRemoval fun t => t.inReset = true ∧ t.pump.svnFloor = s.pump.svnFloor) ∧
    ((s.porch.down = false ∨ s.power.inQuiet = true) → exec .powerRemoval s = .fault (.undefinedOutcome 572)) ∧
    (s.present c = true →
      (hasLvu s.variant = true → exec (.unitPowerGate c true) s = .next (s.setCore c { s.core c with vuGated := true })) ∧
      (hasLvu s.variant = false → exec (.unitPowerGate c true) s = .next s) ∧
      ((s.core c).flight = [] → exec (.unitPowerGate c false) s = .next (s.setCore c { s.core c with mxGated := true })) ∧
      ((s.core c).flight ≠ [] → exec (.unitPowerGate c false) s = .next s)) ∧
    (mayRest s = false → exec .dieQuietEntry s = .next s) ∧
    (mayRest s = true → ends .dieQuietEntry fun t => t.power.inQuiet = true ∧
      (∀ m : Fin 4, s.mem.ctrls[m.val].present = true → t.mem.ctrls[m.val].selfRef = true) ∧
      (∀ n : Fin 8, 2 ≤ n.val → s.doors[n.val].up = true → t.doors[n.val].l1 = true) ∧ t.mem.bytes = s.mem.bytes ∧ t.cores = s.cores) ∧
    ((s.power.inQuiet = false ∨ s.porch.down = true ∨ s.inReset = true ∨ wakeSource s = false) → exec .dieQuietExit s = .next s) ∧
    (s.power.inQuiet = true → s.porch.down = false → s.inReset = false → wakeSource s = true → ends .dieQuietExit fun t =>
      t.power.inQuiet = false ∧ ∀ m : Fin 4, t.mem.ctrls[m.val].selfRef = false)

/-- R477 to R480, R521, R522, R525, R526: a cold reset of a sound die checks its firmware image, loads the code of a good one, and starts
with every core released; an image that fails a check is refused with its reason; a warm reset keeps the keys, the fuses and LTIME, and
says its cause; a die with no image refuses after a second. A halted or shut-down die does not take PW_WRST (R565, R568). What a
warm reset clears, the contents of SRAM and boot ROM, start-up as one step, the signature's own arithmetic and the fused key hash are
the model's (log entries 75, 78, 103, 119, 121). -/
def Obligations.ResetsStartTheDie : Prop :=
  ∀ (s : State) (by_ : Writer) (v : Word) (powerOn : Bool) (su : StartUp) (img : List Byte) (cap : BitVec 8) (credits : Word),
    let ends (i : Instr) (f : State → Prop) : Prop := ∃ t, exec i s = .next t ∧ f t
    (su.pllOk = true → su.fusesOk = true → su.badHome = false → su.badCores = [] → su.badLanes = [] → su.badLvu = [] → su.stacksOk = 0xF →
      su.badWays = [] → su.badSluice = false → su.badLevee = false → (∀ n : Fin 8, (su.doors.getD n.val ⟨false, 0, false, false⟩).ok = true) →
      su.peers = some ⟨1, 4, 0, cap, credits⟩ :: List.replicate 7 none → badPeer ⟨1, 4, 0, cap, credits⟩ = false → su.image = some img → imageServed img = true →
      let reason := imageReason s.pump.keyHash s.pump.svnFloor img
      (reason ≠ 0 → ends (.coldReset powerOn su) fun t => t.porch.fwOnly = true ∧ t.porch.ready = false ∧ t.pump.fwReason = reason ∧
        t.pump.code = [] ∧ t.pump.lock = false ∧ ∀ c : CoreId, (t.core c).held = true) ∧
      (reason = 0 → ends (.coldReset powerOn su) fun t =>
        t.pump.code = wrBytes [] 0 ((img.drop 0x80).take (imgLen img)) ∧ t.pump.pc.toNat = imgEntry img ∧ t.pump.fwReason = 0 ∧
        t.porch.ready = true ∧ t.coff.dieStop = false ∧ t.inReset = false ∧ t.th.node = some 0 ∧ t.power.rstCause = (if powerOn then 0 else 1) ∧
        t.pump.lock = true ∧ t.pump.bootrom = false ∧ t.pump.svnFloor = s.pump.svnFloor ∧ t.mem.keys = [] ∧
        ∀ c : CoreId, s.variant = t.variant ∧ (s.present c = true → (t.core c).held = false ∧ (t.core c).pc = Core.reset.rvec ∧
          (t.core c).g = Core.reset.g ∧ (t.core c).vuOn = hasLvu s.variant))) ∧
    (ends (.coldReset powerOn su) fun t => t.power.rstCause = (if powerOn then 0 else 1) ∧ t.mem.keys = [] ∧ t.pump.svnFloor = s.pump.svnFloor) ∧
    (writerShut by_ s = false → (s.inReset = true ∨ v.toNat % 2 ^ 16 ≠ 0x5752 ∨ s.porch.down = true ∨ s.power.haltStep = 3 ∨ s.power.haltStep = 4) →
      exec (.pwWrst by_ v su) s = .next s) ∧
    (writerShut by_ s = false → s.inReset = false → s.porch.down = false → s.power.haltStep ≠ 3 → s.power.haltStep ≠ 4 → v.toNat % 2 ^ 16 = 0x5752 → ends (.pwWrst by_ v su) fun t =>
      t.power.rstCause = (if s.coff.dieStop then 7 else 3) ∧ t.mem.keys = s.mem.keys ∧ t.ltime = s.ltime ∧ t.pump.svnFloor = s.pump.svnFloor) ∧
    (s.porch.ready = false → s.porch.fwOnly = false → s.inReset = false → s.coff.dieStop = false → s.side.faultLow = false →
      s.power.rootLock = true → s.pump.bootrom = true → ends .fwFetchTimeout fun t =>
        t.porch.fwOnly = true ∧ t.pump.fwReason = 1 ∧ t.pump.code = [] ∧ t.porch.ready = false) ∧
    ((s.porch.ready = true ∨ s.porch.fwOnly = true ∨ s.inReset = true ∨ s.coff.dieStop = true ∨ s.side.faultLow = true ∨ s.power.rootLock = false) →
      exec .fwFetchTimeout s = .next s)

/-- R528 to R530, R535, R554, R555: a doorway trains at the highest rate that passes and DW_CTL allows, sends INIT, links to its peer with
the credits that the peer gives, retrains, rests in L1, and goes down or is lost. R531 to R533, R539: a flit whose CRC or sequence
number is wrong is discarded, counted and answered with NAK; a good one is accepted, its credits count and its messages are performed in
order; a link-management flit is not sequenced; a flit sent returns credits. A doorway is lost at the third failed retrain within 1 ms. When
failures count, when credits are owed, and which INIT is ignored are the model's readings (log entries 29, 73, 101). -/
def Obligations.DoorwaysAndFlits : Prop :=
  (∀ (s : State) (n : Fin 8) (ok repairable x32 rep : Bool) (rate : BitVec 2) (by_ : Writer) (v : Word) (p : PeerInit),
     let d := s.doors[n.val]
     let ends (i : Instr) (f : State → Door → Prop) : Prop := ∃ t, exec i s = .next t ∧ f t t.doors[n.val]
     let top (r : BitVec 2) : BitVec 2 := if (fld d.ctl 2 2 : BitVec 2).ult r then fld d.ctl 2 2 else r
     let lock (t : State) : Prop := t.power.doorLock.getLsbD n.val = true
     let quiet : Prop := noEvents s ∧ s.coff.dieStop = false ∧ bit s.porch.mirror 0 = false ∧ noMirrorWrite s
     let recent : List Word := d.failed.filter fun t => s.ltime - t < 100000
     let init : Instr := .init n p.version p.node p.assign p.cap p.credits
     let waits : Prop := d.up = true ∧ d.training = false ∧ d.peer = none
     s.inReset = false →
     ((d.up = true ∧ d.training = false ∨ d.up = false ∧ bit d.ctl 0 = false) → exec (.training n ok rate x32 rep) s = .next s) ∧
     (d.up = true → d.training = true → ok = true → ends (.training n ok rate x32 rep) fun _ e => e.up = true ∧ e.training = false ∧
       e.rate = lowRate d.rate (top rate) ∧ e.x32 = (d.x32 || x32) ∧ e.repaired = (d.repaired || rep) ∧ e.unacked = d.unacked ∧ e.txSeq = d.txSeq ∧
       e.retrains = satInc d.retrains) ∧
     (d.up = true → d.training = true → ok = true → quiet → ends (.training n ok rate x32 rep) fun t e =>
       t.coff.nSev = s.coff.nSev + (if e.rate ≠ d.rate ∨ e.x32 ≠ d.x32 then 1 else 0) ∧
       t.coff.nCorr = s.coff.nCorr + (if e.rate = d.rate ∧ e.x32 = d.x32 ∧ rep = true then 1 else 0)) ∧
     (d.up = false → bit d.ctl 0 = true → ends (.training n ok rate x32 rep) fun t e => lock t ∧ e.up = ok ∧ e.rate = (if ok then top rate else 0) ∧
       e.x32 = (ok && x32) ∧ e.peer = none ∧ e.txSeq = 1 ∧ e.rxSeq = 0 ∧ e.credits = Vector.replicate 4 0) ∧
     (d.up = false → exec (.laneFault n repairable ok rate x32) s = .next s) ∧
     (d.up = true → s.coff.dieStop = false → ok = true →
       (repairable = true → ends (.laneFault n repairable ok rate x32) fun t e => e.repaired = true ∧ e.rate = top d.rate ∧ e.x32 = d.x32 ∧
         e.retrains = satInc d.retrains ∧ (quiet → t.coff.nCorr = s.coff.nCorr + 1)) ∧
       (repairable = false → ends (.laneFault n repairable ok rate x32) fun t e => e.repaired = d.repaired ∧ e.rate = lowRate d.rate (top rate) ∧
         e.x32 = (d.x32 || x32) ∧ e.unacked = d.unacked ∧ (quiet → t.coff.nSev = s.coff.nSev + 1))) ∧
     (writerShut by_ s = false → d.up = true → bit v 0 = true → bit v 1 = true →
       (ok = true → ends (.retrain by_ n v ok rate x32 rep) fun t e => lock t ∧ e.ctl = v &&& 0x1D ∧ e.up = true ∧ e.training = false ∧
         e.retrains = satInc d.retrains ∧ e.x32 = x32 ∧ e.unacked = d.unacked ∧ e.tx = d.tx ∧
         e.rate = (if (fld v 2 2 : BitVec 2).ult rate then fld v 2 2 else rate)) ∧
       (ok = false → recent.length < 2 → ends (.retrain by_ n v ok rate x32 rep) fun _ e => e.up = true ∧ e.training = true ∧ e.failed = s.ltime :: recent) ∧
       (ok = false → 2 ≤ recent.length → ends (.retrain by_ n v ok rate x32 rep) fun _ e => e.up = false ∧ e.lost = true)) ∧
     (writerShut by_ s = false → ends (.doorwayDisable by_ n v) fun t e => e.up = false ∧ bit e.ctl 0 = false ∧ t.power.doorLock.getLsbD n.val = false) ∧
     (2 ≤ n.val → d.up = true → d.training = false → bit d.ctl 4 = true → d.tx = [] → d.txRest = [] → d.unacked = [] → d.nakOut = false →
       exec (.l1Entry n) s = .next (s.modDoor n fun e => { e with l1 := true })) ∧
     (n.val < 2 → exec (.l1Entry n) s = .next s) ∧
     (waits → (n.val < 2 ∨ s.th.node.isSome = true) → ends (.initResend n) fun _ e => e.unacked = d.unacked ∧
       e.lmSent = ⟨1, 1, (match s.th.node with | some k => BitVec.ofNat 8 k.val | none => 0xFF), 0xFF, 1, 0x0100008001000080⟩ :: d.lmSent) ∧
     (d.peer ≠ none → exec (.initResend n) s = .next s) ∧
     (waits → 2 ≤ n.val → p.node.toNat < 4 → (∃ o, s.th.node = some o ∧ o.val ≠ p.node.toNat) →
       s.nodeLost p.node.toNat = false → badPeer p = false → ends init fun t e =>
         e.up = true ∧ e.peer = some (p.node.setWidth 3) ∧ e.coherent = bit p.cap 0 ∧ t.th.node = s.th.node ∧
         e.credits = #v[fld p.credits 0 16, fld p.credits 16 16, fld p.credits 32 16, fld p.credits 48 16] ∧ e.rxSeq = 0 ∧ e.txSeq = 1) ∧
     (∀ o : Fin 4, waits → n.val < 2 → s.th.node = none → s.nodeLost 4 = false → badPeer p = false → p.node = 4 → p.assign = BitVec.ofNat 8 o.val →
       ends init fun t e => t.th.node = some o ∧ e.peer = some 4) ∧
     (∀ o : Fin 4, waits → n.val < 2 → s.th.node = some o → badPeer p = false → p.node = 4 → p.assign ≠ 0xFF → p.assign.toNat ≠ o.val →
       ends init fun t e => t.side.faultLow = true ∧ e.peer = none) ∧
     ((p.version ≠ 1 ∨ (fld p.credits 0 16 : BitVec 16).toNat < 8 ∨ (fld p.credits 16 16 : BitVec 16).toNat < 16 ∨
       (fld p.credits 32 16 : BitVec 16).toNat < 8 ∨ (fld p.credits 48 16 : BitVec 16).toNat < 16) → waits → (n.val < 2 ∨ s.th.node.isSome = true) →
       ends init fun t e => e.up = false ∧ e.peer = none ∧ (quiet → t.coff.nSev = s.coff.nSev + 1)) ∧
     (∀ k, d.peer = some k → d.up = true → k ∉ s.th.quiesced →
       exec (.quiesce n) s = .next { endL1 n s with th := { s.th with quiesced := s.th.quiesced ++ [k] } }) ∧
     (s.porch.direct = none → d.up = true → (ends (.stop n) fun _ e => e.up = false ∧ e.lost = true) ∧
       (d.l1 = false → d.training = false → ends (.doorwayLost n) fun _ e => e.up = false ∧ e.lost = true)) ∧
     ((d.l1 = true ∨ d.training = true) → exec (.doorwayLost n) s = .next s)) ∧
  (∀ (s : State) (n : Fin 8) (b : BitVec 2048),
     let d := s.doors[n.val]
     let h := flitHdr b
     let us := flitUnits b
     let ends (i : Instr) (f : State → Door → Prop) : Prop := ∃ t, exec i s = .next t ∧ f t t.doors[n.val]
     let drop : Prop := exec (.flit n b) s = .next (s.modDoor n fun d => { d with crcerr := satInc d.crcerr, nakOut := true, l1 := false })
     let credits (e : Door) : Prop := e.credits = #v[satAdd d.credits[0] (fld h 24 6 : BitVec 6).toNat, satAdd d.credits[1] (fld h 30 6 : BitVec 6).toNat,
       satAdd d.credits[2] (fld h 36 6 : BitVec 6).toNat, satAdd d.credits[3] (fld h 42 6 : BitVec 6).toNat]
     ((d.up = false ∨ d.training = true ∨ s.inReset = true) → exec (.flit n b) s = .next s) ∧
     (d.up = true → d.training = false → s.inReset = false →
       (flitGood b = false → drop) ∧
       (flitGood b = true → bit h 21 = true → exec (.flit n b) s = .next (manage n b s)) ∧
       (flitGood b = true → bit h 21 = false → d.peer ≠ none →
         ((∀ u ∈ us, u = 0) → (d.partial_ = [] ∨ fld h 0 10 = d.rxSeq) → ends (.flit n b) fun t e => credits e ∧ e.rxSeq = d.rxSeq ∧ e.rxflit = d.rxflit ∧ t.mem = s.mem) ∧
         ((∃ u ∈ us, u ≠ 0) → fld h 0 10 ≠ d.rxSeq + 1 → drop) ∧
         ((∃ u ∈ us, u ≠ 0) → fld h 0 10 = d.rxSeq + 1 →
           (parseUnits us 0 d.partial_ none [] = none → drop) ∧
           (∀ ws rest first, parseUnits us 0 d.partial_ none [] = some (ws, rest, first) →
             ((fld h 48 6 : BitVec 6).toNat ≠ first.getD 63 → drop) ∧
             ((fld h 48 6 : BitVec 6).toNat = first.getD 63 →
               exec (.flit n b) s = outcome (do ws.forM (receive n); modify settlePause) (acceptFlit n (fld h 0 10) ws rest (takeHeader n h s)) ∧
               (ws = [] → s.porch.direct = none → ends (.flit n b) fun _ e =>
                 e.rxSeq = d.rxSeq + 1 ∧ e.rxflit = d.rxflit + 1 ∧ e.partial_ = rest ∧ credits e)))))) ∧
     (mustSend d = false → exec (.flitKeepalive n) s = .next s) ∧
     (mustSend d = true → s.inReset = false → s.porch.direct = none → ends (.flitKeepalive n) fun _ e =>
       e.nakOut = false ∧ e.l1 = false ∧ e.owed = d.owed.map (· - 63) ∧
       (d.tx = [] → d.txRest = [] → e.txSeq = d.txSeq ∧ e.unacked = d.unacked ∧ e.credits = d.credits)))

/-- R543, R545, R548, R549, R551, R552, R60: what the home of a line, or the device, answers to each request of another node, where nothing
else has the line; only a node whose INIT had CAP[0] takes part in coherence (R536). R543, R545, R547: a write waits at its home for its
data, which then reaches memory and is answered; data may also come first. A message ends its doorway's L1 (R530). That a flush of zeros records the sender as the owner, that a
WbLine of a die that the directory does not hold is dropped, an Atomic's operand words, and the STATUS of a bad device request are the
model's readings (log entries 65, 66, 67, 80). -/
def Obligations.HomesAnswerRequests : Prop :=
  (∀ (s : State) (n : Fin 8) (m : ThMsg), Linked n m s →
     let a := m.addr.toNat
     let l := a / 64
     let x := viewLine s m.polder l
     let u := countRd l s
     let z := ThMsg.zero
     let cmp (st : BitVec 4) (u : State) (i : Instr) : Prop := answersBy n m 1 1 { z with status := st } u s i
     let someU (f : State → Prop) (g : State → Prop) : Prop := ∃ u, f u ∧ g u
     let own (d : Fin 4) (u : State) : Prop := dirOf u l = ⟨some d, 0⟩ ∧ holdings u l = []
     (QuietLine a s →
       (∀ d, cohDie s m = some d →
         answersBy n m 3 2 { z with line := x } (setDir l ⟨some d, 0⟩ u) s (.rdshared n m) ∧
         someU (fun u => answersBy n m 3 3 { z with line := x } u s (.rdown n m)) (own d) ∧
         someU (fun u => answersBy n m 3 3 { z with line := x } u s (.upgrade n m)) (own d)) ∧
       answersBy n m 3 4 { z with line := x } u s (.rdcur n m) ∧
       (m.subop.toNat ≤ 9 → (m.size = 2 ∨ m.size = 3) → a % 2 ^ m.size.toNat = 0 →
         let k := 2 ^ m.size.toNat
         let old : Word := BitVec.ofNat 64 (fromLe (viewBytes s m.polder a k))
         someU (fun u => answersBy n m 1 4 { z with op0 := old } u s (.thAtomic n m)) fun u =>
           ∀ bs, amoBytes m.subop.toNat (m.size = 3) old m.op0 m.op1 = some bs → viewBytes u m.polder a bs.length = bs) ∧
       (s.isDirty l = false → m.subop.toNat ≤ 3 → someU (fun u => cmp 0 u (.thFlush n m)) fun u =>
         (m.subop.toNat ≤ 2 → u.mem.bytes = s.mem.bytes) ∧ (m.subop = 3 → ∀ d, cohDie s m = some d → own d u))) ∧
     (s.ownMem a = true → (3 < m.subop.toNat → cmp 4 s (.thFlush n m)) ∧ (9 < m.subop.toNat → cmp 4 s (.thAtomic n m)) ∧
       (cohDie s m = none → cmp 4 s (.rdshared n m) ∧ cmp 4 s (.rdown n m) ∧ cmp 4 s (.upgrade n m) ∧ cmp 4 s (.evict n m)) ∧
       ∀ d, cohDie s m = some d → someU (fun u => cmp 0 u (.evict n m)) fun u => u.mem.bytes = s.mem.bytes ∧ (dirOf u l).owner ≠ some d ∧
         (dirOf u l).sharers.getLsbD d.val = false) ∧
     (s.ownMem a = false → cmp 3 s (.rdshared n m) ∧ cmp 3 s (.rdown n m) ∧ cmp 3 s (.upgrade n m) ∧ cmp 3 s (.rdcur n m) ∧ cmp 3 s (.evict n m) ∧
       cmp 3 s (.thAtomic n m) ∧ cmp 3 s (.thFlush n m)) ∧
     (let k := 2 ^ m.size.toNat
       let bad : Prop := 3 < m.size.toNat ∨ a % k ≠ 0
       let dev (r : ThMsg) (op : BitVec 6) (t : State) (i : Instr) : Prop := exec i s = .next (respond m 1 op r t)
       (bad → dev { z with status := 4 } 1 s (.devrd n m) ∧ dev { z with status := 4 } 1 s (.devwr n m)) ∧
       (∀ e o, ¬ bad → place a = .ctl e o →
         (s.ownDie e = true → ctlAssigned o = true → dev { z with op0 := BitVec.ofNat 64 (ctlLoad s o k m.polder m.tr) } 3 s (.devrd n m)) ∧
         (s.ownDie e = true → ctlAssigned o = true → rangeOpAt o k = none → ∀ t, t.porch.direct = none →
           regWrite .host o k (BitVec.ofNat 64 (m.op0.toNat % 256 ^ k)) m.polder m.tr s = .ok () t → ∀ i : Fin 16, i.val = (o - 0x410000) / 0x1000 % 16 →
             let fires : Prop := isStep o k = true ∧ (s.shard i).state ≠ .arming ∧ (t.shard i).state = .arming
             (¬ fires → dev { z with status := 0 } 1 t (.devwr n m)) ∧
             (fires → exec (.devwr n m) s = .next (t.setShard i { t.shard i with stepFar := some m }))) ∧
         ((s.ownDie e = false ∨ ctlAssigned o = false) → dev { z with status := 3 } 1 s (.devrd n m) ∧ dev { z with status := 3 } 1 s (.devwr n m)))) ∧
     exec (.int n m) s = .next (irteMessage (fld m.op0 0 10 : BitVec 10).toFin s) ∧
     exec (.incupd n m) s = .next { s with th := { s.th with
       incs := mset 0 s.th.incs (2048 * n.val + 256 * m.src.toNat + m.port.toNat) m.inc } }) ∧
  (∀ (s : State) (n : Fin 8) (m w : ThMsg) (d : Fin 4), linked n s = true → s.doors[n.val].l1 = false → s.th.txns = [] → s.th.ints = [] →
     s.porch.direct = none → s.power.inQuiet = false → s.power.rootOff = false → (∀ o, s.th.node = some o → o ≠ d) →
     (s.gate (0x38 + n.val)).open_ = true → stale s n m = false → cohDie s m = some d → w.src = m.src → w.tag = m.tag → s.ownMem w.addr.toNat = true →
     let l := w.addr.toNat / 64
     let z := ThMsg.zero
     let byte (i : Nat) : Byte := m.line.extractLsb' (8 * i) 8
     let inbox := s.doors[n.val].inbox
     (s.th.queued = [] → inbox = [] → s.ownMem m.addr.toNat = true →
       ∀ x ∈ [((5 : BitVec 6), Instr.wrline n m), (6, .wrpart n m), (8, .wbline n m)], ∃ t, exec x.2 s = .next t ∧
         t.th.queued = [(n, ⟨0, x.1, m⟩)] ∧ t.mem = s.mem ∧ t.doors[n.val].inbox = []) ∧
     (s.th.queued = [] → inbox = [] → ∀ x ∈ [((5 : BitVec 6), Instr.datawr n m), (6, .datapart n m), (7, .datawb n m)], ∃ t, exec x.2 s = .next t ∧
         t.th.queued = [] ∧ t.mem = s.mem ∧ t.doors[n.val].inbox = [⟨3, x.1, m⟩]) ∧
     (s.th.queued = [(n, ⟨0, 5, w⟩)] → inbox = [] → QuietLine w.addr.toNat s → ∃ u, answersBy n w 1 1 { z with status := 0 } u s (.datawr n m) ∧
       ∀ i < 64, viewByte u w.polder (64 * l + i) = byte i) ∧
     (s.th.queued = [(n, ⟨0, 6, w⟩)] → inbox = [] → QuietLine w.addr.toNat s → ∃ u, answersBy n w 1 1 { z with status := 0 } u s (.datapart n m) ∧
       ∀ i < 64, viewByte u w.polder (64 * l + i) = if m.mask.getLsbD i then byte i else viewByte s w.polder (64 * l + i)) ∧
     (s.th.queued = [(n, ⟨0, 8, w⟩)] → inbox = [] → s.lost w.addr.toNat = true → ∃ u, answersBy n w 1 1 { z with status := 2 } u s (.datawb n m) ∧
       dirOf u l = dirOf (dirRemove d l s) l ∧ u.mem.bytes = s.mem.bytes) ∧
     (s.th.queued = [(n, ⟨0, 8, w⟩)] → inbox = [] → s.lost w.addr.toNat = false →
       (dirOf s l = ⟨some d, 0⟩ → ∃ u, answersBy n w 1 1 { z with status := 0 } u s (.datawb n m) ∧ dirOf u l = DirEntry.none ∧
         ∀ i < 64, viewByte u w.polder (64 * l + i) = byte i) ∧
       (dirOf s l = DirEntry.none → ∃ u, answersBy n w 1 1 { z with status := 0 } u s (.datawb n m) ∧ u.mem = s.mem))) ∧
  ∀ (s : State) (n : Fin 8) (m : ThMsg), linked n s = true →
    (endL1 n s).doors[n.val].l1 = false ∧
    ∀ i ∈ [Instr.rdshared n m, .rdown n m, .upgrade n m, .rdcur n m, .wrline n m, .wrpart n m, .evict n m, .wbline n m, .thAtomic n m, .thFlush n m,
        .devrd n m, .devwr n m, .int n m, .incupd n m, .datawr n m, .datapart n m, .datawb n m], exec i s = exec i (endL1 n s)

/-- R436, R442, R543, R545 to R547, R552: answers reach the requests that they belong to, and lines granted come into the caches; snoops are
answered from the die's state of the line, but for a dirty copy that is uncorrectable, which is lost (log entry 109), and snoop answers
move the transaction that waits for them. A message ends its doorway's L1 (R530). The owner that answers a read's snoop with I has a WbLine or an Evict on its way: the
transaction waits for it, and a line granted to an instruction that has given its request up comes all the same (log entries 30, 66). -/
def Obligations.AnswersAndSnoops : Prop :=
  (∀ (s : State) (n : Fin 8) (m : ThMsg), linked n s = true → s.doors[n.val].l1 = false → (s.gate (0x38 + n.val)).open_ = true → s.porch.direct = none →
    s.th.queued = [] → s.th.ints = [] →
    let z := ThMsg.zero
    let l := m.addr.toNat / 64
    let answered (st : BitVec 4) (x : BitVec 512) : State := { s with th := { s.th with reqs := s.th.reqs.map fun r =>
      if r.node = m.src && r.tag = m.tag && r.answer.isNone then { r with answer := some (st, x) } else r } }
    let shut (q : Req) : Gate := let g := mget Gate.closed s.coff.gates q.port.toNat; { g with drop := satInc g.drop }
    let late (q : Req) : State := { s with
      th := { s.th with reqs := s.th.reqs.filter fun r => !(r.node = m.src && r.tag = m.tag && r.answer.isNone) },
      coff := { s.coff with gates := mset Gate.closed s.coff.gates q.port.toNat (shut q) } }
    let runsTo (i : Instr) (t : State) : Prop := exec i s = .next t
    let replies (cls : BitVec 2) (op : BitVec 6) (r : ThMsg) (u : State) (i : Instr) : Prop := exec i s = .next (respond m cls op r u)
    (reqOf m s = none → ∀ i ∈ [Instr.cmp n m, .gntm n m, .devdata n m, .atmdata n m, .datas n m, .datae n m, .datam n m, .datacur n m], runsTo i s) ∧
    (∀ q, reqOf m s = some q → q.late s = true → ∀ i ∈ [Instr.cmp n m, .devdata n m, .atmdata n m, .datacur n m], runsTo i (late q)) ∧
    (∀ q, reqOf m s = some q → q.late s = false → q.unit.unwaited = false →
      runsTo (.cmp n m) (answered m.status 0) ∧ runsTo (.devdata n m) (answered 0 (m.op0.setWidth 512)) ∧
      runsTo (.atmdata n m) (answered 0 (m.op0.setWidth 512)) ∧ runsTo (.datacur n m) (answered 0 m.line) ∧
      ∀ c : CoreId, q.unit = .core c → takesLines c s = true → (q.op = 1 ∨ q.op = 2 ∨ q.op = 3) → s.ownMem q.addr = false → q.addr % 64 = 0 →
        let line := q.addr / 64
        let comes (i : Instr) (st : Moesi) (x : BitVec 512) : Prop := ∃ t, exec i s = .next t ∧ coreHolds (t.core c) line = some st ∧
          lineData t line = x ∧ ∀ r ∈ t.th.reqs, r.node = m.src → r.tag = m.tag → r.unit = q.unit → r.answer.isSome = true
        (holdings s line = [] → comes (.datas n m) .s m.line ∧ comes (.datae n m) .e m.line ∧ comes (.datam n m) .m m.line) ∧
        (coreHolds (s.core c) line = some .s → comes (.gntm n m) .m (lineData s line))) ∧
    (let st := dieHolds s l
      let dirty : Prop := st = some .m ∨ st = some .o
      let x := lineData s l
      mget none s.mem.arrays l = none → (dirty → s.spoilt l = true → ∀ i ∈ [Instr.snpinv n m, .snpshr n m, .snpdown n m, .snpcur n m],
        replies 1 5 { z with state := 0 } (loseDirty 0 l s) i) ∧ (s.spoilt l = false →
      (st = none → replies 1 5 { z with state := 0 } s (.snpinv n m) ∧ replies 1 5 { z with state := 0 } s (.snpcur n m)) ∧
      ((st = some .s ∨ st = some .e) →
        (∃ u, replies 1 5 { z with state := 0 } u (.snpinv n m) ∧ holdings u l = []) ∧ replies 1 5 { z with state := 1 } (shareCopies l s) (.snpshr n m) ∧
        replies 1 5 { z with state := 1 } (shareCopies l s) (.snpdown n m)) ∧
      (dirty → (∃ u, replies 3 8 { z with line := x } u (.snpinv n m) ∧ holdings u l = []) ∧ replies 3 9 { z with line := x } (shareCopies l s) (.snpshr n m) ∧
        replies 1 5 { z with state := 3 } (shareCopies l s) (.snpdown n m) ∧ replies 3 10 { z with line := x } s (.snpcur n m)))) ∧
    ∀ (d : Fin 4) (t : Txn), m.src = BitVec.ofNat 3 d.val → s.th.txns = [t] →
      let me : BitVec 3 × BitVec 12 := (BitVec.ofNat 3 d.val, m.tag)
      let rest := t.snoops.filter fun p => !(p.1 = me.1 && p.2 = me.2)
      let goneBy (state : BitVec 3) : Bool := t.op = 1 && (dirOf s t.line).owner = some d && state = 0
      let moved (state : BitVec 3) (u : State) : State := match state.toNat with
        | 0 => dirRemove d t.line u
        | 1 => dirShare d t.line (dirRemove d t.line u)
        | _ => u
      let goes (i : Instr) (u : State) (data : Option (BitVec 512)) (left : Bool) : Prop :=
        runsTo i { u with th := { u.th with txns := [{ t with snoops := rest, data := data, left := left }] } }
      (me ∉ t.snoops → runsTo (.snpack n m) s ∧ runsTo (.datasnpi n m) s ∧ runsTo (.datasnpo n m) s ∧ runsTo (.datasnpkeep n m) s) ∧
      (me ∈ t.snoops → rest ≠ [] →
        (goneBy m.state = false → goes (.snpack n m) (moved m.state s) t.data t.left) ∧ goes (.datasnpi n m) (moved 0 s) (some m.line) t.left ∧
        goes (.datasnpo n m) s (some m.line) t.left ∧ goes (.datasnpkeep n m) s (some m.line) t.left) ∧
      (me ∈ t.snoops → goneBy m.state = true → goes (.snpack n m) s t.data true) ∧
      (me ∈ t.snoops → rest = [] → t.left = false → bit s.porch.mirror 0 = false →
        (goneBy m.state = false → ∃ u, runsTo (.snpack n m) u ∧ u.th.txns = []) ∧
        ∀ i ∈ [Instr.datasnpi n m, .datasnpo n m, .datasnpkeep n m], ∃ u, runsTo i u ∧ u.th.txns = [])) ∧
  ∀ (s : State) (n : Fin 8) (m : ThMsg), linked n s = true →
    ∀ i ∈ [Instr.cmp n m, .gntm n m, .devdata n m, .atmdata n m, .snpack n m, .snpinv n m, .snpshr n m, .snpdown n m, .snpcur n m, .datas n m,
        .datae n m, .datam n m, .datacur n m, .datasnpi n m, .datasnpo n m, .datasnpkeep n m], exec i s = exec i (endL1 n s)

/-- R573, R574, R252, R16 to R18, R443, R578: the test-access commands, the self-test of a core's unit, stores to registers that have no row
of their own, and pumphouse words that trigger nothing. That EXTEST drives
from the port's own register only is the model's choice (log entry 82). -/
def Obligations.TestAccessAndRegisterStores : Prop :=
  ∀ (s : State) (c : CoreId) (outputs : BitVec 2) (by_ : Writer) (v : Word) (w : BitVec 32) (off : BitVec 24) (size : Nat),
    let ends (i : Instr) (f : State → Prop) : Prop := ∃ t, exec i s = .next t ∧ f t
    let store (o : BitVec 24) : Instr := .registerWrite by_ o 8 v
    exec .idcode s = .next { s with tap := ⟨.idcode, Config.tapIdcode.setWidth 64⟩ } ∧
    exec .bypass s = .next { s with tap := ⟨.bypass, 0⟩ } ∧
    (ends .samplePreload fun t => t.tap.ir = .samplePreload ∧ t.mem = s.mem ∧ t.cores = s.cores) ∧
    (s.inReset = true → exec (.extest outputs) s = .next { s with tap := ⟨.extest, outputs.setWidth 64⟩ }) ∧
    (s.inReset = false → exec (.extest outputs) s = .next { s with tap := ⟨.bypass, 0⟩ }) ∧
    (hasLvu s.variant = false → exec (.lvuSelfTest c true) s = .next s) ∧
    (hasLvu s.variant = true → s.inReset = false → s.present c = true → s.offline c = false → canPause s c = true →
      ((s.core c).vuFailed = false → ends (.lvuSelfTest c true) fun t => (t.core c).vuOn = true ∧ (t.core c).vcount = 0 ∧ (t.core c).v = Vector.replicate 32 0 ∧
        (t.core c).g = (s.core c).g) ∧
      ((s.core c).vuFailed = true → ends (.lvuSelfTest c true) fun t => (t.core c).vuOn = false ∧ (t.core c).vuFailed = true) ∧
      (ends (.lvuSelfTest c false) fun t => (t.core c).vuOn = false ∧ (t.core c).vuFailed = true ∧ (t.core c).g = (s.core c).g ∧
        (noEvents s → s.coff.dieStop = false → bit s.porch.mirror 0 = false → noMirrorWrite s → t.coff.nSev = s.coff.nSev + 1))) ∧
    (s.inReset = true → exec (.registerWrite by_ off size v) s = .next s) ∧
    (off.toNat % size ≠ 0 → exec (.registerWrite by_ off size v) s = .next s) ∧
    (s.inReset = false → off.toNat % size = 0 → writerShut by_ s = true → exec (.registerWrite by_ off size v) s = .next (gated by_ id s)) ∧
    (s.inReset = false → by_ ≠ .hatch → writerShut by_ s = false → noMirrorWrite s → s.porch.direct = none → noEvents s → s.porch.cmdPi = s.porch.cmdCi →
      exec (store 0x010028) s = .next { s with porch := { s.porch with mirror := v &&& 0xFFFFFFFFFE001 } } ∧
      exec (store 0x010030) s = .next { s with porch := { s.porch with hostIrq := v &&& 0xFFFF0001 } } ∧
      exec (store 0x020020) s = .next { s with pump := { s.pump with ecc := fld v 0 16 } } ∧
      (s.present 0 = true → s.offline 0 = false → exec (store 0x100008) s = .next (s.modCore 0 fun k => { k with rvec := v &&& 0xFFFFFFFFFFFFC })) ∧
      exec (store 0x000008) s = .next s ∧
      (off.toNat < 0x18000 → off.toNat % 4 = 0 → exec (.registerWrite by_ off 4 v) s = .next s)) ∧
    ∀ port x, PhWord w port x s → phTriggers port = false → ptrClash (phValues w s) = none →
      exec (.move w) s = phGoes 1 w (phBefore w s) s

/-- A step takes the command at the front of the queue and performs it with the queue's rest. -/
def Obligations.StepRunsFrontCommand : Prop :=
  ∀ (s : State) (i : Instr) (rest : List Instr), step { s with pending := i :: rest } = exec i { s with pending := rest }

/-- The commands change everything but the queue: a step leaves the rest of it as it was. On an empty queue a step lets one LTIME tick pass
where the root PLL has locked, runs and is out of reset, and changes nothing else: the model's choice (log entry 8). -/
def Obligations.QueueConsumedAndIdleTick : Prop :=
  (∀ (s t : State) (i : Instr) (rest : List Instr), s.pending = i :: rest → step s = .next t → t.pending = rest) ∧
  (∀ s : State, s.pending = [] →
     (s.power.rootLock = true ∧ s.power.rootOff = false ∧ s.inReset = false → step s = .next { s with ltime := s.ltime + 1 }) ∧
     (s.power.rootLock = false ∨ s.power.rootOff = true ∨ s.inReset = true → step s = .next s))

/-- Memory, every core's strongroom SRAM and the pumphouse's code and data SRAM keep their canonical form at every step, whatever the
command. -/
def Obligations.StepKeepsMemoryCanonical : Prop :=
  ∀ s t : State, s.memWf = true → step s = .next t → t.memWf = true

/-- After reset every memory is in canonical form, no command waits, and no line is lost or dirty (R581: memory reads zero). R477: a cold
and a warm die reset set the pumphouse's PC, stacks, flags, HATCHPG and LOCK; a core reset leaves the pumphouse as it is. -/
def Obligations.ResetIsCanonical : Prop :=
  State.reset.memWf = true ∧ Memory.wf State.reset.mem.bytes = true ∧ State.reset.pending = [] ∧ State.reset.mem.bytes = [] ∧
    State.reset.mem.stale = [] ∧ State.reset.coff.lpt = [] ∧
    ∀ (s : State) (powerOn keep : Bool) (cause : BitVec 2) (c : CoreId),
      (∀ p : Pump, p = (coldClear powerOn s).pump ∨ p = (warmClear cause s).pump →
        p.pc = 0xF000 ∧ p.rstack = [] ∧ p.dsp = 0xE000 ∧ p.flags = 0 ∧ p.hatchPg = 0 ∧ p.lock = false) ∧
      (resetCore c keep s).pump = s.pump

/-- R47 to R54: a register-only integer instruction of a ready core changes one general register of that core: every other register of the
file, every other core, and every byte of memory, under any polder's tag, reads as before. R58, R308, R330: a store to a held line
changes the bytes that it stores and no others: under the core's own tag every other byte of memory reads as before, and so does every
byte of every other line under any tag. -/
def Obligations.RegisterAndStoreFrames : Prop :=
  (∀ (s t : State) (c : CoreId) (d a b : Reg) (o : BitVec 12) (sh : BitVec 6) (i : Instr), Ready c s →
     i ∈ [Instr.add c d a b, .sub c d a b, .and c d a b, .or c d a b, .xor c d a b, .sll c d a b, .srl c d a b, .sra c d a b, .slt c d a b,
       .sltu c d a b, .mul c d a b, .div c d a b, .rem c d a b, .addi c d a o, .slli c d a sh] → exec i s = .next t →
     (∀ r, r ≠ d → t.g c r = s.g c r) ∧ (∀ c', c' ≠ c → t.core c' = s.core c') ∧ (t.core c).status = (s.core c).status ∧
       (t.core c).sram = (s.core c).sram ∧ (t.core c).f = (s.core c).f ∧ (t.core c).fstat = (s.core c).fstat ∧
       ∀ (tag : BitVec 12) (x : Nat), viewByte t tag x = viewByte s tag x) ∧
  (∀ (s t : State) (c : CoreId) (r a : Reg) (o : BitVec 12) (n : Nat) (i : Instr), Ready c s →
     (∀ l ∈ linesAt (s.g c a + o.signExtend 64).toNat n, s.plain (s.core c).polder l = true) → (n, i) ∈ [(1, Instr.sb c r a o), (2, .sh c r a o), (4, .sw c r a o), (8, .sd c r a o)] → HeldAccess c (s.g c a + o.signExtend 64).toNat n s →
     (∀ l ∈ linesAt (s.g c a + o.signExtend 64).toNat n, coreHolds (s.core c) l = some .m) → exec i s = .next t →
     let p := (s.g c a + o.signExtend 64).toNat
     (∀ x, (x < p ∨ p + n ≤ x) → viewByte t (s.core c).polder x = viewByte s (s.core c).polder x) ∧
     (∀ tag x, x / 64 ∉ linesAt p n → viewByte t tag x = viewByte s tag x) ∧ (∀ q, t.g c q = s.g c q) ∧
     viewBytes t (s.core c).polder p n = toLe n (s.g c r).toNat)
end

