-- ==== Sys2Proof/Laws/Monad.lean ====
section
/-! SUPPORT. How an operation of `M` runs on a state: one equation per primitive. -/

namespace Sys2Proof
namespace Machine

variable {α β : Type}

@[simp] theorem pure_run (a : α) (s : State) : (pure a : M α) s = .ok a s := rfl
@[simp] theorem bind_run (m : M α) (f : α → M β) (s : State) :
    (m >>= f) s = match m s with | .ok a t => f a t | .error e t => .error e t := by
  simp only [bind, EStateM.bind]
  cases m s <;> rfl
@[simp] theorem get_run (s : State) : (get : M State) s = .ok s s := rfl
@[simp] theorem set_run (t s : State) : (set t : M PUnit) s = .ok ⟨⟩ t := rfl
@[simp] theorem modify_run (f : State → State) (s : State) : (modify f : M PUnit) s = .ok ⟨⟩ (f s) := rfl
@[simp] theorem raise_run (cause : BitVec 8) (sub : BitVec 4) (a : Option Word) (s : State) :
    (raise cause sub a : M α) s = .error (.exc ⟨cause, sub, a⟩) s := rfl
@[simp] theorem await_run (s : State) : (await : M α) s = .error .wait s := rfl
@[simp] theorem ite_run (p : Prop) [Decidable p] (m n : M α) (s : State) : (if p then m else n) s = if p then m s else n s := by
  split <;> rfl

@[simp] theorem map_run (f : α → β) (m : M α) (s : State) :
    (f <$> m) s = match m s with | .ok a t => .ok (f a) t | .error e t => .error e t := by
  simp only [Functor.map, EStateM.map]
  cases m s <;> rfl

/-- A bind whose first part ends normally. -/
theorem bind_ok {m : M α} {f : α → M β} {s t : State} {a : α} (h : m s = .ok a t) : (m >>= f) s = f a t := by simp [h]

/-- A bind whose first part does not. -/
theorem bind_error {m : M α} {f : α → M β} {s t : State} {e : Exit} (h : m s = .error e t) : (m >>= f) s = .error e t := by simp [h]

/-- An agent's operation that ends normally. -/
theorem outcome_ok {m : M Unit} {s t : State} (h : m s = .ok () t) : outcome m s = .next t := by simp [outcome, h]

end Machine
end Sys2Proof
end

