-- ==== Sys2Proof/Laws/Access.lean ====
section
/-! SUPPORT. Aligned scalar accesses of a core to the strongroom SRAM and to a line that its L2 holds. -/

namespace Sys2Proof
namespace Machine

/-- The strongroom SRAM's part of the address space (R269, R576). -/
theorem place_sram {a : Nat} (h1 : 0xFFC0000000000 ≤ a) (h2 : a < 0xFFC0000040000) : place a = .sram (a - 0xFFC0000000000) := by
  have e1 : ¬ a < 0x10000000000 := by omega
  have e2 : (decide (0x1000000000000 ≤ a) && decide (a < 0x2000000000000)) = false := by simp; omega
  have e3 : (decide (0xFF00000000000 ≤ a) && decide (a < 0xFF00004000000)) = false := by simp; omega
  have e4 : (decide (0xFF80000000000 ≤ a) && decide (a < 0xFF80400000000)) = false := by simp; omega
  have e5 : (decide (0xFFC0000000000 ≤ a) && decide (a < 0xFFC0000040000)) = true := by simp; omega
  unfold place
  simp only [e1, e2, e3, e4, e5, if_false, if_true, Bool.false_eq_true]

/-- Package memory's part of the address space (R576). -/
theorem place_mem {a : Nat} (h : a < 0x10000000000) : ∃ d, place a = .mem d := by
  unfold place
  simp only [h, if_true]
  exact ⟨_, rfl⟩

/-- A naturally aligned access lies in one line. -/
theorem splitLines_aligned {a n : Nat} (hn : 0 < n) (h64 : n ∣ 64) (ha : a % n = 0) : splitLines a n = [(a, n)] := by
  obtain ⟨k, hk⟩ := h64
  obtain ⟨q, hq⟩ : n ∣ a % 64 := by
    apply Nat.dvd_of_mod_eq_zero
    rw [Nat.mod_mod_of_dvd a ⟨k, hk⟩, ha]
  have hlt : n * q < n * k := by rw [← hq, ← hk]; exact Nat.mod_lt _ (by omega)
  have hstep : n * (q + 1) ≤ n * k := Nat.mul_le_mul_left _ (Nat.lt_of_mul_lt_mul_left hlt)
  have hin : Nat.min n (64 - a % 64) = n := Nat.min_eq_left (by rw [Nat.mul_add] at hstep; omega)
  unfold splitLines pieces
  simp only [hin, Nat.sub_self, if_neg (show ¬ n = 0 by omega)]
  congr 1

/-- The window of R271 does not bind PL2 and PL3. -/
theorem srwinOk_of_level {k : Core} (h : k.pl.ult 2 = false) (o n : Nat) : k.srwinOk o n = true := by
  unfold Core.srwinOk
  rw [h]
  rfl

/-- The one piece of an access to the strongroom SRAM. -/
theorem checkPiece_sram {c : CoreId} {s : State} {a n : Nat} {need : Need} (h : SramAccess c a n s) (hn : 0 < n) :
    checkPiece c false need a n s =
      .ok ⟨a, a, n, if (s.core c).srm then 0 else (s.core c).polder, .sram (a - 0xFFC0000000000), false⟩ s := by
  have hp : place a = .sram (a - 0xFFC0000000000) := place_sram h.base (by have := h.top; omega)
  unfold checkPiece
  rcases h.reach with h2 | ⟨h2, h3⟩
  · have hs := h2.outside
    have hl : (s.core c).pl.ult 2#2 = false := h2.level
    have hw := srwinOk_of_level hl (a - 0xFFC0000000000) n
    simp [hs, hl, kindOf, hp, hw]
  · simp [h2, hp, h3]

/-- The one piece of an access to package memory at PL2 or PL3. -/
theorem checkPiece_mem {c : CoreId} {s : State} {a n : Nat} {need : Need} (h : Physical c s) (hp : a < 0x10000000000) :
    checkPiece c false need a n s = .ok ⟨a, a, n, (s.core c).polder, .norm, false⟩ s := by
  obtain ⟨d, hd⟩ := place_mem hp
  have hs := h.outside
  have hl : (s.core c).pl.ult 2#2 = false := h.level
  unfold checkPiece
  simp [hs, hl, kindOf, hd, devPlace]

/-- An aligned access in physical space passes the alignment checks and has one piece. -/
theorem checkAll_one {c : CoreId} {s : State} {a n : Nat} {need : Need} {p : Piece} (ha : a < 2 ^ 64) (hn : 0 < n) (h64 : n ∣ 64)
    (hal : a % n = 0) (h : checkPiece c false need a n s = .ok p s) : checkAll c need a n s = .ok [p] s := by
  unfold checkAll
  have hm : a % 18446744073709551616 = a := Nat.mod_eq_of_lt ha
  simp [splitLines_aligned hn h64 hal, hm, h]

theorem alignCheck_ok {c : CoreId} {s : State} {a n : Nat} (h : a % n = 0) : alignCheck c a n s = .ok () s := by
  unfold alignCheck
  simp [h]

theorem deviceAlign_ok {s : State} {a n : Nat} {ps : List Piece} (h : a % n = 0) : deviceAlign a n ps s = .ok () s := by
  unfold deviceAlign
  simp [h]

/-- A good byte of the SRAM range is readable. -/
theorem sramBad_none {c : CoreId} {s : State} {a n : Nat} (h : InSram c a n s) : (s.core c).sramFault (a - 0xFFC0000000000) n = none := by
  unfold Core.sramFault
  rw [List.find?_eq_none]
  intro i hi
  rw [h.good i (List.mem_range.1 hi)]
  simp

@[simp] theorem toLe_length (n v : Nat) : (toLe n v).length = n := by
  induction n generalizing v with
  | zero => rfl
  | succ n ih => simp [toLe, ih]

/-- A read of one good piece of the SRAM. -/
theorem readPiece_sram {c : CoreId} {s : State} {a n : Nat} {tag : BitVec 12} {dev : Bool} (h : InSram c a n s) :
    readPiece c ⟨a, a, n, tag, .sram (a - 0xFFC0000000000), dev⟩ s = .ok (0, sramBytes c a n s) s := by
  have hb := sramBad_none h
  unfold readPiece
  simp only [bind_run, get_run, hb, pure_run]
  rfl

/-- A write of one piece of the SRAM. -/
theorem writePiece_sram (c : CoreId) (keep : Bool) (s : State) (a n : Nat) (tag : BitVec 12) (dev : Bool) (bs : List Byte) :
    writePiece c keep ⟨a, a, n, tag, .sram (a - 0xFFC0000000000), dev⟩ bs s = .ok 0 (sramPut c a bs s) := rfl

/-- A scalar load from the strongroom SRAM. -/
theorem loadScalar_sram {c : CoreId} {s : State} {n : Nat} {a : Word} (h : SramAccess c a.toNat n s) (hn : 0 < n) (h64 : n ∣ 64) :
    loadScalar c a n s = .ok (fromLe (sramBytes c a.toNat n s)) s := by
  have hc := checkAll_one (need := needR) a.isLt hn h64 h.aligned (checkPiece_sram h hn)
  unfold loadScalar readPieces
  simp [alignCheck_ok h.aligned, hc, deviceAlign_ok h.aligned, readPiece_sram h.toInSram]

/-- A scalar store to the strongroom SRAM. -/
theorem storeScalar_sram {c : CoreId} {s : State} {n : Nat} {a v : Word} (h : SramAccess c a.toNat n s) (hn : 0 < n) (h64 : n ∣ 64) :
    storeScalar c a n v s = .ok () (sramPut c a.toNat (toLe n v.toNat) s) := by
  have hc := checkAll_one (need := needW) a.isLt hn h64 h.aligned (checkPiece_sram h hn)
  have ht : (toLe n v.toNat).take n = toLe n v.toNat := List.take_of_length_le (by simp)
  unfold storeScalar writePieces preparePiece
  simp [alignCheck_ok h.aligned, hc, deviceAlign_ok h.aligned, ht, writePiece_sram]

/-- An access to a line with no word in error meets nothing in the arrays. -/
theorem meetArray_none {x : CacheName} {n : Nat} {s : State} (h : mget none s.mem.arrays n = none) : meetArray x n s = s := by
  unfold meetArray
  rw [h]
theorem meetArrays_none {c : CoreId} {i : Bool} {n : Nat} {s : State} (h : mget none s.mem.arrays n = none) : meetArrays c i n s = s := by
  unfold meetArrays
  simp [meetArray_none h]

/-- A sound line that the core's L2 holds is ready to be read. -/
theorem acquire_held {c : CoreId} {tag : BitVec 12} {n : Nat} {s : State} (hh : (coreHolds (s.core c) n).isSome = true)
    (hl : s.lost (64 * n) = false) (ha : mget none s.mem.arrays n = none) (hb : s.spoilt n = false) :
    acquire c tag n false s = .ok 0 (coreHit c false n s) := by
  unfold acquire acquireAs acquireLine
  simp [meetArrays_none ha, hh, hl, hb]

/-- A sound line that the core's L2 holds in M is ready to be written. -/
theorem acquire_owned {c : CoreId} {tag : BitVec 12} {n : Nat} {s : State} (hh : coreHolds (s.core c) n = some .m)
    (hl : s.lost (64 * n) = false) (ha : mget none s.mem.arrays n = none) (hb : s.spoilt n = false) :
    acquire c tag n true s = .ok 0 (coreHit c false n s) := by
  unfold acquire acquireAs acquireLine
  simp [meetArrays_none ha, hh, hl, hb]

/-- A naturally aligned access meets one line. -/
theorem linesAt_aligned {a n : Nat} (hn : 0 < n) (h64 : n ∣ 64) (ha : a % n = 0) : linesAt a n = [a / 64] := by
  obtain ⟨k, hk⟩ := h64
  obtain ⟨q, hq⟩ : n ∣ a % 64 := by
    apply Nat.dvd_of_mod_eq_zero
    rw [Nat.mod_mod_of_dvd a ⟨k, hk⟩, ha]
  have hlt : n * q < n * k := by rw [← hq, ← hk]; exact Nat.mod_lt _ (by omega)
  have hstep : n * (q + 1) ≤ n * k := Nat.mul_le_mul_left _ (Nat.lt_of_mul_lt_mul_left hlt)
  rw [Nat.mul_add] at hstep
  unfold linesAt
  rw [if_pos (by omega)]

/-- An aligned scalar load of a line that the core's L2 holds. -/
theorem loadScalar_held {c : CoreId} {s : State} {n : Nat} {a : Word} (h : HeldAccess c a.toNat n s) (ha : a.toNat % n = 0) (hn : 0 < n)
    (h64 : n ∣ 64) :
    loadScalar c a n s = .ok (fromLe (viewBytes (heldHit c a.toNat n s) (s.core c).polder a.toNat n)) (heldHit c a.toNat n s) := by
  have hl := linesAt_aligned hn h64 ha
  have hm : a.toNat / 64 ∈ linesAt a.toNat n := by simp [hl]
  have hs := h.sound _ hm
  have hc := checkAll_one (need := needR) a.isLt hn h64 ha (checkPiece_mem h.toPhysical (by have := h.package; omega))
  unfold loadScalar readPieces readPiece
  simp [alignCheck_ok ha, hc, deviceAlign_ok ha, acquire_held (h.held _ hm) (h.kept _ hm) hs.1 hs.2, heldHit, hl]

/-- An aligned scalar store into a line that the core's L2 holds in M. -/
theorem storeScalar_owned {c : CoreId} {s : State} {n : Nat} {a v : Word} (h : HeldAccess c a.toNat n s) (ha : a.toNat % n = 0)
    (hm : coreHolds (s.core c) (a.toNat / 64) = some .m) (hn : 0 < n) (h64 : n ∣ 64) :
    storeScalar c a n v s = .ok () (pokeBytes a.toNat (toLe n v.toNat) (heldHit c a.toNat n s)) := by
  have hl := linesAt_aligned hn h64 ha
  have hi : a.toNat / 64 ∈ linesAt a.toNat n := by simp [hl]
  have hs := h.sound _ hi
  have hc := checkAll_one (need := needW) a.isLt hn h64 ha (checkPiece_mem h.toPhysical (by have := h.package; omega))
  have ht : (toLe n v.toNat).take n = toLe n v.toNat := List.take_of_length_le (by simp)
  unfold storeScalar writePieces preparePiece writePiece
  simp [alignCheck_ok ha, hc, deviceAlign_ok ha, acquire_owned hm (h.kept _ hi) hs.1 hs.2, ht, heldHit, hl]

/-- The bytes of a line that a cache of this die holds are seen as they are listed (R330). -/
theorem viewByte_cached {s : State} {tag : BitVec 12} {a : Nat} (h : s.cached (a / 64) = true) : viewByte s tag a = mget 0 s.mem.bytes a := by
  unfold viewByte State.plain
  simp [h]

end Machine
end Sys2Proof
end

