-- ==== Sys2Proof/Laws/Exec.lean ====
section
/-! SUPPORT. What one instruction of a ready core comes to, said once over the shared operation `instr`. -/

namespace Sys2Proof
namespace Machine

/-- A ready core takes no event of its boundary. -/
theorem takeBoundary_ready {c : CoreId} {s : State} (h : s.boundary c = .none) : takeBoundary c s = .ok false s := by
  unfold takeBoundary
  simp [h]

/-- A ready core performs the body of an instruction. -/
theorem perform_ready {c : CoreId} {w : BitVec 32} {b : Bool} {body : M Next} {s : State} (h : Ready c s)
    (hl : (s.core c).loopEnd b = false) : perform c w b body s = body s := by
  simp only [perform, bind, EStateM.bind, get, getThe, MonadStateOf.get, EStateM.get, h.fetches, hl, Bool.false_eq_true, if_false]

/-- Sound register files are read. -/
theorem fileCheck_ready {c : CoreId} {s : State} (h : (s.core c).fileErr = none) : fileCheck c s = (true, s) := by
  unfold fileCheck
  simp [h]

/-- A ready core comes to its instruction. -/
theorem instr_runs {c : CoreId} {w : BitVec 32} {b : Bool} {body : M Next} {s : State} (h : Ready c s) :
    instr c w b body s = outcome (runInstr c w b body) s := by
  unfold instr
  simp [h.runs, h.noPause, h.noArm, fileCheck_ready h.files]

theorem loopEnd_of_not {k : Core} : k.loopEnd false = false := rfl

/-- An instruction of a ready core whose body ends normally retires. -/
theorem instr_ready {c : CoreId} {w : BitVec 32} {b : Bool} {body : M Next} {s t : State} {n : Next} (h : Ready c s)
    (hl : (s.core c).loopEnd b = false) (hn : n ≠ .stay) (hx : body s = .ok n t) : instr c w b body s = .next (retire c n t) := by
  have hp : perform c w b body s = .ok n t := (perform_ready h hl).trans hx
  have hr : runInstr c w b body s = .ok () (retire c n t) := by
    unfold runInstr
    simp only [takeBoundary_ready h.noEvent, hp]
    cases n with
    | stay => exact absurd rfl hn
    | _ => rfl
  simp [instr_runs h, outcome, hr]

/-- One that has gone part of its way stays where it is. -/
theorem instr_stays {c : CoreId} {w : BitVec 32} {b : Bool} {body : M Next} {s t : State} (h : Ready c s)
    (hl : (s.core c).loopEnd b = false) (hx : body s = .ok .stay t) : instr c w b body s = .next t := by
  have hp : perform c w b body s = .ok .stay t := (perform_ready h hl).trans hx
  have hr : runInstr c w b body s = .ok () t := by
    unfold runInstr
    simp only [takeBoundary_ready h.noEvent, hp]
  simp [instr_runs h, outcome, hr]

/-- An instruction of a ready core whose body raises an exception takes it. -/
theorem instr_raises {c : CoreId} {w : BitVec 32} {b : Bool} {body : M Next} {s t u : State} {e : Exc} (h : Ready c s)
    (hl : (s.core c).loopEnd b = false) (hx : body s = .error (.exc e) t) (ht : takeExc c e t = .ok () u) :
    instr c w b body s = .next u := by
  have hp : perform c w b body s = .error (.exc e) t := (perform_ready h hl).trans hx
  have hr : runInstr c w b body s = .ok () u := by
    unfold runInstr
    simp only [takeBoundary_ready h.noEvent, hp, ht]
  simp [instr_runs h, outcome, hr]

/-- A core that does not run ignores its instructions (log entry 5). -/
theorem instr_stopped {c : CoreId} {w : BitVec 32} {b : Bool} {body : M Next} {s : State} (h : s.runs c = false) :
    instr c w b body s = .next s := by
  unfold instr
  simp [h]

end Machine
end Sys2Proof
end

