-- ==== Sys2Proof/Laws/Tables.lean ====
section
/-! SUPPORT. Sparse tables and memory: what is read after a write, and that every operation keeps the canonical form. -/

namespace Sys2Proof
namespace Machine

variable {β : Type}

/-! ## Read after write, for any list -/

@[simp] theorem mget_nil (d : β) (a : Nat) : mget d [] a = d := rfl
theorem mget_cons (d : β) (k : Nat) (v : β) (t : Table β) (a : Nat) : mget d ((k, v) :: t) a = if a = k then v else mget d t a := rfl

@[simp] theorem mget_minsert (d x : β) (t : Table β) (a b : Nat) : mget d (minsert a x t) b = if b = a then x else mget d t b := by
  induction t with
  | nil => simp [minsert, mget]
  | cons e t ih =>
    obtain ⟨k, v⟩ := e
    simp only [minsert]
    split
    · simp only [mget]
    · split
      · rename_i h
        subst h
        simp only [mget]
        split <;> rfl
      · simp only [mget, ih]
        split
        · rename_i h1 h2 h3
          subst h3
          exact (if_neg (fun e => h2 e.symm)).symm
        · rfl

@[simp] theorem mget_merase (d : β) (t : Table β) (a b : Nat) : mget d (merase a t) b = if b = a then d else mget d t b := by
  induction t with
  | nil => simp [merase, mget]
  | cons e t ih =>
    obtain ⟨k, v⟩ := e
    simp only [merase]
    split
    · rename_i h
      subst h
      rw [ih]
      simp only [mget]
      split <;> rfl
    · rename_i h
      simp only [mget, ih]
      split
      · rename_i h2
        subst h2
        exact (if_neg (fun e => h e.symm)).symm
      · rfl

/-- A write gives its entry to a later read of its key, and leaves every other key alone. -/
@[simp] theorem mget_mset [DecidableEq β] (d : β) (t : Table β) (a b : Nat) (x : β) :
    mget d (mset d t a x) b = if b = a then x else mget d t b := by
  unfold mset
  split
  · rename_i h
    rw [mget_merase, h]
  · rw [mget_minsert]

theorem mget_mset_same [DecidableEq β] (d : β) (t : Table β) (a : Nat) (x : β) : mget d (mset d t a x) a = x := by simp
theorem mget_mset_other [DecidableEq β] (d : β) (t : Table β) {a b : Nat} (x : β) (h : b ≠ a) : mget d (mset d t a x) b = mget d t b := by
  simp [h]

/-! ## The canonical form -/

theorem twf_cons [DecidableEq β] {d : β} {lo k : Nat} {v : β} {t : Table β} :
    twf d lo ((k, v) :: t) = true ↔ lo ≤ k ∧ v ≠ d ∧ twf d (k + 1) t = true := by
  simp [twf, and_assoc]

theorem twf_mono [DecidableEq β] {d : β} {lo hi : Nat} {t : Table β} (h : twf d hi t = true) (hl : lo ≤ hi) : twf d lo t = true := by
  cases t with
  | nil => rfl
  | cons e t =>
    obtain ⟨k, v⟩ := e
    rw [twf_cons] at h ⊢
    exact ⟨Nat.le_trans hl h.1, h.2⟩

/-- A key below all of a table's keys reads as the default. -/
theorem mget_below [DecidableEq β] {d : β} {lo a : Nat} {t : Table β} (h : twf d lo t = true) (ha : a < lo) : mget d t a = d := by
  induction t generalizing lo with
  | nil => rfl
  | cons e t ih =>
    obtain ⟨k, v⟩ := e
    rw [twf_cons] at h
    rw [mget_cons, if_neg (by omega)]
    exact ih h.2.2 (by omega)

theorem twf_minsert [DecidableEq β] {d x : β} {lo a : Nat} {t : Table β} (h : twf d lo t = true) (hl : lo ≤ a) (hx : x ≠ d) :
    twf d lo (minsert a x t) = true := by
  induction t generalizing lo with
  | nil => simp [minsert, twf, hl, hx]
  | cons e t ih =>
    obtain ⟨k, v⟩ := e
    rw [twf_cons] at h
    simp only [minsert]
    split
    · rw [twf_cons, twf_cons]
      exact ⟨hl, hx, by omega, h.2⟩
    · split
      · rename_i h2
        subst h2
        exact twf_cons.2 ⟨hl, hx, h.2.2⟩
      · exact twf_cons.2 ⟨h.1, h.2.1, ih h.2.2 (by omega)⟩

theorem twf_merase [DecidableEq β] {d : β} {lo : Nat} {t : Table β} (a : Nat) (h : twf d lo t = true) : twf d lo (merase a t) = true := by
  induction t generalizing lo with
  | nil => rfl
  | cons e t ih =>
    obtain ⟨k, v⟩ := e
    rw [twf_cons] at h
    simp only [merase]
    split
    · exact twf_mono (ih h.2.2) (by omega)
    · exact twf_cons.2 ⟨h.1, h.2.1, ih h.2.2⟩

theorem twf_mset [DecidableEq β] {d : β} {t : Table β} (a : Nat) (x : β) (h : twf d 0 t = true) : twf d 0 (mset d t a x) = true := by
  unfold mset
  split
  · exact twf_merase a h
  · rename_i hx
    exact twf_minsert h (Nat.zero_le _) hx

theorem twf_mdrop [DecidableEq β] {d : β} {lo : Nat} {t : Table β} (p : Nat → Bool) (h : twf d lo t = true) : twf d lo (mdrop p t) = true := by
  induction t generalizing lo with
  | nil => rfl
  | cons e t ih =>
    obtain ⟨k, v⟩ := e
    rw [twf_cons] at h
    simp only [mdrop, List.filter]
    split
    · exact twf_cons.2 ⟨h.1, h.2.1, ih h.2.2⟩
    · exact twf_mono (ih h.2.2) (by omega)

@[simp] theorem mget_mdrop (d : β) (p : Nat → Bool) (t : Table β) (a : Nat) : mget d (mdrop p t) a = if p a then d else mget d t a := by
  induction t with
  | nil => simp [mdrop, mget]
  | cons e t ih =>
    obtain ⟨k, v⟩ := e
    unfold mdrop at ih ⊢
    simp only [List.filter]
    split
    · rename_i h
      simp only [mget, ih]
      split
      · rename_i h2
        subst h2
        simp at h
        simp [h]
      · rfl
    · rename_i h
      rw [ih, mget_cons]
      simp at h
      split
      · rfl
      · rename_i h2
        rw [if_neg]
        rintro rfl
        exact h2 h

/-- Tables in canonical form that read alike are equal. -/
theorem twf_ext [DecidableEq β] {d : β} {t u : Table β} {lo : Nat} (ht : twf d lo t = true) (hu : twf d lo u = true)
    (h : ∀ a, mget d t a = mget d u a) : t = u := by
  induction t generalizing u lo with
  | nil =>
    cases u with
    | nil => rfl
    | cons e u =>
      obtain ⟨k, v⟩ := e
      rw [twf_cons] at hu
      exact absurd (by simpa [mget] using (h k).symm) hu.2.1
  | cons e t ih =>
    obtain ⟨k, v⟩ := e
    rw [twf_cons] at ht
    cases u with
    | nil => exact absurd (by simpa [mget] using h k) ht.2.1
    | cons e u =>
      obtain ⟨k', v'⟩ := e
      rw [twf_cons] at hu
      have hk : k = k' := by
        rcases Nat.lt_trichotomy k k' with hlt | heq | hgt
        · have := h k
          rw [mget_cons, if_pos rfl, mget_cons, if_neg (by omega), mget_below hu.2.2 (by omega)] at this
          exact absurd this ht.2.1
        · exact heq
        · have := h k'
          rw [mget_cons, if_neg (by omega), mget_below ht.2.2 (by omega), mget_cons, if_pos rfl] at this
          exact absurd this.symm hu.2.1
      subst hk
      have hv : v = v' := by simpa [mget] using h k
      subst hv
      congr 1
      refine ih ht.2.2 hu.2.2 fun a => ?_
      by_cases ha : a = k
      · subst ha
        rw [mget_below ht.2.2 (by omega), mget_below hu.2.2 (by omega)]
      · simpa [mget_cons, ha] using h a

/-! ## Bytes -/

@[simp] theorem wrBytes_nil (m : List Host.Cell) (a : Nat) : wrBytes m a [] = m := rfl
@[simp] theorem rdBytes_length (m : List Host.Cell) (a n : Nat) : (rdBytes m a n).length = n := by
  induction n generalizing a with
  | zero => rfl
  | succ n ih => simp [rdBytes, ih]

theorem mget_wrBytes (m : List Host.Cell) (a b : Nat) (bs : List Byte) :
    mget 0 (wrBytes m a bs) b = if a ≤ b ∧ b < a + bs.length then bs.getD (b - a) 0 else mget 0 m b := by
  induction bs generalizing m a with
  | nil => rw [wrBytes_nil, if_neg (by simp)]
  | cons x bs ih =>
    simp only [wrBytes]
    rw [ih, mget_mset]
    by_cases hb : b = a
    · subst hb
      rw [if_neg (by omega), if_pos rfl, if_pos (by simp)]
      simp
    · by_cases h : a + 1 ≤ b ∧ b < a + 1 + bs.length
      · rw [if_pos h, if_pos (by simp only [List.length_cons]; omega)]
        obtain ⟨n, hn⟩ : ∃ n, b - a = n + 1 := ⟨b - a - 1, by omega⟩
        rw [hn, show b - (a + 1) = n by omega]
        simp
      · rw [if_neg h, if_neg hb, if_neg (by simp only [List.length_cons]; omega)]

/-- A write of bytes leaves every other byte alone. -/
theorem mget_wrBytes_other (m : List Host.Cell) {a b : Nat} (bs : List Byte) (h : b < a ∨ a + bs.length ≤ b) :
    mget 0 (wrBytes m a bs) b = mget 0 m b := by
  rw [mget_wrBytes, if_neg (by omega)]

theorem rdBytes_congr {m m' : List Host.Cell} {a n : Nat} (h : ∀ i < n, mget 0 m (a + i) = mget 0 m' (a + i)) :
    rdBytes m a n = rdBytes m' a n := by
  induction n generalizing a with
  | zero => rfl
  | succ n ih =>
    simp only [rdBytes]
    rw [show mget 0 m a = mget 0 m' a from h 0 (by omega), ih fun i hi => by
      have := h (i + 1) (by omega)
      rwa [show a + (i + 1) = a + 1 + i by omega] at this]

theorem rdBytes_wrBytes_same (m : List Host.Cell) (a : Nat) (bs : List Byte) : rdBytes (wrBytes m a bs) a bs.length = bs := by
  induction bs generalizing m a with
  | nil => rfl
  | cons x bs ih =>
    simp only [List.length_cons, rdBytes, wrBytes]
    rw [ih, mget_wrBytes, if_neg (by omega), mget_mset_same]

theorem rdBytes_wrBytes_apart (m : List Host.Cell) {a b n : Nat} (bs : List Byte) (h : b + n ≤ a ∨ a + bs.length ≤ b) :
    rdBytes (wrBytes m a bs) b n = rdBytes m b n :=
  rdBytes_congr fun i hi => mget_wrBytes_other m bs (by omega)

/-! Every memory operation keeps the canonical form. -/

@[simp] theorem Memory.wf_nil : Memory.wf [] = true := rfl
theorem Memory.wf_mset {m : List Host.Cell} (a : Nat) (x : Byte) (h : Memory.wf m = true) : Memory.wf (mset 0 m a x) = true :=
  twf_mset a x h
theorem Memory.wf_wrBytes {m : List Host.Cell} (a : Nat) (bs : List Byte) (h : Memory.wf m = true) : Memory.wf (wrBytes m a bs) = true := by
  induction bs generalizing m a with
  | nil => exact h
  | cons x bs ih => exact ih (a + 1) (Memory.wf_mset a x h)
theorem Memory.wf_mdrop {m : List Host.Cell} (p : Nat → Bool) (h : Memory.wf m = true) : Memory.wf (mdrop p m) = true := twf_mdrop p h

end Machine
end Sys2Proof
end

