-- ==== Sys2Proof/Laws/State.lean ====
section
/-! SUPPORT. The updates of State and Core: what each changes and what it leaves, so that no proof unfolds a record update. -/

namespace Sys2Proof
namespace Machine

/-! ## Reading what an update has written -/

@[simp] theorem State.core_setCore_same (s : State) (c : CoreId) (k : Core) : (s.setCore c k).core c = k := by simp [State.core, State.setCore]
@[simp] theorem State.core_setCore_other (s : State) {c c' : CoreId} (k : Core) (h : c' ≠ c) : (s.setCore c k).core c' = s.core c' := by
  have : c.val ≠ c'.val := fun e => h (Fin.ext e.symm)
  simp [State.core, State.setCore, this]
@[simp] theorem State.core_modCore_same (s : State) (c : CoreId) (f : Core → Core) : (s.modCore c f).core c = f (s.core c) :=
  State.core_setCore_same ..
@[simp] theorem State.core_modCore_other (s : State) {c c' : CoreId} (f : Core → Core) (h : c' ≠ c) : (s.modCore c f).core c' = s.core c' :=
  State.core_setCore_other _ _ h
@[simp] theorem State.setCore_core (s : State) (c : CoreId) : s.setCore c (s.core c) = s := by simp [State.core, State.setCore]
@[simp] theorem State.setCore_setCore (s : State) (c : CoreId) (k k' : Core) : (s.setCore c k).setCore c k' = s.setCore c k' := by
  simp [State.setCore]
theorem State.modCore_modCore (s : State) (c : CoreId) (f g : Core → Core) : (s.modCore c f).modCore c g = s.modCore c fun k => g (f k) := by
  simp [State.modCore]
theorem State.modCore_congr (s : State) (c : CoreId) {f g : Core → Core} (h : f (s.core c) = g (s.core c)) : s.modCore c f = s.modCore c g := by
  simp [State.modCore, h]

@[simp] theorem Core.rg_zero (k : Core) : k.rg 0 = 0 := rfl
@[simp] theorem Core.rg_wg_same (k : Core) {r : Reg} (v : Word) (h : r ≠ 0) : (k.wg r v).rg r = v := by simp [Core.wg, Core.rg, h]
@[simp] theorem Core.rg_wg_other (k : Core) {r q : Reg} (v : Word) (h : q ≠ r) : (k.wg r v).rg q = k.rg q := by
  have : r.val ≠ q.val := fun e => h (Fin.ext e.symm)
  by_cases hr : r = 0
  · simp [Core.wg, hr]
  · by_cases hq : q = 0
    · simp [Core.rg, hq]
    · simp [Core.wg, Core.rg, hr, hq, this]
/-- g0 takes no value (R36). -/
@[simp] theorem Core.wg_zero (k : Core) (v : Word) : k.wg 0 v = k := rfl
@[simp] theorem Core.rf_wf_same (k : Core) (r : Reg) (v : Word) : (k.wf r v).rf r = v := by simp [Core.wf, Core.rf]
@[simp] theorem Core.rf_wf_other (k : Core) {r q : Reg} (v : Word) (h : q ≠ r) : (k.wf r v).rf q = k.rf q := by
  have : r.val ≠ q.val := fun e => h (Fin.ext e.symm)
  simp [Core.wf, Core.rf, this]

theorem State.g_setG_same (s : State) (c : CoreId) {r : Reg} (v : Word) (h : r ≠ 0) : (s.setG c r v).g c r = v := by
  simp [State.setG, State.g, h]
theorem State.g_setG_other (s : State) (c : CoreId) {r q : Reg} (v : Word) (h : q ≠ r) : (s.setG c r v).g c q = s.g c q := by
  simp [State.setG, State.g, h]

@[simp] theorem State.irte_setIrte (s : State) (n m : Fin 1024) (v : Word) : (s.setIrte n v).irte m = if m = n then v else s.irte m := by
  simp [State.irte, State.setIrte, Fin.ext_iff]
@[simp] theorem State.qp_setQp (s : State) (q p : Nat) (x : QueuePair) : (s.setQp q x).qp p = if p = q then some x else s.qp p := by
  simp [State.qp, State.setQp]
@[simp] theorem State.region_setRegion (s : State) (i j : Nat) (r : Region) : (s.setRegion i r).region j = if j = i then r else s.region j := by
  simp [State.region, State.setRegion]
@[simp] theorem State.shard_setShard_same (s : State) (i : Fin 16) (x : Shard) : (s.setShard i x).shard i = x := by
  simp [State.shard, State.setShard]
@[simp] theorem State.shard_setShard_other (s : State) {i j : Fin 16} (x : Shard) (h : j ≠ i) : (s.setShard i x).shard j = s.shard j := by
  have : i.val ≠ j.val := fun e => h (Fin.ext e.symm)
  simp [State.shard, State.setShard, this]
@[simp] theorem State.wing_setWing_same (s : State) (w : Fin 4) (x : Wing) : (s.setWing w x).wings[w.val] = x := by simp [State.setWing]
@[simp] theorem State.slot_setSlot_same (s : State) (w n : Fin 4) (x : Slot) : (s.setSlot w n x).slot w n = x := by
  simp [State.slot, State.setSlot, State.modWing, State.setWing]
@[simp] theorem State.setBytes_bytes (s : State) (m : List Host.Cell) : (s.setBytes m).mem.bytes = m := rfl

/-! ## What an update leaves -/

@[simp] theorem State.setCore_variant (s : State) (c : CoreId) (k : Core) : (s.setCore c k).variant = s.variant := rfl
@[simp] theorem State.setCore_stepping (s : State) (c : CoreId) (k : Core) : (s.setCore c k).stepping = s.stepping := rfl
@[simp] theorem State.setCore_rooms (s : State) (c : CoreId) (k : Core) : (s.setCore c k).rooms = s.rooms := rfl
@[simp] theorem State.setCore_irtes (s : State) (c : CoreId) (k : Core) : (s.setCore c k).irtes = s.irtes := rfl
@[simp] theorem State.setCore_wings (s : State) (c : CoreId) (k : Core) : (s.setCore c k).wings = s.wings := rfl
@[simp] theorem State.setCore_mem (s : State) (c : CoreId) (k : Core) : (s.setCore c k).mem = s.mem := rfl
@[simp] theorem State.setCore_sluice (s : State) (c : CoreId) (k : Core) : (s.setCore c k).sluice = s.sluice := rfl
@[simp] theorem State.setCore_levee (s : State) (c : CoreId) (k : Core) : (s.setCore c k).levee = s.levee := rfl
@[simp] theorem State.setCore_coff (s : State) (c : CoreId) (k : Core) : (s.setCore c k).coff = s.coff := rfl
@[simp] theorem State.setCore_pump (s : State) (c : CoreId) (k : Core) : (s.setCore c k).pump = s.pump := rfl
@[simp] theorem State.setCore_porch (s : State) (c : CoreId) (k : Core) : (s.setCore c k).porch = s.porch := rfl
@[simp] theorem State.setCore_power (s : State) (c : CoreId) (k : Core) : (s.setCore c k).power = s.power := rfl
@[simp] theorem State.setCore_side (s : State) (c : CoreId) (k : Core) : (s.setCore c k).side = s.side := rfl
@[simp] theorem State.setCore_doors (s : State) (c : CoreId) (k : Core) : (s.setCore c k).doors = s.doors := rfl
@[simp] theorem State.setCore_th (s : State) (c : CoreId) (k : Core) : (s.setCore c k).th = s.th := rfl
@[simp] theorem State.setCore_telem (s : State) (c : CoreId) (k : Core) : (s.setCore c k).telem = s.telem := rfl
@[simp] theorem State.setCore_tap (s : State) (c : CoreId) (k : Core) : (s.setCore c k).tap = s.tap := rfl
@[simp] theorem State.setCore_ltime (s : State) (c : CoreId) (k : Core) : (s.setCore c k).ltime = s.ltime := rfl
@[simp] theorem State.setCore_inReset (s : State) (c : CoreId) (k : Core) : (s.setCore c k).inReset = s.inReset := rfl
@[simp] theorem State.setCore_asked (s : State) (c : CoreId) (k : Core) : (s.setCore c k).asked = s.asked := rfl
@[simp] theorem State.setCore_fresh (s : State) (c : CoreId) (k : Core) : (s.setCore c k).fresh = s.fresh := rfl
@[simp] theorem State.setCore_pending (s : State) (c : CoreId) (k : Core) : (s.setCore c k).pending = s.pending := rfl

@[simp] theorem State.modCore_variant (s : State) (c : CoreId) (f : Core → Core) : (s.modCore c f).variant = s.variant := rfl
@[simp] theorem State.modCore_stepping (s : State) (c : CoreId) (f : Core → Core) : (s.modCore c f).stepping = s.stepping := rfl
@[simp] theorem State.modCore_rooms (s : State) (c : CoreId) (f : Core → Core) : (s.modCore c f).rooms = s.rooms := rfl
@[simp] theorem State.modCore_irtes (s : State) (c : CoreId) (f : Core → Core) : (s.modCore c f).irtes = s.irtes := rfl
@[simp] theorem State.modCore_wings (s : State) (c : CoreId) (f : Core → Core) : (s.modCore c f).wings = s.wings := rfl
@[simp] theorem State.modCore_mem (s : State) (c : CoreId) (f : Core → Core) : (s.modCore c f).mem = s.mem := rfl
@[simp] theorem State.modCore_sluice (s : State) (c : CoreId) (f : Core → Core) : (s.modCore c f).sluice = s.sluice := rfl
@[simp] theorem State.modCore_levee (s : State) (c : CoreId) (f : Core → Core) : (s.modCore c f).levee = s.levee := rfl
@[simp] theorem State.modCore_coff (s : State) (c : CoreId) (f : Core → Core) : (s.modCore c f).coff = s.coff := rfl
@[simp] theorem State.modCore_pump (s : State) (c : CoreId) (f : Core → Core) : (s.modCore c f).pump = s.pump := rfl
@[simp] theorem State.modCore_porch (s : State) (c : CoreId) (f : Core → Core) : (s.modCore c f).porch = s.porch := rfl
@[simp] theorem State.modCore_power (s : State) (c : CoreId) (f : Core → Core) : (s.modCore c f).power = s.power := rfl
@[simp] theorem State.modCore_side (s : State) (c : CoreId) (f : Core → Core) : (s.modCore c f).side = s.side := rfl
@[simp] theorem State.modCore_doors (s : State) (c : CoreId) (f : Core → Core) : (s.modCore c f).doors = s.doors := rfl
@[simp] theorem State.modCore_th (s : State) (c : CoreId) (f : Core → Core) : (s.modCore c f).th = s.th := rfl
@[simp] theorem State.modCore_telem (s : State) (c : CoreId) (f : Core → Core) : (s.modCore c f).telem = s.telem := rfl
@[simp] theorem State.modCore_tap (s : State) (c : CoreId) (f : Core → Core) : (s.modCore c f).tap = s.tap := rfl
@[simp] theorem State.modCore_ltime (s : State) (c : CoreId) (f : Core → Core) : (s.modCore c f).ltime = s.ltime := rfl
@[simp] theorem State.modCore_inReset (s : State) (c : CoreId) (f : Core → Core) : (s.modCore c f).inReset = s.inReset := rfl
@[simp] theorem State.modCore_asked (s : State) (c : CoreId) (f : Core → Core) : (s.modCore c f).asked = s.asked := rfl
@[simp] theorem State.modCore_fresh (s : State) (c : CoreId) (f : Core → Core) : (s.modCore c f).fresh = s.fresh := rfl
@[simp] theorem State.modCore_pending (s : State) (c : CoreId) (f : Core → Core) : (s.modCore c f).pending = s.pending := rfl

@[simp] theorem State.setG_variant (s : State) (c : CoreId) (r : Reg) (v : Word) : (s.setG c r v).variant = s.variant := rfl
@[simp] theorem State.setG_stepping (s : State) (c : CoreId) (r : Reg) (v : Word) : (s.setG c r v).stepping = s.stepping := rfl
@[simp] theorem State.setG_rooms (s : State) (c : CoreId) (r : Reg) (v : Word) : (s.setG c r v).rooms = s.rooms := rfl
@[simp] theorem State.setG_irtes (s : State) (c : CoreId) (r : Reg) (v : Word) : (s.setG c r v).irtes = s.irtes := rfl
@[simp] theorem State.setG_wings (s : State) (c : CoreId) (r : Reg) (v : Word) : (s.setG c r v).wings = s.wings := rfl
@[simp] theorem State.setG_mem (s : State) (c : CoreId) (r : Reg) (v : Word) : (s.setG c r v).mem = s.mem := rfl
@[simp] theorem State.setG_sluice (s : State) (c : CoreId) (r : Reg) (v : Word) : (s.setG c r v).sluice = s.sluice := rfl
@[simp] theorem State.setG_levee (s : State) (c : CoreId) (r : Reg) (v : Word) : (s.setG c r v).levee = s.levee := rfl
@[simp] theorem State.setG_coff (s : State) (c : CoreId) (r : Reg) (v : Word) : (s.setG c r v).coff = s.coff := rfl
@[simp] theorem State.setG_pump (s : State) (c : CoreId) (r : Reg) (v : Word) : (s.setG c r v).pump = s.pump := rfl
@[simp] theorem State.setG_porch (s : State) (c : CoreId) (r : Reg) (v : Word) : (s.setG c r v).porch = s.porch := rfl
@[simp] theorem State.setG_power (s : State) (c : CoreId) (r : Reg) (v : Word) : (s.setG c r v).power = s.power := rfl
@[simp] theorem State.setG_side (s : State) (c : CoreId) (r : Reg) (v : Word) : (s.setG c r v).side = s.side := rfl
@[simp] theorem State.setG_doors (s : State) (c : CoreId) (r : Reg) (v : Word) : (s.setG c r v).doors = s.doors := rfl
@[simp] theorem State.setG_th (s : State) (c : CoreId) (r : Reg) (v : Word) : (s.setG c r v).th = s.th := rfl
@[simp] theorem State.setG_telem (s : State) (c : CoreId) (r : Reg) (v : Word) : (s.setG c r v).telem = s.telem := rfl
@[simp] theorem State.setG_tap (s : State) (c : CoreId) (r : Reg) (v : Word) : (s.setG c r v).tap = s.tap := rfl
@[simp] theorem State.setG_ltime (s : State) (c : CoreId) (r : Reg) (v : Word) : (s.setG c r v).ltime = s.ltime := rfl
@[simp] theorem State.setG_inReset (s : State) (c : CoreId) (r : Reg) (v : Word) : (s.setG c r v).inReset = s.inReset := rfl
@[simp] theorem State.setG_asked (s : State) (c : CoreId) (r : Reg) (v : Word) : (s.setG c r v).asked = s.asked := rfl
@[simp] theorem State.setG_fresh (s : State) (c : CoreId) (r : Reg) (v : Word) : (s.setG c r v).fresh = s.fresh := rfl
@[simp] theorem State.setG_pending (s : State) (c : CoreId) (r : Reg) (v : Word) : (s.setG c r v).pending = s.pending := rfl

@[simp] theorem State.setF_variant (s : State) (c : CoreId) (r : Reg) (v : Word) : (s.setF c r v).variant = s.variant := rfl
@[simp] theorem State.setF_stepping (s : State) (c : CoreId) (r : Reg) (v : Word) : (s.setF c r v).stepping = s.stepping := rfl
@[simp] theorem State.setF_rooms (s : State) (c : CoreId) (r : Reg) (v : Word) : (s.setF c r v).rooms = s.rooms := rfl
@[simp] theorem State.setF_irtes (s : State) (c : CoreId) (r : Reg) (v : Word) : (s.setF c r v).irtes = s.irtes := rfl
@[simp] theorem State.setF_wings (s : State) (c : CoreId) (r : Reg) (v : Word) : (s.setF c r v).wings = s.wings := rfl
@[simp] theorem State.setF_mem (s : State) (c : CoreId) (r : Reg) (v : Word) : (s.setF c r v).mem = s.mem := rfl
@[simp] theorem State.setF_sluice (s : State) (c : CoreId) (r : Reg) (v : Word) : (s.setF c r v).sluice = s.sluice := rfl
@[simp] theorem State.setF_levee (s : State) (c : CoreId) (r : Reg) (v : Word) : (s.setF c r v).levee = s.levee := rfl
@[simp] theorem State.setF_coff (s : State) (c : CoreId) (r : Reg) (v : Word) : (s.setF c r v).coff = s.coff := rfl
@[simp] theorem State.setF_pump (s : State) (c : CoreId) (r : Reg) (v : Word) : (s.setF c r v).pump = s.pump := rfl
@[simp] theorem State.setF_porch (s : State) (c : CoreId) (r : Reg) (v : Word) : (s.setF c r v).porch = s.porch := rfl
@[simp] theorem State.setF_power (s : State) (c : CoreId) (r : Reg) (v : Word) : (s.setF c r v).power = s.power := rfl
@[simp] theorem State.setF_side (s : State) (c : CoreId) (r : Reg) (v : Word) : (s.setF c r v).side = s.side := rfl
@[simp] theorem State.setF_doors (s : State) (c : CoreId) (r : Reg) (v : Word) : (s.setF c r v).doors = s.doors := rfl
@[simp] theorem State.setF_th (s : State) (c : CoreId) (r : Reg) (v : Word) : (s.setF c r v).th = s.th := rfl
@[simp] theorem State.setF_telem (s : State) (c : CoreId) (r : Reg) (v : Word) : (s.setF c r v).telem = s.telem := rfl
@[simp] theorem State.setF_tap (s : State) (c : CoreId) (r : Reg) (v : Word) : (s.setF c r v).tap = s.tap := rfl
@[simp] theorem State.setF_ltime (s : State) (c : CoreId) (r : Reg) (v : Word) : (s.setF c r v).ltime = s.ltime := rfl
@[simp] theorem State.setF_inReset (s : State) (c : CoreId) (r : Reg) (v : Word) : (s.setF c r v).inReset = s.inReset := rfl
@[simp] theorem State.setF_asked (s : State) (c : CoreId) (r : Reg) (v : Word) : (s.setF c r v).asked = s.asked := rfl
@[simp] theorem State.setF_fresh (s : State) (c : CoreId) (r : Reg) (v : Word) : (s.setF c r v).fresh = s.fresh := rfl
@[simp] theorem State.setF_pending (s : State) (c : CoreId) (r : Reg) (v : Word) : (s.setF c r v).pending = s.pending := rfl

@[simp] theorem State.setIrte_variant (s : State) (n : Fin 1024) (v : Word) : (s.setIrte n v).variant = s.variant := rfl
@[simp] theorem State.setIrte_stepping (s : State) (n : Fin 1024) (v : Word) : (s.setIrte n v).stepping = s.stepping := rfl
@[simp] theorem State.setIrte_cores (s : State) (n : Fin 1024) (v : Word) : (s.setIrte n v).cores = s.cores := rfl
@[simp] theorem State.setIrte_rooms (s : State) (n : Fin 1024) (v : Word) : (s.setIrte n v).rooms = s.rooms := rfl
@[simp] theorem State.setIrte_wings (s : State) (n : Fin 1024) (v : Word) : (s.setIrte n v).wings = s.wings := rfl
@[simp] theorem State.setIrte_mem (s : State) (n : Fin 1024) (v : Word) : (s.setIrte n v).mem = s.mem := rfl
@[simp] theorem State.setIrte_sluice (s : State) (n : Fin 1024) (v : Word) : (s.setIrte n v).sluice = s.sluice := rfl
@[simp] theorem State.setIrte_levee (s : State) (n : Fin 1024) (v : Word) : (s.setIrte n v).levee = s.levee := rfl
@[simp] theorem State.setIrte_coff (s : State) (n : Fin 1024) (v : Word) : (s.setIrte n v).coff = s.coff := rfl
@[simp] theorem State.setIrte_pump (s : State) (n : Fin 1024) (v : Word) : (s.setIrte n v).pump = s.pump := rfl
@[simp] theorem State.setIrte_porch (s : State) (n : Fin 1024) (v : Word) : (s.setIrte n v).porch = s.porch := rfl
@[simp] theorem State.setIrte_power (s : State) (n : Fin 1024) (v : Word) : (s.setIrte n v).power = s.power := rfl
@[simp] theorem State.setIrte_side (s : State) (n : Fin 1024) (v : Word) : (s.setIrte n v).side = s.side := rfl
@[simp] theorem State.setIrte_doors (s : State) (n : Fin 1024) (v : Word) : (s.setIrte n v).doors = s.doors := rfl
@[simp] theorem State.setIrte_th (s : State) (n : Fin 1024) (v : Word) : (s.setIrte n v).th = s.th := rfl
@[simp] theorem State.setIrte_telem (s : State) (n : Fin 1024) (v : Word) : (s.setIrte n v).telem = s.telem := rfl
@[simp] theorem State.setIrte_tap (s : State) (n : Fin 1024) (v : Word) : (s.setIrte n v).tap = s.tap := rfl
@[simp] theorem State.setIrte_ltime (s : State) (n : Fin 1024) (v : Word) : (s.setIrte n v).ltime = s.ltime := rfl
@[simp] theorem State.setIrte_inReset (s : State) (n : Fin 1024) (v : Word) : (s.setIrte n v).inReset = s.inReset := rfl
@[simp] theorem State.setIrte_asked (s : State) (n : Fin 1024) (v : Word) : (s.setIrte n v).asked = s.asked := rfl
@[simp] theorem State.setIrte_fresh (s : State) (n : Fin 1024) (v : Word) : (s.setIrte n v).fresh = s.fresh := rfl
@[simp] theorem State.setIrte_pending (s : State) (n : Fin 1024) (v : Word) : (s.setIrte n v).pending = s.pending := rfl

@[simp] theorem State.setWing_variant (s : State) (w : Fin 4) (x : Wing) : (s.setWing w x).variant = s.variant := rfl
@[simp] theorem State.setWing_stepping (s : State) (w : Fin 4) (x : Wing) : (s.setWing w x).stepping = s.stepping := rfl
@[simp] theorem State.setWing_cores (s : State) (w : Fin 4) (x : Wing) : (s.setWing w x).cores = s.cores := rfl
@[simp] theorem State.setWing_rooms (s : State) (w : Fin 4) (x : Wing) : (s.setWing w x).rooms = s.rooms := rfl
@[simp] theorem State.setWing_irtes (s : State) (w : Fin 4) (x : Wing) : (s.setWing w x).irtes = s.irtes := rfl
@[simp] theorem State.setWing_mem (s : State) (w : Fin 4) (x : Wing) : (s.setWing w x).mem = s.mem := rfl
@[simp] theorem State.setWing_sluice (s : State) (w : Fin 4) (x : Wing) : (s.setWing w x).sluice = s.sluice := rfl
@[simp] theorem State.setWing_levee (s : State) (w : Fin 4) (x : Wing) : (s.setWing w x).levee = s.levee := rfl
@[simp] theorem State.setWing_coff (s : State) (w : Fin 4) (x : Wing) : (s.setWing w x).coff = s.coff := rfl
@[simp] theorem State.setWing_pump (s : State) (w : Fin 4) (x : Wing) : (s.setWing w x).pump = s.pump := rfl
@[simp] theorem State.setWing_porch (s : State) (w : Fin 4) (x : Wing) : (s.setWing w x).porch = s.porch := rfl
@[simp] theorem State.setWing_power (s : State) (w : Fin 4) (x : Wing) : (s.setWing w x).power = s.power := rfl
@[simp] theorem State.setWing_side (s : State) (w : Fin 4) (x : Wing) : (s.setWing w x).side = s.side := rfl
@[simp] theorem State.setWing_doors (s : State) (w : Fin 4) (x : Wing) : (s.setWing w x).doors = s.doors := rfl
@[simp] theorem State.setWing_th (s : State) (w : Fin 4) (x : Wing) : (s.setWing w x).th = s.th := rfl
@[simp] theorem State.setWing_telem (s : State) (w : Fin 4) (x : Wing) : (s.setWing w x).telem = s.telem := rfl
@[simp] theorem State.setWing_tap (s : State) (w : Fin 4) (x : Wing) : (s.setWing w x).tap = s.tap := rfl
@[simp] theorem State.setWing_ltime (s : State) (w : Fin 4) (x : Wing) : (s.setWing w x).ltime = s.ltime := rfl
@[simp] theorem State.setWing_inReset (s : State) (w : Fin 4) (x : Wing) : (s.setWing w x).inReset = s.inReset := rfl
@[simp] theorem State.setWing_asked (s : State) (w : Fin 4) (x : Wing) : (s.setWing w x).asked = s.asked := rfl
@[simp] theorem State.setWing_fresh (s : State) (w : Fin 4) (x : Wing) : (s.setWing w x).fresh = s.fresh := rfl
@[simp] theorem State.setWing_pending (s : State) (w : Fin 4) (x : Wing) : (s.setWing w x).pending = s.pending := rfl

@[simp] theorem State.modWing_variant (s : State) (w : Fin 4) (f : Wing → Wing) : (s.modWing w f).variant = s.variant := rfl
@[simp] theorem State.modWing_stepping (s : State) (w : Fin 4) (f : Wing → Wing) : (s.modWing w f).stepping = s.stepping := rfl
@[simp] theorem State.modWing_cores (s : State) (w : Fin 4) (f : Wing → Wing) : (s.modWing w f).cores = s.cores := rfl
@[simp] theorem State.modWing_rooms (s : State) (w : Fin 4) (f : Wing → Wing) : (s.modWing w f).rooms = s.rooms := rfl
@[simp] theorem State.modWing_irtes (s : State) (w : Fin 4) (f : Wing → Wing) : (s.modWing w f).irtes = s.irtes := rfl
@[simp] theorem State.modWing_mem (s : State) (w : Fin 4) (f : Wing → Wing) : (s.modWing w f).mem = s.mem := rfl
@[simp] theorem State.modWing_sluice (s : State) (w : Fin 4) (f : Wing → Wing) : (s.modWing w f).sluice = s.sluice := rfl
@[simp] theorem State.modWing_levee (s : State) (w : Fin 4) (f : Wing → Wing) : (s.modWing w f).levee = s.levee := rfl
@[simp] theorem State.modWing_coff (s : State) (w : Fin 4) (f : Wing → Wing) : (s.modWing w f).coff = s.coff := rfl
@[simp] theorem State.modWing_pump (s : State) (w : Fin 4) (f : Wing → Wing) : (s.modWing w f).pump = s.pump := rfl
@[simp] theorem State.modWing_porch (s : State) (w : Fin 4) (f : Wing → Wing) : (s.modWing w f).porch = s.porch := rfl
@[simp] theorem State.modWing_power (s : State) (w : Fin 4) (f : Wing → Wing) : (s.modWing w f).power = s.power := rfl
@[simp] theorem State.modWing_side (s : State) (w : Fin 4) (f : Wing → Wing) : (s.modWing w f).side = s.side := rfl
@[simp] theorem State.modWing_doors (s : State) (w : Fin 4) (f : Wing → Wing) : (s.modWing w f).doors = s.doors := rfl
@[simp] theorem State.modWing_th (s : State) (w : Fin 4) (f : Wing → Wing) : (s.modWing w f).th = s.th := rfl
@[simp] theorem State.modWing_telem (s : State) (w : Fin 4) (f : Wing → Wing) : (s.modWing w f).telem = s.telem := rfl
@[simp] theorem State.modWing_tap (s : State) (w : Fin 4) (f : Wing → Wing) : (s.modWing w f).tap = s.tap := rfl
@[simp] theorem State.modWing_ltime (s : State) (w : Fin 4) (f : Wing → Wing) : (s.modWing w f).ltime = s.ltime := rfl
@[simp] theorem State.modWing_inReset (s : State) (w : Fin 4) (f : Wing → Wing) : (s.modWing w f).inReset = s.inReset := rfl
@[simp] theorem State.modWing_asked (s : State) (w : Fin 4) (f : Wing → Wing) : (s.modWing w f).asked = s.asked := rfl
@[simp] theorem State.modWing_fresh (s : State) (w : Fin 4) (f : Wing → Wing) : (s.modWing w f).fresh = s.fresh := rfl
@[simp] theorem State.modWing_pending (s : State) (w : Fin 4) (f : Wing → Wing) : (s.modWing w f).pending = s.pending := rfl

@[simp] theorem State.setSlot_variant (s : State) (w n : Fin 4) (x : Slot) : (s.setSlot w n x).variant = s.variant := rfl
@[simp] theorem State.setSlot_stepping (s : State) (w n : Fin 4) (x : Slot) : (s.setSlot w n x).stepping = s.stepping := rfl
@[simp] theorem State.setSlot_cores (s : State) (w n : Fin 4) (x : Slot) : (s.setSlot w n x).cores = s.cores := rfl
@[simp] theorem State.setSlot_rooms (s : State) (w n : Fin 4) (x : Slot) : (s.setSlot w n x).rooms = s.rooms := rfl
@[simp] theorem State.setSlot_irtes (s : State) (w n : Fin 4) (x : Slot) : (s.setSlot w n x).irtes = s.irtes := rfl
@[simp] theorem State.setSlot_mem (s : State) (w n : Fin 4) (x : Slot) : (s.setSlot w n x).mem = s.mem := rfl
@[simp] theorem State.setSlot_sluice (s : State) (w n : Fin 4) (x : Slot) : (s.setSlot w n x).sluice = s.sluice := rfl
@[simp] theorem State.setSlot_levee (s : State) (w n : Fin 4) (x : Slot) : (s.setSlot w n x).levee = s.levee := rfl
@[simp] theorem State.setSlot_coff (s : State) (w n : Fin 4) (x : Slot) : (s.setSlot w n x).coff = s.coff := rfl
@[simp] theorem State.setSlot_pump (s : State) (w n : Fin 4) (x : Slot) : (s.setSlot w n x).pump = s.pump := rfl
@[simp] theorem State.setSlot_porch (s : State) (w n : Fin 4) (x : Slot) : (s.setSlot w n x).porch = s.porch := rfl
@[simp] theorem State.setSlot_power (s : State) (w n : Fin 4) (x : Slot) : (s.setSlot w n x).power = s.power := rfl
@[simp] theorem State.setSlot_side (s : State) (w n : Fin 4) (x : Slot) : (s.setSlot w n x).side = s.side := rfl
@[simp] theorem State.setSlot_doors (s : State) (w n : Fin 4) (x : Slot) : (s.setSlot w n x).doors = s.doors := rfl
@[simp] theorem State.setSlot_th (s : State) (w n : Fin 4) (x : Slot) : (s.setSlot w n x).th = s.th := rfl
@[simp] theorem State.setSlot_telem (s : State) (w n : Fin 4) (x : Slot) : (s.setSlot w n x).telem = s.telem := rfl
@[simp] theorem State.setSlot_tap (s : State) (w n : Fin 4) (x : Slot) : (s.setSlot w n x).tap = s.tap := rfl
@[simp] theorem State.setSlot_ltime (s : State) (w n : Fin 4) (x : Slot) : (s.setSlot w n x).ltime = s.ltime := rfl
@[simp] theorem State.setSlot_inReset (s : State) (w n : Fin 4) (x : Slot) : (s.setSlot w n x).inReset = s.inReset := rfl
@[simp] theorem State.setSlot_asked (s : State) (w n : Fin 4) (x : Slot) : (s.setSlot w n x).asked = s.asked := rfl
@[simp] theorem State.setSlot_fresh (s : State) (w n : Fin 4) (x : Slot) : (s.setSlot w n x).fresh = s.fresh := rfl
@[simp] theorem State.setSlot_pending (s : State) (w n : Fin 4) (x : Slot) : (s.setSlot w n x).pending = s.pending := rfl

@[simp] theorem State.setBytes_variant (s : State) (m : List Host.Cell) : (s.setBytes m).variant = s.variant := rfl
@[simp] theorem State.setBytes_stepping (s : State) (m : List Host.Cell) : (s.setBytes m).stepping = s.stepping := rfl
@[simp] theorem State.setBytes_cores (s : State) (m : List Host.Cell) : (s.setBytes m).cores = s.cores := rfl
@[simp] theorem State.setBytes_rooms (s : State) (m : List Host.Cell) : (s.setBytes m).rooms = s.rooms := rfl
@[simp] theorem State.setBytes_irtes (s : State) (m : List Host.Cell) : (s.setBytes m).irtes = s.irtes := rfl
@[simp] theorem State.setBytes_wings (s : State) (m : List Host.Cell) : (s.setBytes m).wings = s.wings := rfl
@[simp] theorem State.setBytes_sluice (s : State) (m : List Host.Cell) : (s.setBytes m).sluice = s.sluice := rfl
@[simp] theorem State.setBytes_levee (s : State) (m : List Host.Cell) : (s.setBytes m).levee = s.levee := rfl
@[simp] theorem State.setBytes_coff (s : State) (m : List Host.Cell) : (s.setBytes m).coff = s.coff := rfl
@[simp] theorem State.setBytes_pump (s : State) (m : List Host.Cell) : (s.setBytes m).pump = s.pump := rfl
@[simp] theorem State.setBytes_porch (s : State) (m : List Host.Cell) : (s.setBytes m).porch = s.porch := rfl
@[simp] theorem State.setBytes_power (s : State) (m : List Host.Cell) : (s.setBytes m).power = s.power := rfl
@[simp] theorem State.setBytes_side (s : State) (m : List Host.Cell) : (s.setBytes m).side = s.side := rfl
@[simp] theorem State.setBytes_doors (s : State) (m : List Host.Cell) : (s.setBytes m).doors = s.doors := rfl
@[simp] theorem State.setBytes_th (s : State) (m : List Host.Cell) : (s.setBytes m).th = s.th := rfl
@[simp] theorem State.setBytes_telem (s : State) (m : List Host.Cell) : (s.setBytes m).telem = s.telem := rfl
@[simp] theorem State.setBytes_tap (s : State) (m : List Host.Cell) : (s.setBytes m).tap = s.tap := rfl
@[simp] theorem State.setBytes_ltime (s : State) (m : List Host.Cell) : (s.setBytes m).ltime = s.ltime := rfl
@[simp] theorem State.setBytes_inReset (s : State) (m : List Host.Cell) : (s.setBytes m).inReset = s.inReset := rfl
@[simp] theorem State.setBytes_asked (s : State) (m : List Host.Cell) : (s.setBytes m).asked = s.asked := rfl
@[simp] theorem State.setBytes_fresh (s : State) (m : List Host.Cell) : (s.setBytes m).fresh = s.fresh := rfl
@[simp] theorem State.setBytes_pending (s : State) (m : List Host.Cell) : (s.setBytes m).pending = s.pending := rfl

@[simp] theorem State.setQp_variant (s : State) (q : Nat) (x : QueuePair) : (s.setQp q x).variant = s.variant := rfl
@[simp] theorem State.setQp_stepping (s : State) (q : Nat) (x : QueuePair) : (s.setQp q x).stepping = s.stepping := rfl
@[simp] theorem State.setQp_cores (s : State) (q : Nat) (x : QueuePair) : (s.setQp q x).cores = s.cores := rfl
@[simp] theorem State.setQp_rooms (s : State) (q : Nat) (x : QueuePair) : (s.setQp q x).rooms = s.rooms := rfl
@[simp] theorem State.setQp_irtes (s : State) (q : Nat) (x : QueuePair) : (s.setQp q x).irtes = s.irtes := rfl
@[simp] theorem State.setQp_wings (s : State) (q : Nat) (x : QueuePair) : (s.setQp q x).wings = s.wings := rfl
@[simp] theorem State.setQp_mem (s : State) (q : Nat) (x : QueuePair) : (s.setQp q x).mem = s.mem := rfl
@[simp] theorem State.setQp_levee (s : State) (q : Nat) (x : QueuePair) : (s.setQp q x).levee = s.levee := rfl
@[simp] theorem State.setQp_coff (s : State) (q : Nat) (x : QueuePair) : (s.setQp q x).coff = s.coff := rfl
@[simp] theorem State.setQp_pump (s : State) (q : Nat) (x : QueuePair) : (s.setQp q x).pump = s.pump := rfl
@[simp] theorem State.setQp_porch (s : State) (q : Nat) (x : QueuePair) : (s.setQp q x).porch = s.porch := rfl
@[simp] theorem State.setQp_power (s : State) (q : Nat) (x : QueuePair) : (s.setQp q x).power = s.power := rfl
@[simp] theorem State.setQp_side (s : State) (q : Nat) (x : QueuePair) : (s.setQp q x).side = s.side := rfl
@[simp] theorem State.setQp_doors (s : State) (q : Nat) (x : QueuePair) : (s.setQp q x).doors = s.doors := rfl
@[simp] theorem State.setQp_th (s : State) (q : Nat) (x : QueuePair) : (s.setQp q x).th = s.th := rfl
@[simp] theorem State.setQp_telem (s : State) (q : Nat) (x : QueuePair) : (s.setQp q x).telem = s.telem := rfl
@[simp] theorem State.setQp_tap (s : State) (q : Nat) (x : QueuePair) : (s.setQp q x).tap = s.tap := rfl
@[simp] theorem State.setQp_ltime (s : State) (q : Nat) (x : QueuePair) : (s.setQp q x).ltime = s.ltime := rfl
@[simp] theorem State.setQp_inReset (s : State) (q : Nat) (x : QueuePair) : (s.setQp q x).inReset = s.inReset := rfl
@[simp] theorem State.setQp_asked (s : State) (q : Nat) (x : QueuePair) : (s.setQp q x).asked = s.asked := rfl
@[simp] theorem State.setQp_fresh (s : State) (q : Nat) (x : QueuePair) : (s.setQp q x).fresh = s.fresh := rfl
@[simp] theorem State.setQp_pending (s : State) (q : Nat) (x : QueuePair) : (s.setQp q x).pending = s.pending := rfl

@[simp] theorem State.setRegion_variant (s : State) (i : Nat) (r : Region) : (s.setRegion i r).variant = s.variant := rfl
@[simp] theorem State.setRegion_stepping (s : State) (i : Nat) (r : Region) : (s.setRegion i r).stepping = s.stepping := rfl
@[simp] theorem State.setRegion_cores (s : State) (i : Nat) (r : Region) : (s.setRegion i r).cores = s.cores := rfl
@[simp] theorem State.setRegion_rooms (s : State) (i : Nat) (r : Region) : (s.setRegion i r).rooms = s.rooms := rfl
@[simp] theorem State.setRegion_irtes (s : State) (i : Nat) (r : Region) : (s.setRegion i r).irtes = s.irtes := rfl
@[simp] theorem State.setRegion_wings (s : State) (i : Nat) (r : Region) : (s.setRegion i r).wings = s.wings := rfl
@[simp] theorem State.setRegion_mem (s : State) (i : Nat) (r : Region) : (s.setRegion i r).mem = s.mem := rfl
@[simp] theorem State.setRegion_levee (s : State) (i : Nat) (r : Region) : (s.setRegion i r).levee = s.levee := rfl
@[simp] theorem State.setRegion_coff (s : State) (i : Nat) (r : Region) : (s.setRegion i r).coff = s.coff := rfl
@[simp] theorem State.setRegion_pump (s : State) (i : Nat) (r : Region) : (s.setRegion i r).pump = s.pump := rfl
@[simp] theorem State.setRegion_porch (s : State) (i : Nat) (r : Region) : (s.setRegion i r).porch = s.porch := rfl
@[simp] theorem State.setRegion_power (s : State) (i : Nat) (r : Region) : (s.setRegion i r).power = s.power := rfl
@[simp] theorem State.setRegion_side (s : State) (i : Nat) (r : Region) : (s.setRegion i r).side = s.side := rfl
@[simp] theorem State.setRegion_doors (s : State) (i : Nat) (r : Region) : (s.setRegion i r).doors = s.doors := rfl
@[simp] theorem State.setRegion_th (s : State) (i : Nat) (r : Region) : (s.setRegion i r).th = s.th := rfl
@[simp] theorem State.setRegion_telem (s : State) (i : Nat) (r : Region) : (s.setRegion i r).telem = s.telem := rfl
@[simp] theorem State.setRegion_tap (s : State) (i : Nat) (r : Region) : (s.setRegion i r).tap = s.tap := rfl
@[simp] theorem State.setRegion_ltime (s : State) (i : Nat) (r : Region) : (s.setRegion i r).ltime = s.ltime := rfl
@[simp] theorem State.setRegion_inReset (s : State) (i : Nat) (r : Region) : (s.setRegion i r).inReset = s.inReset := rfl
@[simp] theorem State.setRegion_asked (s : State) (i : Nat) (r : Region) : (s.setRegion i r).asked = s.asked := rfl
@[simp] theorem State.setRegion_fresh (s : State) (i : Nat) (r : Region) : (s.setRegion i r).fresh = s.fresh := rfl
@[simp] theorem State.setRegion_pending (s : State) (i : Nat) (r : Region) : (s.setRegion i r).pending = s.pending := rfl

@[simp] theorem State.setShard_variant (s : State) (i : Fin 16) (x : Shard) : (s.setShard i x).variant = s.variant := rfl
@[simp] theorem State.setShard_stepping (s : State) (i : Fin 16) (x : Shard) : (s.setShard i x).stepping = s.stepping := rfl
@[simp] theorem State.setShard_cores (s : State) (i : Fin 16) (x : Shard) : (s.setShard i x).cores = s.cores := rfl
@[simp] theorem State.setShard_rooms (s : State) (i : Fin 16) (x : Shard) : (s.setShard i x).rooms = s.rooms := rfl
@[simp] theorem State.setShard_irtes (s : State) (i : Fin 16) (x : Shard) : (s.setShard i x).irtes = s.irtes := rfl
@[simp] theorem State.setShard_wings (s : State) (i : Fin 16) (x : Shard) : (s.setShard i x).wings = s.wings := rfl
@[simp] theorem State.setShard_mem (s : State) (i : Fin 16) (x : Shard) : (s.setShard i x).mem = s.mem := rfl
@[simp] theorem State.setShard_sluice (s : State) (i : Fin 16) (x : Shard) : (s.setShard i x).sluice = s.sluice := rfl
@[simp] theorem State.setShard_coff (s : State) (i : Fin 16) (x : Shard) : (s.setShard i x).coff = s.coff := rfl
@[simp] theorem State.setShard_pump (s : State) (i : Fin 16) (x : Shard) : (s.setShard i x).pump = s.pump := rfl
@[simp] theorem State.setShard_porch (s : State) (i : Fin 16) (x : Shard) : (s.setShard i x).porch = s.porch := rfl
@[simp] theorem State.setShard_power (s : State) (i : Fin 16) (x : Shard) : (s.setShard i x).power = s.power := rfl
@[simp] theorem State.setShard_side (s : State) (i : Fin 16) (x : Shard) : (s.setShard i x).side = s.side := rfl
@[simp] theorem State.setShard_doors (s : State) (i : Fin 16) (x : Shard) : (s.setShard i x).doors = s.doors := rfl
@[simp] theorem State.setShard_th (s : State) (i : Fin 16) (x : Shard) : (s.setShard i x).th = s.th := rfl
@[simp] theorem State.setShard_telem (s : State) (i : Fin 16) (x : Shard) : (s.setShard i x).telem = s.telem := rfl
@[simp] theorem State.setShard_tap (s : State) (i : Fin 16) (x : Shard) : (s.setShard i x).tap = s.tap := rfl
@[simp] theorem State.setShard_ltime (s : State) (i : Fin 16) (x : Shard) : (s.setShard i x).ltime = s.ltime := rfl
@[simp] theorem State.setShard_inReset (s : State) (i : Fin 16) (x : Shard) : (s.setShard i x).inReset = s.inReset := rfl
@[simp] theorem State.setShard_asked (s : State) (i : Fin 16) (x : Shard) : (s.setShard i x).asked = s.asked := rfl
@[simp] theorem State.setShard_fresh (s : State) (i : Fin 16) (x : Shard) : (s.setShard i x).fresh = s.fresh := rfl
@[simp] theorem State.setShard_pending (s : State) (i : Fin 16) (x : Shard) : (s.setShard i x).pending = s.pending := rfl

@[simp] theorem State.setGate_variant (s : State) (p : Nat) (x : Gate) : (s.setGate p x).variant = s.variant := rfl
@[simp] theorem State.setGate_stepping (s : State) (p : Nat) (x : Gate) : (s.setGate p x).stepping = s.stepping := rfl
@[simp] theorem State.setGate_cores (s : State) (p : Nat) (x : Gate) : (s.setGate p x).cores = s.cores := rfl
@[simp] theorem State.setGate_rooms (s : State) (p : Nat) (x : Gate) : (s.setGate p x).rooms = s.rooms := rfl
@[simp] theorem State.setGate_irtes (s : State) (p : Nat) (x : Gate) : (s.setGate p x).irtes = s.irtes := rfl
@[simp] theorem State.setGate_wings (s : State) (p : Nat) (x : Gate) : (s.setGate p x).wings = s.wings := rfl
@[simp] theorem State.setGate_mem (s : State) (p : Nat) (x : Gate) : (s.setGate p x).mem = s.mem := rfl
@[simp] theorem State.setGate_sluice (s : State) (p : Nat) (x : Gate) : (s.setGate p x).sluice = s.sluice := rfl
@[simp] theorem State.setGate_levee (s : State) (p : Nat) (x : Gate) : (s.setGate p x).levee = s.levee := rfl
@[simp] theorem State.setGate_pump (s : State) (p : Nat) (x : Gate) : (s.setGate p x).pump = s.pump := rfl
@[simp] theorem State.setGate_porch (s : State) (p : Nat) (x : Gate) : (s.setGate p x).porch = s.porch := rfl
@[simp] theorem State.setGate_power (s : State) (p : Nat) (x : Gate) : (s.setGate p x).power = s.power := rfl
@[simp] theorem State.setGate_side (s : State) (p : Nat) (x : Gate) : (s.setGate p x).side = s.side := rfl
@[simp] theorem State.setGate_doors (s : State) (p : Nat) (x : Gate) : (s.setGate p x).doors = s.doors := rfl
@[simp] theorem State.setGate_th (s : State) (p : Nat) (x : Gate) : (s.setGate p x).th = s.th := rfl
@[simp] theorem State.setGate_telem (s : State) (p : Nat) (x : Gate) : (s.setGate p x).telem = s.telem := rfl
@[simp] theorem State.setGate_tap (s : State) (p : Nat) (x : Gate) : (s.setGate p x).tap = s.tap := rfl
@[simp] theorem State.setGate_ltime (s : State) (p : Nat) (x : Gate) : (s.setGate p x).ltime = s.ltime := rfl
@[simp] theorem State.setGate_inReset (s : State) (p : Nat) (x : Gate) : (s.setGate p x).inReset = s.inReset := rfl
@[simp] theorem State.setGate_asked (s : State) (p : Nat) (x : Gate) : (s.setGate p x).asked = s.asked := rfl
@[simp] theorem State.setGate_fresh (s : State) (p : Nat) (x : Gate) : (s.setGate p x).fresh = s.fresh := rfl
@[simp] theorem State.setGate_pending (s : State) (p : Nat) (x : Gate) : (s.setGate p x).pending = s.pending := rfl

@[simp] theorem State.setDoor_variant (s : State) (n : Fin 8) (d : Door) : (s.setDoor n d).variant = s.variant := rfl
@[simp] theorem State.setDoor_stepping (s : State) (n : Fin 8) (d : Door) : (s.setDoor n d).stepping = s.stepping := rfl
@[simp] theorem State.setDoor_cores (s : State) (n : Fin 8) (d : Door) : (s.setDoor n d).cores = s.cores := rfl
@[simp] theorem State.setDoor_rooms (s : State) (n : Fin 8) (d : Door) : (s.setDoor n d).rooms = s.rooms := rfl
@[simp] theorem State.setDoor_irtes (s : State) (n : Fin 8) (d : Door) : (s.setDoor n d).irtes = s.irtes := rfl
@[simp] theorem State.setDoor_wings (s : State) (n : Fin 8) (d : Door) : (s.setDoor n d).wings = s.wings := rfl
@[simp] theorem State.setDoor_mem (s : State) (n : Fin 8) (d : Door) : (s.setDoor n d).mem = s.mem := rfl
@[simp] theorem State.setDoor_sluice (s : State) (n : Fin 8) (d : Door) : (s.setDoor n d).sluice = s.sluice := rfl
@[simp] theorem State.setDoor_levee (s : State) (n : Fin 8) (d : Door) : (s.setDoor n d).levee = s.levee := rfl
@[simp] theorem State.setDoor_coff (s : State) (n : Fin 8) (d : Door) : (s.setDoor n d).coff = s.coff := rfl
@[simp] theorem State.setDoor_pump (s : State) (n : Fin 8) (d : Door) : (s.setDoor n d).pump = s.pump := rfl
@[simp] theorem State.setDoor_porch (s : State) (n : Fin 8) (d : Door) : (s.setDoor n d).porch = s.porch := rfl
@[simp] theorem State.setDoor_power (s : State) (n : Fin 8) (d : Door) : (s.setDoor n d).power = s.power := rfl
@[simp] theorem State.setDoor_side (s : State) (n : Fin 8) (d : Door) : (s.setDoor n d).side = s.side := rfl
@[simp] theorem State.setDoor_th (s : State) (n : Fin 8) (d : Door) : (s.setDoor n d).th = s.th := rfl
@[simp] theorem State.setDoor_telem (s : State) (n : Fin 8) (d : Door) : (s.setDoor n d).telem = s.telem := rfl
@[simp] theorem State.setDoor_tap (s : State) (n : Fin 8) (d : Door) : (s.setDoor n d).tap = s.tap := rfl
@[simp] theorem State.setDoor_ltime (s : State) (n : Fin 8) (d : Door) : (s.setDoor n d).ltime = s.ltime := rfl
@[simp] theorem State.setDoor_inReset (s : State) (n : Fin 8) (d : Door) : (s.setDoor n d).inReset = s.inReset := rfl
@[simp] theorem State.setDoor_asked (s : State) (n : Fin 8) (d : Door) : (s.setDoor n d).asked = s.asked := rfl
@[simp] theorem State.setDoor_fresh (s : State) (n : Fin 8) (d : Door) : (s.setDoor n d).fresh = s.fresh := rfl
@[simp] theorem State.setDoor_pending (s : State) (n : Fin 8) (d : Door) : (s.setDoor n d).pending = s.pending := rfl

@[simp] theorem State.modDoor_variant (s : State) (n : Fin 8) (f : Door → Door) : (s.modDoor n f).variant = s.variant := rfl
@[simp] theorem State.modDoor_stepping (s : State) (n : Fin 8) (f : Door → Door) : (s.modDoor n f).stepping = s.stepping := rfl
@[simp] theorem State.modDoor_cores (s : State) (n : Fin 8) (f : Door → Door) : (s.modDoor n f).cores = s.cores := rfl
@[simp] theorem State.modDoor_rooms (s : State) (n : Fin 8) (f : Door → Door) : (s.modDoor n f).rooms = s.rooms := rfl
@[simp] theorem State.modDoor_irtes (s : State) (n : Fin 8) (f : Door → Door) : (s.modDoor n f).irtes = s.irtes := rfl
@[simp] theorem State.modDoor_wings (s : State) (n : Fin 8) (f : Door → Door) : (s.modDoor n f).wings = s.wings := rfl
@[simp] theorem State.modDoor_mem (s : State) (n : Fin 8) (f : Door → Door) : (s.modDoor n f).mem = s.mem := rfl
@[simp] theorem State.modDoor_sluice (s : State) (n : Fin 8) (f : Door → Door) : (s.modDoor n f).sluice = s.sluice := rfl
@[simp] theorem State.modDoor_levee (s : State) (n : Fin 8) (f : Door → Door) : (s.modDoor n f).levee = s.levee := rfl
@[simp] theorem State.modDoor_coff (s : State) (n : Fin 8) (f : Door → Door) : (s.modDoor n f).coff = s.coff := rfl
@[simp] theorem State.modDoor_pump (s : State) (n : Fin 8) (f : Door → Door) : (s.modDoor n f).pump = s.pump := rfl
@[simp] theorem State.modDoor_porch (s : State) (n : Fin 8) (f : Door → Door) : (s.modDoor n f).porch = s.porch := rfl
@[simp] theorem State.modDoor_power (s : State) (n : Fin 8) (f : Door → Door) : (s.modDoor n f).power = s.power := rfl
@[simp] theorem State.modDoor_side (s : State) (n : Fin 8) (f : Door → Door) : (s.modDoor n f).side = s.side := rfl
@[simp] theorem State.modDoor_th (s : State) (n : Fin 8) (f : Door → Door) : (s.modDoor n f).th = s.th := rfl
@[simp] theorem State.modDoor_telem (s : State) (n : Fin 8) (f : Door → Door) : (s.modDoor n f).telem = s.telem := rfl
@[simp] theorem State.modDoor_tap (s : State) (n : Fin 8) (f : Door → Door) : (s.modDoor n f).tap = s.tap := rfl
@[simp] theorem State.modDoor_ltime (s : State) (n : Fin 8) (f : Door → Door) : (s.modDoor n f).ltime = s.ltime := rfl
@[simp] theorem State.modDoor_inReset (s : State) (n : Fin 8) (f : Door → Door) : (s.modDoor n f).inReset = s.inReset := rfl
@[simp] theorem State.modDoor_asked (s : State) (n : Fin 8) (f : Door → Door) : (s.modDoor n f).asked = s.asked := rfl
@[simp] theorem State.modDoor_fresh (s : State) (n : Fin 8) (f : Door → Door) : (s.modDoor n f).fresh = s.fresh := rfl
@[simp] theorem State.modDoor_pending (s : State) (n : Fin 8) (f : Door → Door) : (s.modDoor n f).pending = s.pending := rfl

@[simp] theorem Core.wf_g (k : Core) (r : Reg) (v : Word) : (k.wf r v).g = k.g := rfl
@[simp] theorem Core.wf_v (k : Core) (r : Reg) (v : Word) : (k.wf r v).v = k.v := rfl
@[simp] theorem Core.wf_m (k : Core) (r : Reg) (v : Word) : (k.wf r v).m = k.m := rfl
@[simp] theorem Core.wf_cm (k : Core) (r : Reg) (v : Word) : (k.wf r v).cm = k.cm := rfl
@[simp] theorem Core.wf_tl (k : Core) (r : Reg) (v : Word) : (k.wf r v).tl = k.tl := rfl
@[simp] theorem Core.wf_acc (k : Core) (r : Reg) (v : Word) : (k.wf r v).acc = k.acc := rfl
@[simp] theorem Core.wf_sc (k : Core) (r : Reg) (v : Word) : (k.wf r v).sc = k.sc := rfl
@[simp] theorem Core.wf_pc (k : Core) (r : Reg) (v : Word) : (k.wf r v).pc = k.pc := rfl
@[simp] theorem Core.wf_status (k : Core) (r : Reg) (v : Word) : (k.wf r v).status = k.status := rfl
@[simp] theorem Core.wf_mode (k : Core) (r : Reg) (v : Word) : (k.wf r v).mode = k.mode := rfl
@[simp] theorem Core.wf_polder (k : Core) (r : Reg) (v : Word) : (k.wf r v).polder = k.polder := rfl
@[simp] theorem Core.wf_fctl (k : Core) (r : Reg) (v : Word) : (k.wf r v).fctl = k.fctl := rfl
@[simp] theorem Core.wf_fstat (k : Core) (r : Reg) (v : Word) : (k.wf r v).fstat = k.fstat := rfl
@[simp] theorem Core.wf_epc (k : Core) (r : Reg) (v : Word) : (k.wf r v).epc = k.epc := rfl
@[simp] theorem Core.wf_estatus (k : Core) (r : Reg) (v : Word) : (k.wf r v).estatus = k.estatus := rfl
@[simp] theorem Core.wf_ecause (k : Core) (r : Reg) (v : Word) : (k.wf r v).ecause = k.ecause := rfl
@[simp] theorem Core.wf_eaddr (k : Core) (r : Reg) (v : Word) : (k.wf r v).eaddr = k.eaddr := rfl
@[simp] theorem Core.wf_edeleg (k : Core) (r : Reg) (v : Word) : (k.wf r v).edeleg = k.edeleg := rfl
@[simp] theorem Core.wf_dse (k : Core) (r : Reg) (v : Word) : (k.wf r v).dse = k.dse := rfl
@[simp] theorem Core.wf_dseOvf (k : Core) (r : Reg) (v : Word) : (k.wf r v).dseOvf = k.dseOvf := rfl
@[simp] theorem Core.wf_dseDropped (k : Core) (r : Reg) (v : Word) : (k.wf r v).dseDropped = k.dseDropped := rfl
@[simp] theorem Core.wf_dsePend (k : Core) (r : Reg) (v : Word) : (k.wf r v).dsePend = k.dsePend := rfl
@[simp] theorem Core.wf_fpPend (k : Core) (r : Reg) (v : Word) : (k.wf r v).fpPend = k.fpPend := rfl
@[simp] theorem Core.wf_irqs (k : Core) (r : Reg) (v : Word) : (k.wf r v).irqs = k.irqs := rfl
@[simp] theorem Core.wf_vbase (k : Core) (r : Reg) (v : Word) : (k.wf r v).vbase = k.vbase := rfl
@[simp] theorem Core.wf_spx (k : Core) (r : Reg) (v : Word) : (k.wf r v).spx = k.spx := rfl
@[simp] theorem Core.wf_dfvec (k : Core) (r : Reg) (v : Word) : (k.wf r v).dfvec = k.dfvec := rfl
@[simp] theorem Core.wf_dfsp (k : Core) (r : Reg) (v : Word) : (k.wf r v).dfsp = k.dfsp := rfl
@[simp] theorem Core.wf_lstart (k : Core) (r : Reg) (v : Word) : (k.wf r v).lstart = k.lstart := rfl
@[simp] theorem Core.wf_lend (k : Core) (r : Reg) (v : Word) : (k.wf r v).lend = k.lend := rfl
@[simp] theorem Core.wf_lcount (k : Core) (r : Reg) (v : Word) : (k.wf r v).lcount = k.lcount := rfl
@[simp] theorem Core.wf_gptb (k : Core) (r : Reg) (v : Word) : (k.wf r v).gptb = k.gptb := rfl
@[simp] theorem Core.wf_iptb (k : Core) (r : Reg) (v : Word) : (k.wf r v).iptb = k.iptb := rfl
@[simp] theorem Core.wf_fetchGptb (k : Core) (r : Reg) (v : Word) : (k.wf r v).fetchGptb = k.fetchGptb := rfl
@[simp] theorem Core.wf_fetchIptb (k : Core) (r : Reg) (v : Word) : (k.wf r v).fetchIptb = k.fetchIptb := rfl
@[simp] theorem Core.wf_tcfg (k : Core) (r : Reg) (v : Word) : (k.wf r v).tcfg = k.tcfg := rfl
@[simp] theorem Core.wf_ocfg (k : Core) (r : Reg) (v : Word) : (k.wf r v).ocfg = k.ocfg := rfl
@[simp] theorem Core.wf_tuse (k : Core) (r : Reg) (v : Word) : (k.wf r v).tuse = k.tuse := rfl
@[simp] theorem Core.wf_tstat (k : Core) (r : Reg) (v : Word) : (k.wf r v).tstat = k.tstat := rfl
@[simp] theorem Core.wf_vshape (k : Core) (r : Reg) (v : Word) : (k.wf r v).vshape = k.vshape := rfl
@[simp] theorem Core.wf_vcount (k : Core) (r : Reg) (v : Word) : (k.wf r v).vcount = k.vcount := rfl
@[simp] theorem Core.wf_vresume (k : Core) (r : Reg) (v : Word) : (k.wf r v).vresume = k.vresume := rfl
@[simp] theorem Core.wf_vstat (k : Core) (r : Reg) (v : Word) : (k.wf r v).vstat = k.vstat := rfl
@[simp] theorem Core.wf_vuOn (k : Core) (r : Reg) (v : Word) : (k.wf r v).vuOn = k.vuOn := rfl
@[simp] theorem Core.wf_vuFailed (k : Core) (r : Reg) (v : Word) : (k.wf r v).vuFailed = k.vuFailed := rfl
@[simp] theorem Core.wf_flight (k : Core) (r : Reg) (v : Word) : (k.wf r v).flight = k.flight := rfl
@[simp] theorem Core.wf_mxStopped (k : Core) (r : Reg) (v : Word) : (k.wf r v).mxStopped = k.mxStopped := rfl
@[simp] theorem Core.wf_mxThird (k : Core) (r : Reg) (v : Word) : (k.wf r v).mxThird = k.mxThird := rfl
@[simp] theorem Core.wf_sram (k : Core) (r : Reg) (v : Word) : (k.wf r v).sram = k.sram := rfl
@[simp] theorem Core.wf_sramBad (k : Core) (r : Reg) (v : Word) : (k.wf r v).sramBad = k.sramBad := rfl
@[simp] theorem Core.wf_srwin (k : Core) (r : Reg) (v : Word) : (k.wf r v).srwin = k.srwin := rfl
@[simp] theorem Core.wf_rvec (k : Core) (r : Reg) (v : Word) : (k.wf r v).rvec = k.rvec := rfl
@[simp] theorem Core.wf_spill (k : Core) (r : Reg) (v : Word) : (k.wf r v).spill = k.spill := rfl
@[simp] theorem Core.wf_tol (k : Core) (r : Reg) (v : Word) : (k.wf r v).tol = k.tol := rfl
@[simp] theorem Core.wf_door (k : Core) (r : Reg) (v : Word) : (k.wf r v).door = k.door := rfl
@[simp] theorem Core.wf_asleep (k : Core) (r : Reg) (v : Word) : (k.wf r v).asleep = k.asleep := rfl
@[simp] theorem Core.wf_paused (k : Core) (r : Reg) (v : Word) : (k.wf r v).paused = k.paused := rfl
@[simp] theorem Core.wf_pausing (k : Core) (r : Reg) (v : Word) : (k.wf r v).pausing = k.pausing := rfl
@[simp] theorem Core.wf_armPaused (k : Core) (r : Reg) (v : Word) : (k.wf r v).armPaused = k.armPaused := rfl
@[simp] theorem Core.wf_armPausing (k : Core) (r : Reg) (v : Word) : (k.wf r v).armPausing = k.armPausing := rfl
@[simp] theorem Core.wf_held (k : Core) (r : Reg) (v : Word) : (k.wf r v).held = k.held := rfl
@[simp] theorem Core.wf_stopped (k : Core) (r : Reg) (v : Word) : (k.wf r v).stopped = k.stopped := rfl
@[simp] theorem Core.wf_forced (k : Core) (r : Reg) (v : Word) : (k.wf r v).forced = k.forced := rfl
@[simp] theorem Core.wf_mxGated (k : Core) (r : Reg) (v : Word) : (k.wf r v).mxGated = k.mxGated := rfl
@[simp] theorem Core.wf_vuGated (k : Core) (r : Reg) (v : Word) : (k.wf r v).vuGated = k.vuGated := rfl
@[simp] theorem Core.wf_stepOut (k : Core) (r : Reg) (v : Word) : (k.wf r v).stepOut = k.stepOut := rfl
@[simp] theorem Core.wf_l1i (k : Core) (r : Reg) (v : Word) : (k.wf r v).l1i = k.l1i := rfl
@[simp] theorem Core.wf_l1d (k : Core) (r : Reg) (v : Word) : (k.wf r v).l1d = k.l1d := rfl
@[simp] theorem Core.wf_l2 (k : Core) (r : Reg) (v : Word) : (k.wf r v).l2 = k.l2 := rfl
@[simp] theorem Core.wf_fileErr (k : Core) (r : Reg) (v : Word) : (k.wf r v).fileErr = k.fileErr := rfl
@[simp] theorem Core.wf_entering (k : Core) (r : Reg) (v : Word) : (k.wf r v).entering = k.entering := rfl
@[simp] theorem Core.wf_begun (k : Core) (r : Reg) (v : Word) : (k.wf r v).begun = k.begun := rfl
@[simp] theorem Core.wf_imaging (k : Core) (r : Reg) (v : Word) : (k.wf r v).imaging = k.imaging := rfl
@[simp] theorem Core.wf_storing (k : Core) (r : Reg) (v : Word) : (k.wf r v).storing = k.storing := rfl
@[simp] theorem Core.wf_fetchBuf (k : Core) (r : Reg) (v : Word) : (k.wf r v).fetchBuf = k.fetchBuf := rfl
@[simp] theorem Core.wf_timecmp (k : Core) (r : Reg) (v : Word) : (k.wf r v).timecmp = k.timecmp := rfl
@[simp] theorem Core.wf_note (k : Core) (r : Reg) (v : Word) : (k.wf r v).note = k.note := rfl

@[simp] theorem Core.wg_f (k : Core) (r : Reg) (v : Word) : (k.wg r v).f = k.f := by unfold Core.wg; split <;> rfl
@[simp] theorem Core.wg_v (k : Core) (r : Reg) (v : Word) : (k.wg r v).v = k.v := by unfold Core.wg; split <;> rfl
@[simp] theorem Core.wg_m (k : Core) (r : Reg) (v : Word) : (k.wg r v).m = k.m := by unfold Core.wg; split <;> rfl
@[simp] theorem Core.wg_cm (k : Core) (r : Reg) (v : Word) : (k.wg r v).cm = k.cm := by unfold Core.wg; split <;> rfl
@[simp] theorem Core.wg_tl (k : Core) (r : Reg) (v : Word) : (k.wg r v).tl = k.tl := by unfold Core.wg; split <;> rfl
@[simp] theorem Core.wg_acc (k : Core) (r : Reg) (v : Word) : (k.wg r v).acc = k.acc := by unfold Core.wg; split <;> rfl
@[simp] theorem Core.wg_sc (k : Core) (r : Reg) (v : Word) : (k.wg r v).sc = k.sc := by unfold Core.wg; split <;> rfl
@[simp] theorem Core.wg_pc (k : Core) (r : Reg) (v : Word) : (k.wg r v).pc = k.pc := by unfold Core.wg; split <;> rfl
@[simp] theorem Core.wg_status (k : Core) (r : Reg) (v : Word) : (k.wg r v).status = k.status := by unfold Core.wg; split <;> rfl
@[simp] theorem Core.wg_mode (k : Core) (r : Reg) (v : Word) : (k.wg r v).mode = k.mode := by unfold Core.wg; split <;> rfl
@[simp] theorem Core.wg_polder (k : Core) (r : Reg) (v : Word) : (k.wg r v).polder = k.polder := by unfold Core.wg; split <;> rfl
@[simp] theorem Core.wg_fctl (k : Core) (r : Reg) (v : Word) : (k.wg r v).fctl = k.fctl := by unfold Core.wg; split <;> rfl
@[simp] theorem Core.wg_fstat (k : Core) (r : Reg) (v : Word) : (k.wg r v).fstat = k.fstat := by unfold Core.wg; split <;> rfl
@[simp] theorem Core.wg_epc (k : Core) (r : Reg) (v : Word) : (k.wg r v).epc = k.epc := by unfold Core.wg; split <;> rfl
@[simp] theorem Core.wg_estatus (k : Core) (r : Reg) (v : Word) : (k.wg r v).estatus = k.estatus := by unfold Core.wg; split <;> rfl
@[simp] theorem Core.wg_ecause (k : Core) (r : Reg) (v : Word) : (k.wg r v).ecause = k.ecause := by unfold Core.wg; split <;> rfl
@[simp] theorem Core.wg_eaddr (k : Core) (r : Reg) (v : Word) : (k.wg r v).eaddr = k.eaddr := by unfold Core.wg; split <;> rfl
@[simp] theorem Core.wg_edeleg (k : Core) (r : Reg) (v : Word) : (k.wg r v).edeleg = k.edeleg := by unfold Core.wg; split <;> rfl
@[simp] theorem Core.wg_dse (k : Core) (r : Reg) (v : Word) : (k.wg r v).dse = k.dse := by unfold Core.wg; split <;> rfl
@[simp] theorem Core.wg_dseOvf (k : Core) (r : Reg) (v : Word) : (k.wg r v).dseOvf = k.dseOvf := by unfold Core.wg; split <;> rfl
@[simp] theorem Core.wg_dseDropped (k : Core) (r : Reg) (v : Word) : (k.wg r v).dseDropped = k.dseDropped := by unfold Core.wg; split <;> rfl
@[simp] theorem Core.wg_dsePend (k : Core) (r : Reg) (v : Word) : (k.wg r v).dsePend = k.dsePend := by unfold Core.wg; split <;> rfl
@[simp] theorem Core.wg_fpPend (k : Core) (r : Reg) (v : Word) : (k.wg r v).fpPend = k.fpPend := by unfold Core.wg; split <;> rfl
@[simp] theorem Core.wg_irqs (k : Core) (r : Reg) (v : Word) : (k.wg r v).irqs = k.irqs := by unfold Core.wg; split <;> rfl
@[simp] theorem Core.wg_vbase (k : Core) (r : Reg) (v : Word) : (k.wg r v).vbase = k.vbase := by unfold Core.wg; split <;> rfl
@[simp] theorem Core.wg_spx (k : Core) (r : Reg) (v : Word) : (k.wg r v).spx = k.spx := by unfold Core.wg; split <;> rfl
@[simp] theorem Core.wg_dfvec (k : Core) (r : Reg) (v : Word) : (k.wg r v).dfvec = k.dfvec := by unfold Core.wg; split <;> rfl
@[simp] theorem Core.wg_dfsp (k : Core) (r : Reg) (v : Word) : (k.wg r v).dfsp = k.dfsp := by unfold Core.wg; split <;> rfl
@[simp] theorem Core.wg_lstart (k : Core) (r : Reg) (v : Word) : (k.wg r v).lstart = k.lstart := by unfold Core.wg; split <;> rfl
@[simp] theorem Core.wg_lend (k : Core) (r : Reg) (v : Word) : (k.wg r v).lend = k.lend := by unfold Core.wg; split <;> rfl
@[simp] theorem Core.wg_lcount (k : Core) (r : Reg) (v : Word) : (k.wg r v).lcount = k.lcount := by unfold Core.wg; split <;> rfl
@[simp] theorem Core.wg_gptb (k : Core) (r : Reg) (v : Word) : (k.wg r v).gptb = k.gptb := by unfold Core.wg; split <;> rfl
@[simp] theorem Core.wg_iptb (k : Core) (r : Reg) (v : Word) : (k.wg r v).iptb = k.iptb := by unfold Core.wg; split <;> rfl
@[simp] theorem Core.wg_fetchGptb (k : Core) (r : Reg) (v : Word) : (k.wg r v).fetchGptb = k.fetchGptb := by unfold Core.wg; split <;> rfl
@[simp] theorem Core.wg_fetchIptb (k : Core) (r : Reg) (v : Word) : (k.wg r v).fetchIptb = k.fetchIptb := by unfold Core.wg; split <;> rfl
@[simp] theorem Core.wg_tcfg (k : Core) (r : Reg) (v : Word) : (k.wg r v).tcfg = k.tcfg := by unfold Core.wg; split <;> rfl
@[simp] theorem Core.wg_ocfg (k : Core) (r : Reg) (v : Word) : (k.wg r v).ocfg = k.ocfg := by unfold Core.wg; split <;> rfl
@[simp] theorem Core.wg_tuse (k : Core) (r : Reg) (v : Word) : (k.wg r v).tuse = k.tuse := by unfold Core.wg; split <;> rfl
@[simp] theorem Core.wg_tstat (k : Core) (r : Reg) (v : Word) : (k.wg r v).tstat = k.tstat := by unfold Core.wg; split <;> rfl
@[simp] theorem Core.wg_vshape (k : Core) (r : Reg) (v : Word) : (k.wg r v).vshape = k.vshape := by unfold Core.wg; split <;> rfl
@[simp] theorem Core.wg_vcount (k : Core) (r : Reg) (v : Word) : (k.wg r v).vcount = k.vcount := by unfold Core.wg; split <;> rfl
@[simp] theorem Core.wg_vresume (k : Core) (r : Reg) (v : Word) : (k.wg r v).vresume = k.vresume := by unfold Core.wg; split <;> rfl
@[simp] theorem Core.wg_vstat (k : Core) (r : Reg) (v : Word) : (k.wg r v).vstat = k.vstat := by unfold Core.wg; split <;> rfl
@[simp] theorem Core.wg_vuOn (k : Core) (r : Reg) (v : Word) : (k.wg r v).vuOn = k.vuOn := by unfold Core.wg; split <;> rfl
@[simp] theorem Core.wg_vuFailed (k : Core) (r : Reg) (v : Word) : (k.wg r v).vuFailed = k.vuFailed := by unfold Core.wg; split <;> rfl
@[simp] theorem Core.wg_flight (k : Core) (r : Reg) (v : Word) : (k.wg r v).flight = k.flight := by unfold Core.wg; split <;> rfl
@[simp] theorem Core.wg_mxStopped (k : Core) (r : Reg) (v : Word) : (k.wg r v).mxStopped = k.mxStopped := by unfold Core.wg; split <;> rfl
@[simp] theorem Core.wg_mxThird (k : Core) (r : Reg) (v : Word) : (k.wg r v).mxThird = k.mxThird := by unfold Core.wg; split <;> rfl
@[simp] theorem Core.wg_sram (k : Core) (r : Reg) (v : Word) : (k.wg r v).sram = k.sram := by unfold Core.wg; split <;> rfl
@[simp] theorem Core.wg_sramBad (k : Core) (r : Reg) (v : Word) : (k.wg r v).sramBad = k.sramBad := by unfold Core.wg; split <;> rfl
@[simp] theorem Core.wg_srwin (k : Core) (r : Reg) (v : Word) : (k.wg r v).srwin = k.srwin := by unfold Core.wg; split <;> rfl
@[simp] theorem Core.wg_rvec (k : Core) (r : Reg) (v : Word) : (k.wg r v).rvec = k.rvec := by unfold Core.wg; split <;> rfl
@[simp] theorem Core.wg_spill (k : Core) (r : Reg) (v : Word) : (k.wg r v).spill = k.spill := by unfold Core.wg; split <;> rfl
@[simp] theorem Core.wg_tol (k : Core) (r : Reg) (v : Word) : (k.wg r v).tol = k.tol := by unfold Core.wg; split <;> rfl
@[simp] theorem Core.wg_door (k : Core) (r : Reg) (v : Word) : (k.wg r v).door = k.door := by unfold Core.wg; split <;> rfl
@[simp] theorem Core.wg_asleep (k : Core) (r : Reg) (v : Word) : (k.wg r v).asleep = k.asleep := by unfold Core.wg; split <;> rfl
@[simp] theorem Core.wg_paused (k : Core) (r : Reg) (v : Word) : (k.wg r v).paused = k.paused := by unfold Core.wg; split <;> rfl
@[simp] theorem Core.wg_pausing (k : Core) (r : Reg) (v : Word) : (k.wg r v).pausing = k.pausing := by unfold Core.wg; split <;> rfl
@[simp] theorem Core.wg_armPaused (k : Core) (r : Reg) (v : Word) : (k.wg r v).armPaused = k.armPaused := by unfold Core.wg; split <;> rfl
@[simp] theorem Core.wg_armPausing (k : Core) (r : Reg) (v : Word) : (k.wg r v).armPausing = k.armPausing := by unfold Core.wg; split <;> rfl
@[simp] theorem Core.wg_held (k : Core) (r : Reg) (v : Word) : (k.wg r v).held = k.held := by unfold Core.wg; split <;> rfl
@[simp] theorem Core.wg_stopped (k : Core) (r : Reg) (v : Word) : (k.wg r v).stopped = k.stopped := by unfold Core.wg; split <;> rfl
@[simp] theorem Core.wg_forced (k : Core) (r : Reg) (v : Word) : (k.wg r v).forced = k.forced := by unfold Core.wg; split <;> rfl
@[simp] theorem Core.wg_mxGated (k : Core) (r : Reg) (v : Word) : (k.wg r v).mxGated = k.mxGated := by unfold Core.wg; split <;> rfl
@[simp] theorem Core.wg_vuGated (k : Core) (r : Reg) (v : Word) : (k.wg r v).vuGated = k.vuGated := by unfold Core.wg; split <;> rfl
@[simp] theorem Core.wg_stepOut (k : Core) (r : Reg) (v : Word) : (k.wg r v).stepOut = k.stepOut := by unfold Core.wg; split <;> rfl
@[simp] theorem Core.wg_l1i (k : Core) (r : Reg) (v : Word) : (k.wg r v).l1i = k.l1i := by unfold Core.wg; split <;> rfl
@[simp] theorem Core.wg_l1d (k : Core) (r : Reg) (v : Word) : (k.wg r v).l1d = k.l1d := by unfold Core.wg; split <;> rfl
@[simp] theorem Core.wg_l2 (k : Core) (r : Reg) (v : Word) : (k.wg r v).l2 = k.l2 := by unfold Core.wg; split <;> rfl
@[simp] theorem Core.wg_fileErr (k : Core) (r : Reg) (v : Word) : (k.wg r v).fileErr = k.fileErr := by unfold Core.wg; split <;> rfl
@[simp] theorem Core.wg_entering (k : Core) (r : Reg) (v : Word) : (k.wg r v).entering = k.entering := by unfold Core.wg; split <;> rfl
@[simp] theorem Core.wg_begun (k : Core) (r : Reg) (v : Word) : (k.wg r v).begun = k.begun := by unfold Core.wg; split <;> rfl
@[simp] theorem Core.wg_imaging (k : Core) (r : Reg) (v : Word) : (k.wg r v).imaging = k.imaging := by unfold Core.wg; split <;> rfl
@[simp] theorem Core.wg_storing (k : Core) (r : Reg) (v : Word) : (k.wg r v).storing = k.storing := by unfold Core.wg; split <;> rfl
@[simp] theorem Core.wg_fetchBuf (k : Core) (r : Reg) (v : Word) : (k.wg r v).fetchBuf = k.fetchBuf := by unfold Core.wg; split <;> rfl
@[simp] theorem Core.wg_timecmp (k : Core) (r : Reg) (v : Word) : (k.wg r v).timecmp = k.timecmp := by unfold Core.wg; split <;> rfl
@[simp] theorem Core.wg_note (k : Core) (r : Reg) (v : Word) : (k.wg r v).note = k.note := by unfold Core.wg; split <;> rfl

end Machine
end Sys2Proof
end

