-- ==== Sys2Proof/Laws/Ops.lean ====
section
/-! SUPPORT. The shared operations: what each answers, and the fields of State that it leaves. -/

namespace Sys2Proof
namespace Machine

/-! ## The runs of a command's body -/

theorem outcome_next {m : M Unit} {s t : State} (h : outcome m s = .next t) :
    m s = .ok () t ∨ ∃ e u, m s = .error e u ∧ (∀ r, e ≠ .stop r) ∧ t = s.waiting u := by
  unfold outcome at h
  split at h
  · cases h
    exact .inl ‹_›
  · cases h
    exact .inr ⟨_, _, ‹_›, by simp, rfl⟩
  · cases h
    exact .inr ⟨_, _, ‹_›, by simp, rfl⟩
  · cases h

theorem outcome_stop {m : M Unit} {s t : State} {r : Nat} (h : m s = .error (.stop r) t) : outcome m s = .fault (.undefinedOutcome r) := by
  simp [outcome, h]

/-- A body of a sluice command that completes settles the regions, and the answers that it has used are forgotten. -/
theorem sluiceRun_ok {q : Nat} {m : M Unit} {s t : State} (h : m s = .ok () t) :
    sluiceRun q m s = .next (clearAnswers (.sluice q) (settleRegions t)) := by
  unfold sluiceRun
  exact outcome_ok (by simp [h])

/-- A piece of the levee's work that completes; a levee that is not up does nothing. -/
theorem leveePart_ok {i : Fin 16} {m : M Unit} {s t : State} (h : m s = .ok () t) : leveePart i m s = clearAnswers (.levee i) t := by
  unfold leveePart
  rw [h]

theorem leveeRun_one {i : Fin 16} {m : M Unit} {s t : State} (hu : leveeUp s = true) (h : m s = .ok () t) :
    leveeRun i [m] s = .next (serveQueue (clearAnswers (.levee i) t)) := by
  simp [leveeRun, hu, leveePart_ok h]

theorem leveeRun_down {i : Fin 16} {ms : List (M Unit)} {s : State} (hu : leveeUp s = false) : leveeRun i ms s = .next s := by
  simp [leveeRun, hu]

/-! ## Counters -/

theorem satInc_toNat {w : Nat} (x : BitVec w) : (satInc x).toNat = Nat.min (x.toNat + 1) (2 ^ w - 1) := by
  have := x.isLt
  unfold satInc
  split
  · rename_i h
    rw [h, BitVec.toNat_allOnes]
    exact (Nat.min_eq_right (by omega)).symm
  · rename_i h
    have hx : x.toNat ≠ 2 ^ w - 1 := fun e => h (BitVec.eq_of_toNat_eq (by rw [e, BitVec.toNat_allOnes]))
    rw [show Nat.min (x.toNat + 1) (2 ^ w - 1) = x.toNat + 1 from Nat.min_eq_left (by omega), BitVec.toNat_add]
    by_cases hw : w = 0
    · subst hw
      omega
    · have h1 : (1 : BitVec w).toNat = 1 := by
        rw [show (1 : BitVec w) = BitVec.ofNat w 1 from rfl, BitVec.toNat_ofNat]
        exact Nat.mod_eq_of_lt (Nat.one_lt_two_pow hw)
      rw [h1]
      exact Nat.mod_eq_of_lt (by omega)

theorem satAdd_toNat {w : Nat} (x : BitVec w) (n : Nat) : (satAdd x n).toNat = Nat.min (x.toNat + n) (2 ^ w - 1) := by
  have := x.isLt
  unfold satAdd
  split
  · rw [BitVec.toNat_ofNat, Nat.mod_eq_of_lt ‹_›]
    exact (Nat.min_eq_left (by omega)).symm
  · rw [BitVec.toNat_allOnes]
    exact (Nat.min_eq_right (by omega)).symm

/-! ## Memory -/

theorem pokeBytes_get (a b : Nat) (bs : List Byte) (s : State) :
    mget 0 (pokeBytes a bs s).mem.bytes b = if a ≤ b ∧ b < a + bs.length then bs.getD (b - a) 0 else mget 0 s.mem.bytes b :=
  mget_wrBytes ..
theorem pokeBytes_wf (a : Nat) (bs : List Byte) {s : State} (h : Memory.wf s.mem.bytes = true) : Memory.wf (pokeBytes a bs s).mem.bytes = true :=
  Memory.wf_wrBytes a bs h
theorem soil_wf (tag : BitVec 12) (n : Nat) {s : State} (h : Memory.wf s.mem.bytes = true) : Memory.wf (soil tag n s).mem.bytes = true := by
  unfold soil
  split
  · exact h
  · split
    · exact h
    · exact Memory.wf_wrBytes _ _ h
theorem storeLine_bytes (tag : BitVec 12) (n : Nat) (s : State) : (storeLine tag n s).mem.bytes = s.mem.bytes := rfl
theorem discardLine_wf (n : Nat) {s : State} (h : Memory.wf s.mem.bytes = true) : Memory.wf (discardLine n s).mem.bytes = true := by
  unfold discardLine
  split
  · exact Memory.wf_wrBytes _ _ h
  · exact h

/-! ## What they leave -/

@[simp] theorem clearAnswers_variant (u : Requester) (s : State) : (clearAnswers u s).variant = s.variant := rfl
@[simp] theorem clearAnswers_stepping (u : Requester) (s : State) : (clearAnswers u s).stepping = s.stepping := rfl
@[simp] theorem clearAnswers_cores (u : Requester) (s : State) : (clearAnswers u s).cores = s.cores := rfl
@[simp] theorem clearAnswers_rooms (u : Requester) (s : State) : (clearAnswers u s).rooms = s.rooms := rfl
@[simp] theorem clearAnswers_irtes (u : Requester) (s : State) : (clearAnswers u s).irtes = s.irtes := rfl
@[simp] theorem clearAnswers_wings (u : Requester) (s : State) : (clearAnswers u s).wings = s.wings := rfl
@[simp] theorem clearAnswers_mem (u : Requester) (s : State) : (clearAnswers u s).mem = s.mem := rfl
@[simp] theorem clearAnswers_sluice (u : Requester) (s : State) : (clearAnswers u s).sluice = s.sluice := rfl
@[simp] theorem clearAnswers_levee (u : Requester) (s : State) : (clearAnswers u s).levee = s.levee := rfl
@[simp] theorem clearAnswers_coff (u : Requester) (s : State) : (clearAnswers u s).coff = s.coff := rfl
@[simp] theorem clearAnswers_pump (u : Requester) (s : State) : (clearAnswers u s).pump = s.pump := rfl
@[simp] theorem clearAnswers_porch (u : Requester) (s : State) : (clearAnswers u s).porch = s.porch := rfl
@[simp] theorem clearAnswers_power (u : Requester) (s : State) : (clearAnswers u s).power = s.power := rfl
@[simp] theorem clearAnswers_side (u : Requester) (s : State) : (clearAnswers u s).side = s.side := rfl
@[simp] theorem clearAnswers_doors (u : Requester) (s : State) : (clearAnswers u s).doors = s.doors := rfl
@[simp] theorem clearAnswers_telem (u : Requester) (s : State) : (clearAnswers u s).telem = s.telem := rfl
@[simp] theorem clearAnswers_tap (u : Requester) (s : State) : (clearAnswers u s).tap = s.tap := rfl
@[simp] theorem clearAnswers_ltime (u : Requester) (s : State) : (clearAnswers u s).ltime = s.ltime := rfl
@[simp] theorem clearAnswers_inReset (u : Requester) (s : State) : (clearAnswers u s).inReset = s.inReset := rfl
@[simp] theorem clearAnswers_asked (u : Requester) (s : State) : (clearAnswers u s).asked = s.asked := rfl
@[simp] theorem clearAnswers_fresh (u : Requester) (s : State) : (clearAnswers u s).fresh = s.fresh := rfl
@[simp] theorem clearAnswers_pending (u : Requester) (s : State) : (clearAnswers u s).pending = s.pending := rfl
@[simp] theorem abandonReqs_variant (u : Requester) (s : State) : (abandonReqs u s).variant = s.variant := rfl
@[simp] theorem abandonReqs_stepping (u : Requester) (s : State) : (abandonReqs u s).stepping = s.stepping := rfl
@[simp] theorem abandonReqs_cores (u : Requester) (s : State) : (abandonReqs u s).cores = s.cores := rfl
@[simp] theorem abandonReqs_rooms (u : Requester) (s : State) : (abandonReqs u s).rooms = s.rooms := rfl
@[simp] theorem abandonReqs_irtes (u : Requester) (s : State) : (abandonReqs u s).irtes = s.irtes := rfl
@[simp] theorem abandonReqs_wings (u : Requester) (s : State) : (abandonReqs u s).wings = s.wings := rfl
@[simp] theorem abandonReqs_mem (u : Requester) (s : State) : (abandonReqs u s).mem = s.mem := rfl
@[simp] theorem abandonReqs_sluice (u : Requester) (s : State) : (abandonReqs u s).sluice = s.sluice := rfl
@[simp] theorem abandonReqs_levee (u : Requester) (s : State) : (abandonReqs u s).levee = s.levee := rfl
@[simp] theorem abandonReqs_coff (u : Requester) (s : State) : (abandonReqs u s).coff = s.coff := rfl
@[simp] theorem abandonReqs_pump (u : Requester) (s : State) : (abandonReqs u s).pump = s.pump := rfl
@[simp] theorem abandonReqs_porch (u : Requester) (s : State) : (abandonReqs u s).porch = s.porch := rfl
@[simp] theorem abandonReqs_power (u : Requester) (s : State) : (abandonReqs u s).power = s.power := rfl
@[simp] theorem abandonReqs_side (u : Requester) (s : State) : (abandonReqs u s).side = s.side := rfl
@[simp] theorem abandonReqs_doors (u : Requester) (s : State) : (abandonReqs u s).doors = s.doors := rfl
@[simp] theorem abandonReqs_telem (u : Requester) (s : State) : (abandonReqs u s).telem = s.telem := rfl
@[simp] theorem abandonReqs_tap (u : Requester) (s : State) : (abandonReqs u s).tap = s.tap := rfl
@[simp] theorem abandonReqs_ltime (u : Requester) (s : State) : (abandonReqs u s).ltime = s.ltime := rfl
@[simp] theorem abandonReqs_inReset (u : Requester) (s : State) : (abandonReqs u s).inReset = s.inReset := rfl
@[simp] theorem abandonReqs_asked (u : Requester) (s : State) : (abandonReqs u s).asked = s.asked := rfl
@[simp] theorem abandonReqs_fresh (u : Requester) (s : State) : (abandonReqs u s).fresh = s.fresh := rfl
@[simp] theorem abandonReqs_pending (u : Requester) (s : State) : (abandonReqs u s).pending = s.pending := rfl
@[simp] theorem pendIrq_variant (c : CoreId) (x : BitVec 8) (l : BitVec 2) (p : BitVec 4) (s : State) : (pendIrq c x l p s).variant = s.variant := rfl
@[simp] theorem pendIrq_stepping (c : CoreId) (x : BitVec 8) (l : BitVec 2) (p : BitVec 4) (s : State) : (pendIrq c x l p s).stepping = s.stepping := rfl
@[simp] theorem pendIrq_rooms (c : CoreId) (x : BitVec 8) (l : BitVec 2) (p : BitVec 4) (s : State) : (pendIrq c x l p s).rooms = s.rooms := rfl
@[simp] theorem pendIrq_irtes (c : CoreId) (x : BitVec 8) (l : BitVec 2) (p : BitVec 4) (s : State) : (pendIrq c x l p s).irtes = s.irtes := rfl
@[simp] theorem pendIrq_wings (c : CoreId) (x : BitVec 8) (l : BitVec 2) (p : BitVec 4) (s : State) : (pendIrq c x l p s).wings = s.wings := rfl
@[simp] theorem pendIrq_mem (c : CoreId) (x : BitVec 8) (l : BitVec 2) (p : BitVec 4) (s : State) : (pendIrq c x l p s).mem = s.mem := rfl
@[simp] theorem pendIrq_sluice (c : CoreId) (x : BitVec 8) (l : BitVec 2) (p : BitVec 4) (s : State) : (pendIrq c x l p s).sluice = s.sluice := rfl
@[simp] theorem pendIrq_levee (c : CoreId) (x : BitVec 8) (l : BitVec 2) (p : BitVec 4) (s : State) : (pendIrq c x l p s).levee = s.levee := rfl
@[simp] theorem pendIrq_coff (c : CoreId) (x : BitVec 8) (l : BitVec 2) (p : BitVec 4) (s : State) : (pendIrq c x l p s).coff = s.coff := rfl
@[simp] theorem pendIrq_pump (c : CoreId) (x : BitVec 8) (l : BitVec 2) (p : BitVec 4) (s : State) : (pendIrq c x l p s).pump = s.pump := rfl
@[simp] theorem pendIrq_porch (c : CoreId) (x : BitVec 8) (l : BitVec 2) (p : BitVec 4) (s : State) : (pendIrq c x l p s).porch = s.porch := rfl
@[simp] theorem pendIrq_power (c : CoreId) (x : BitVec 8) (l : BitVec 2) (p : BitVec 4) (s : State) : (pendIrq c x l p s).power = s.power := rfl
@[simp] theorem pendIrq_side (c : CoreId) (x : BitVec 8) (l : BitVec 2) (p : BitVec 4) (s : State) : (pendIrq c x l p s).side = s.side := rfl
@[simp] theorem pendIrq_doors (c : CoreId) (x : BitVec 8) (l : BitVec 2) (p : BitVec 4) (s : State) : (pendIrq c x l p s).doors = s.doors := rfl
@[simp] theorem pendIrq_th (c : CoreId) (x : BitVec 8) (l : BitVec 2) (p : BitVec 4) (s : State) : (pendIrq c x l p s).th = s.th := rfl
@[simp] theorem pendIrq_telem (c : CoreId) (x : BitVec 8) (l : BitVec 2) (p : BitVec 4) (s : State) : (pendIrq c x l p s).telem = s.telem := rfl
@[simp] theorem pendIrq_tap (c : CoreId) (x : BitVec 8) (l : BitVec 2) (p : BitVec 4) (s : State) : (pendIrq c x l p s).tap = s.tap := rfl
@[simp] theorem pendIrq_ltime (c : CoreId) (x : BitVec 8) (l : BitVec 2) (p : BitVec 4) (s : State) : (pendIrq c x l p s).ltime = s.ltime := rfl
@[simp] theorem pendIrq_inReset (c : CoreId) (x : BitVec 8) (l : BitVec 2) (p : BitVec 4) (s : State) : (pendIrq c x l p s).inReset = s.inReset := rfl
@[simp] theorem pendIrq_asked (c : CoreId) (x : BitVec 8) (l : BitVec 2) (p : BitVec 4) (s : State) : (pendIrq c x l p s).asked = s.asked := rfl
@[simp] theorem pendIrq_fresh (c : CoreId) (x : BitVec 8) (l : BitVec 2) (p : BitVec 4) (s : State) : (pendIrq c x l p s).fresh = s.fresh := rfl
@[simp] theorem pendIrq_pending (c : CoreId) (x : BitVec 8) (l : BitVec 2) (p : BitVec 4) (s : State) : (pendIrq c x l p s).pending = s.pending := rfl
@[simp] theorem irteDeliver_variant (n : Fin 1024) (v : Word) (s : State) : (irteDeliver n v s).variant = s.variant := by
  unfold irteDeliver
  simp only []
  repeat' split
  all_goals rfl
@[simp] theorem irteDeliver_stepping (n : Fin 1024) (v : Word) (s : State) : (irteDeliver n v s).stepping = s.stepping := by
  unfold irteDeliver
  simp only []
  repeat' split
  all_goals rfl
@[simp] theorem irteDeliver_rooms (n : Fin 1024) (v : Word) (s : State) : (irteDeliver n v s).rooms = s.rooms := by
  unfold irteDeliver
  simp only []
  repeat' split
  all_goals rfl
@[simp] theorem irteDeliver_wings (n : Fin 1024) (v : Word) (s : State) : (irteDeliver n v s).wings = s.wings := by
  unfold irteDeliver
  simp only []
  repeat' split
  all_goals rfl
@[simp] theorem irteDeliver_mem (n : Fin 1024) (v : Word) (s : State) : (irteDeliver n v s).mem = s.mem := by
  unfold irteDeliver
  simp only []
  repeat' split
  all_goals rfl
@[simp] theorem irteDeliver_sluice (n : Fin 1024) (v : Word) (s : State) : (irteDeliver n v s).sluice = s.sluice := by
  unfold irteDeliver
  simp only []
  repeat' split
  all_goals rfl
@[simp] theorem irteDeliver_levee (n : Fin 1024) (v : Word) (s : State) : (irteDeliver n v s).levee = s.levee := by
  unfold irteDeliver
  simp only []
  repeat' split
  all_goals rfl
@[simp] theorem irteDeliver_coff (n : Fin 1024) (v : Word) (s : State) : (irteDeliver n v s).coff = s.coff := by
  unfold irteDeliver
  simp only []
  repeat' split
  all_goals rfl
@[simp] theorem irteDeliver_pump (n : Fin 1024) (v : Word) (s : State) : (irteDeliver n v s).pump = s.pump := by
  unfold irteDeliver
  simp only []
  repeat' split
  all_goals rfl
@[simp] theorem irteDeliver_porch (n : Fin 1024) (v : Word) (s : State) : (irteDeliver n v s).porch = s.porch := by
  unfold irteDeliver
  simp only []
  repeat' split
  all_goals rfl
@[simp] theorem irteDeliver_power (n : Fin 1024) (v : Word) (s : State) : (irteDeliver n v s).power = s.power := by
  unfold irteDeliver
  simp only []
  repeat' split
  all_goals rfl
@[simp] theorem irteDeliver_side (n : Fin 1024) (v : Word) (s : State) : (irteDeliver n v s).side = s.side := by
  unfold irteDeliver
  simp only []
  repeat' split
  all_goals rfl
@[simp] theorem irteDeliver_doors (n : Fin 1024) (v : Word) (s : State) : (irteDeliver n v s).doors = s.doors := by
  unfold irteDeliver
  simp only []
  repeat' split
  all_goals rfl
@[simp] theorem irteDeliver_th (n : Fin 1024) (v : Word) (s : State) : (irteDeliver n v s).th = s.th := by
  unfold irteDeliver
  simp only []
  repeat' split
  all_goals rfl
@[simp] theorem irteDeliver_telem (n : Fin 1024) (v : Word) (s : State) : (irteDeliver n v s).telem = s.telem := by
  unfold irteDeliver
  simp only []
  repeat' split
  all_goals rfl
@[simp] theorem irteDeliver_tap (n : Fin 1024) (v : Word) (s : State) : (irteDeliver n v s).tap = s.tap := by
  unfold irteDeliver
  simp only []
  repeat' split
  all_goals rfl
@[simp] theorem irteDeliver_ltime (n : Fin 1024) (v : Word) (s : State) : (irteDeliver n v s).ltime = s.ltime := by
  unfold irteDeliver
  simp only []
  repeat' split
  all_goals rfl
@[simp] theorem irteDeliver_inReset (n : Fin 1024) (v : Word) (s : State) : (irteDeliver n v s).inReset = s.inReset := by
  unfold irteDeliver
  simp only []
  repeat' split
  all_goals rfl
@[simp] theorem irteDeliver_asked (n : Fin 1024) (v : Word) (s : State) : (irteDeliver n v s).asked = s.asked := by
  unfold irteDeliver
  simp only []
  repeat' split
  all_goals rfl
@[simp] theorem irteDeliver_fresh (n : Fin 1024) (v : Word) (s : State) : (irteDeliver n v s).fresh = s.fresh := by
  unfold irteDeliver
  simp only []
  repeat' split
  all_goals rfl
@[simp] theorem irteDeliver_pending (n : Fin 1024) (v : Word) (s : State) : (irteDeliver n v s).pending = s.pending := by
  unfold irteDeliver
  simp only []
  repeat' split
  all_goals rfl
@[simp] theorem irteMessage_variant (n : Fin 1024) (s : State) : (irteMessage n s).variant = s.variant := by
  unfold irteMessage
  simp only []
  split
  · exact irteDeliver_variant ..
  · rfl
@[simp] theorem irteMessage_stepping (n : Fin 1024) (s : State) : (irteMessage n s).stepping = s.stepping := by
  unfold irteMessage
  simp only []
  split
  · exact irteDeliver_stepping ..
  · rfl
@[simp] theorem irteMessage_rooms (n : Fin 1024) (s : State) : (irteMessage n s).rooms = s.rooms := by
  unfold irteMessage
  simp only []
  split
  · exact irteDeliver_rooms ..
  · rfl
@[simp] theorem irteMessage_wings (n : Fin 1024) (s : State) : (irteMessage n s).wings = s.wings := by
  unfold irteMessage
  simp only []
  split
  · exact irteDeliver_wings ..
  · rfl
@[simp] theorem irteMessage_mem (n : Fin 1024) (s : State) : (irteMessage n s).mem = s.mem := by
  unfold irteMessage
  simp only []
  split
  · exact irteDeliver_mem ..
  · rfl
@[simp] theorem irteMessage_sluice (n : Fin 1024) (s : State) : (irteMessage n s).sluice = s.sluice := by
  unfold irteMessage
  simp only []
  split
  · exact irteDeliver_sluice ..
  · rfl
@[simp] theorem irteMessage_levee (n : Fin 1024) (s : State) : (irteMessage n s).levee = s.levee := by
  unfold irteMessage
  simp only []
  split
  · exact irteDeliver_levee ..
  · rfl
@[simp] theorem irteMessage_coff (n : Fin 1024) (s : State) : (irteMessage n s).coff = s.coff := by
  unfold irteMessage
  simp only []
  split
  · exact irteDeliver_coff ..
  · rfl
@[simp] theorem irteMessage_pump (n : Fin 1024) (s : State) : (irteMessage n s).pump = s.pump := by
  unfold irteMessage
  simp only []
  split
  · exact irteDeliver_pump ..
  · rfl
@[simp] theorem irteMessage_porch (n : Fin 1024) (s : State) : (irteMessage n s).porch = s.porch := by
  unfold irteMessage
  simp only []
  split
  · exact irteDeliver_porch ..
  · rfl
@[simp] theorem irteMessage_power (n : Fin 1024) (s : State) : (irteMessage n s).power = s.power := by
  unfold irteMessage
  simp only []
  split
  · exact irteDeliver_power ..
  · rfl
@[simp] theorem irteMessage_side (n : Fin 1024) (s : State) : (irteMessage n s).side = s.side := by
  unfold irteMessage
  simp only []
  split
  · exact irteDeliver_side ..
  · rfl
@[simp] theorem irteMessage_doors (n : Fin 1024) (s : State) : (irteMessage n s).doors = s.doors := by
  unfold irteMessage
  simp only []
  split
  · exact irteDeliver_doors ..
  · rfl
@[simp] theorem irteMessage_th (n : Fin 1024) (s : State) : (irteMessage n s).th = s.th := by
  unfold irteMessage
  simp only []
  split
  · exact irteDeliver_th ..
  · rfl
@[simp] theorem irteMessage_telem (n : Fin 1024) (s : State) : (irteMessage n s).telem = s.telem := by
  unfold irteMessage
  simp only []
  split
  · exact irteDeliver_telem ..
  · rfl
@[simp] theorem irteMessage_tap (n : Fin 1024) (s : State) : (irteMessage n s).tap = s.tap := by
  unfold irteMessage
  simp only []
  split
  · exact irteDeliver_tap ..
  · rfl
@[simp] theorem irteMessage_ltime (n : Fin 1024) (s : State) : (irteMessage n s).ltime = s.ltime := by
  unfold irteMessage
  simp only []
  split
  · exact irteDeliver_ltime ..
  · rfl
@[simp] theorem irteMessage_inReset (n : Fin 1024) (s : State) : (irteMessage n s).inReset = s.inReset := by
  unfold irteMessage
  simp only []
  split
  · exact irteDeliver_inReset ..
  · rfl
@[simp] theorem irteMessage_asked (n : Fin 1024) (s : State) : (irteMessage n s).asked = s.asked := by
  unfold irteMessage
  simp only []
  split
  · exact irteDeliver_asked ..
  · rfl
@[simp] theorem irteMessage_fresh (n : Fin 1024) (s : State) : (irteMessage n s).fresh = s.fresh := by
  unfold irteMessage
  simp only []
  split
  · exact irteDeliver_fresh ..
  · rfl
@[simp] theorem irteMessage_pending (n : Fin 1024) (s : State) : (irteMessage n s).pending = s.pending := by
  unfold irteMessage
  simp only []
  split
  · exact irteDeliver_pending ..
  · rfl
@[simp] theorem retire_variant (c : CoreId) (n : Next) (s : State) : (retire c n s).variant = s.variant := rfl
@[simp] theorem retire_stepping (c : CoreId) (n : Next) (s : State) : (retire c n s).stepping = s.stepping := rfl
@[simp] theorem retire_rooms (c : CoreId) (n : Next) (s : State) : (retire c n s).rooms = s.rooms := rfl
@[simp] theorem retire_irtes (c : CoreId) (n : Next) (s : State) : (retire c n s).irtes = s.irtes := rfl
@[simp] theorem retire_wings (c : CoreId) (n : Next) (s : State) : (retire c n s).wings = s.wings := rfl
@[simp] theorem retire_mem (c : CoreId) (n : Next) (s : State) : (retire c n s).mem = s.mem := rfl
@[simp] theorem retire_sluice (c : CoreId) (n : Next) (s : State) : (retire c n s).sluice = s.sluice := rfl
@[simp] theorem retire_levee (c : CoreId) (n : Next) (s : State) : (retire c n s).levee = s.levee := rfl
@[simp] theorem retire_coff (c : CoreId) (n : Next) (s : State) : (retire c n s).coff = s.coff := rfl
@[simp] theorem retire_pump (c : CoreId) (n : Next) (s : State) : (retire c n s).pump = s.pump := rfl
@[simp] theorem retire_porch (c : CoreId) (n : Next) (s : State) : (retire c n s).porch = s.porch := rfl
@[simp] theorem retire_power (c : CoreId) (n : Next) (s : State) : (retire c n s).power = s.power := rfl
@[simp] theorem retire_side (c : CoreId) (n : Next) (s : State) : (retire c n s).side = s.side := rfl
@[simp] theorem retire_doors (c : CoreId) (n : Next) (s : State) : (retire c n s).doors = s.doors := rfl
@[simp] theorem retire_telem (c : CoreId) (n : Next) (s : State) : (retire c n s).telem = s.telem := rfl
@[simp] theorem retire_tap (c : CoreId) (n : Next) (s : State) : (retire c n s).tap = s.tap := rfl
@[simp] theorem retire_ltime (c : CoreId) (n : Next) (s : State) : (retire c n s).ltime = s.ltime := rfl
@[simp] theorem retire_inReset (c : CoreId) (n : Next) (s : State) : (retire c n s).inReset = s.inReset := rfl
@[simp] theorem retire_asked (c : CoreId) (n : Next) (s : State) : (retire c n s).asked = s.asked := rfl
@[simp] theorem retire_fresh (c : CoreId) (n : Next) (s : State) : (retire c n s).fresh = s.fresh := rfl
@[simp] theorem retire_pending (c : CoreId) (n : Next) (s : State) : (retire c n s).pending = s.pending := rfl

end Machine
end Sys2Proof
end

