-- ==== Sys2Proof/WellFormed.lean ====
section
/-! DEFINITION. Which commands are terms of their row: the checks on operands that their types leave open. -/

namespace Sys2Proof

open Machine (fld bit)

/-- The register numbers of R42 whose writes have a row of their own: STATUS, MODE, FCTL, DSE_INFO, DSE_COUNT, LCOUNT, TCFG, OCFG, TSTATn,
VSHAPE, VCOUNT. -/
def hasNoRow (n : BitVec 12) : Bool :=
  !([0x000, 0x001, 0x010, 0x029, 0x02A, 0x042, 0x100, 0x101, 0x120, 0x121].contains n.toNat || (0x108 ≤ n.toNat && n.toNat < 0x110))

/-- The control-space offsets whose writes have a row of their own: PO_RPLCI, PH_MBOX, IRTEn, ISWI, RANGE_OP, the step pages, LEVEE_TMR,
PW_WRST (R579). -/
def offsetHasNoRow (o : Nat) : Bool :=
  !(o = 0x010020 || o = 0x020010 || (0x040000 ≤ o && o < 0x042000) || (0x048000 ≤ o && o < 0x048800 && o % 0x40 = 0x28) ||
    (0x080000 ≤ o && o < 0x100000 && 0x1000 ≤ o % 0x20000 && o % 0x20000 < 0x5000 && o % 0x1000 = 0x10) ||
    (0x410000 ≤ o && o < 0x420000) || (0x400400 ≤ o && o < 0x400800 && o % 0x40 = 0x08) || o = 0x480038)

/-- The trigger ports of the pumphouse (R458, R462). -/
def triggers (id : BitVec 8) : Bool :=
  let n := id.toNat
  (0x10 ≤ n && n < 0x1C) || (0x38 ≤ n && n < 0x40) || (0x41 ≤ n && n < 0x45) || n = 0x48 || (0x50 ≤ n && n < 0x5A) || (0x68 ≤ n && n < 0x6C)

/-- A pumphouse word whose moves write no trigger port (R458); source 0x02 on bus 0 makes it a long immediate of one move. -/
def quietWord (w : BitVec 32) : Bool := !triggers (fld w 16 8) && (fld w 24 8 = 2 || !triggers (fld w 0 8))

/-- What start-up finds names units that exist, and one outcome for each doorway (R525). -/
def StartUp.wf (x : StartUp) : Bool :=
  x.badCores.all (· < 34) && x.badLanes.all (fun l => decide (l.1 < 34) && decide (l.2 < 34)) && x.doors.length = 8 && x.peers.length = 8 &&
    x.badWays.all (fun l => decide (l.1 < 4) && decide (l.2 < 16)) && x.badLvu.all (· < 32)

/-- The command is a term of its row. -/
def Instr.wellFormed : Instr → Bool
  | .syswr _ n _ => hasNoRow n
  | .fcvtXF _ code _ _ _ _ => 2 ≤ code && code ≤ 11
  | .fcvtXnF _ code _ _ _ _ => 2 ≤ code && code ≤ 5
  | .fcvtFX _ code _ _ _ _ => 2 ≤ code && code ≤ 11
  | .deferredStoreError _ _ size kind _ _ src => size ≤ 6 && 1 ≤ kind && kind ≤ 5 && src ≤ 2
  | .clean _ _ _ v => fld v 0 3 = 0
  | .invalidate _ _ _ v => fld v 0 3 = 1
  | .cleanAndInvalidate _ _ _ v => fld v 0 3 = 2
  | .zeroFill _ _ _ v => fld v 0 3 = 3
  | .demote _ _ _ v => fld v 0 3 = 4
  | .prefetch _ _ _ v => fld v 0 3 = 5
  | .moverGo v => bit v 17
  | .identify p => p.tag ≠ 0xFFFF
  | .setLatency p => p.tag ≠ 0xFFFF
  | .setQuiet p => p.tag ≠ 0xFFFF
  | .setPowerCap p => p.tag ≠ 0xFFFF
  | .powerStatus p => p.tag ≠ 0xFFFF
  | .corePause p => p.tag ≠ 0xFFFF
  | .coreResume p => p.tag ≠ 0xFFFF
  | .coreReset p => p.tag ≠ 0xFFFF
  | .coreStatus p => p.tag ≠ 0xFFFF
  | .keyLoad p => p.tag ≠ 0xFFFF
  | .keyErase p => p.tag ≠ 0xFFFF
  | .slConfig p => p.tag ≠ 0xFFFF
  | .regionRegister p => p.tag ≠ 0xFFFF
  | .regionRevoke p => p.tag ≠ 0xFFFF
  | .qpCreate p => p.tag ≠ 0xFFFF
  | .qpModify p => p.tag ≠ 0xFFFF
  | .qpDestroy p => p.tag ≠ 0xFFFF
  | .qpQuery p => p.tag ≠ 0xFFFF
  | .anteQuota p => p.tag ≠ 0xFFFF
  | .shardDefine p => p.tag ≠ 0xFFFF
  | .shardDisable p => p.tag ≠ 0xFFFF
  | .leveeCheckpoint p => p.tag ≠ 0xFFFF
  | .leveeRestore p => p.tag ≠ 0xFFFF
  | .leveeAbort p => p.tag ≠ 0xFFFF
  | .rasStatus p => p.tag ≠ 0xFFFF
  | .rasCounts p => p.tag ≠ 0xFFFF
  | .lptRelease p => p.tag ≠ 0xFFFF
  | .coreFence p => p.tag ≠ 0xFFFF
  | .fwInfo p => p.tag ≠ 0xFFFF
  | .fwSvnRaise p => p.tag ≠ 0xFFFF
  | .fwReload p su => p.tag ≠ 0xFFFF && su.wf
  | .telemConfig p => p.tag ≠ 0xFFFF
  | .thermLimits p => p.tag ≠ 0xFFFF
  | .thermStatus p => p.tag ≠ 0xFFFF
  | .shutdown p => p.tag ≠ 0xFFFF
  | .dieReset p su => p.tag ≠ 0xFFFF && su.wf
  | .telemetrySample t => t.railMv.length = 4 && t.railMw.length = 4
  | .thermalSample temps => temps.length = 96
  | .coldReset _ su => su.wf
  | .pwWrst _ _ su => su.wf
  | .retrain _ _ v _ _ _ _ => bit v 1
  | .doorwayDisable _ _ v => !bit v 0
  | .registerWrite _ off size _ => (size = 1 || size = 2 || size = 4 || size = 8) && offsetHasNoRow off.toNat
  | .move w => quietWord w
  | .add .. | .sub .. | .and .. | .or .. | .xor .. | .sll .. | .srl .. | .sra .. | .slt .. | .sltu .. | .min .. | .max .. | .minu ..
  | .maxu .. | .andn .. | .clz .. | .ctz .. | .popc .. | .rev8 .. | .addW .. | .subW .. | .sllW .. | .srlW .. | .sraW .. | .addi ..
  | .andi .. | .ori .. | .xori .. | .slti .. | .sltiu .. | .slli .. | .srli .. | .srai .. | .addiW .. | .lui .. | .mul .. | .mulh ..
  | .mulhu .. | .mulhsu .. | .div .. | .divu .. | .rem .. | .remu .. | .lb .. | .lbu .. | .lh .. | .lhu .. | .lw .. | .lwu .. | .ld ..
  | .fldS .. | .fldD .. | .sb .. | .sh .. | .sw .. | .sd .. | .fsdS .. | .fsdD .. | .amoswap .. | .amoadd .. | .amoand .. | .amoor ..
  | .amoxor .. | .amomin .. | .amomax .. | .amominu .. | .amomaxu .. | .cas .. | .beq .. | .bne .. | .blt .. | .bge .. | .bltu ..
  | .bgeu .. | .beqz .. | .bnez .. | .bltz .. | .bgez .. | .blez .. | .bgtz .. | .jal .. | .jalr .. | .loop .. | .sysrd ..
  | .syswrStatus .. | .syswrFctl .. | .syswrTcfg .. | .syswrOcfg .. | .syswrTstat .. | .syswrVcount .. | .syswrVshape ..
  | .syswrLcount .. | .dseNext .. | .dseOvfClear .. | .strongroomEntry .. | .strongroomExit .. | .fenceR .. | .fenceW .. | .fenceRw ..
  | .isync .. | .ecall .. | .ebreak .. | .eret .. | .sleep .. | .coreWake .. | .fadd .. | .fsub .. | .fmul .. | .fdiv .. | .fsqrt ..
  | .fmin .. | .fmax .. | .fsgnj .. | .fsgnjn .. | .fsgnjx .. | .feq .. | .flt .. | .fle .. | .fclass .. | .frem .. | .fmini ..
  | .fmaxi .. | .frint .. | .fmadd .. | .fmsub .. | .fnmadd .. | .fnmsub .. | .fcvtDS .. | .fcvtSD .. | .fcvtGF .. | .fcvtGuF ..
  | .fcvtFG .. | .fcvtFGu .. | .fmvGF .. | .fmvFG .. | .fcvtFE8 .. | .fcvtE8F .. | .tld .. | .tst .. | .tzero .. | .tcfg .. | .tsave ..
  | .trest .. | .tsync .. | .tmac .. | .tmacCommit .. | .laneTest .. | .tfold .. | .tfoldCommit .. | .tout .. | .vadd .. | .vsub ..
  | .vand .. | .vor .. | .vxor .. | .vsll .. | .vsrl .. | .vsra .. | .vmin .. | .vmax .. | .vminu .. | .vmaxu .. | .vmul .. | .vmulh ..
  | .vmulhu .. | .vcmpeq .. | .vcmpne .. | .vcmplt .. | .vcmple .. | .vcmpltu .. | .vcmpleu .. | .vfadd .. | .vfsub .. | .vfmul ..
  | .vfdiv .. | .vfsqrt .. | .vfmin .. | .vfmax .. | .vfmadd .. | .vfnmsub .. | .vfsgnj .. | .vfeq .. | .vflt .. | .vfle .. | .vsetl ..
  | .vcvtN .. | .vcvtW .. | .vcvtIF .. | .vcvtFI .. | .vredsum .. | .vfredsum .. | .vredmin .. | .vredmax .. | .vfredmin ..
  | .vfredmax .. | .vmvVG .. | .vmvGV .. | .vmvVF .. | .vmvFV .. | .vslidedn .. | .vslideup .. | .vperm .. | .vcompress .. | .vmand ..
  | .vmor .. | .vmxor .. | .vmandn .. | .vmpopc .. | .vmfirst .. | .vid .. | .vld .. | .vst .. | .vlds .. | .vsts .. | .vldx ..
  | .vstx .. | .vldff .. | .vldxff .. | .vld2 .. | .vld3 .. | .vld4 .. | .vst2 .. | .vst3 .. | .vst4 .. | .vlm .. | .vsm ..
  | .exceptionEntry .. | .interruptMessage .. | .irteWrite .. | .iswi .. | .coreTimer .. | .rangeComplete .. | .scrub .. | .ieccPoll ..
  | .postPackageRepair .. | .sqPi .. | .rqPi .. | .cqArm .. | .nop .. | .write .. | .read .. | .send .. | .atomicFadd ..
  | .atomicCswap .. | .flush .. | .wait .. | .waitSatisfied .. | .packetTransmit .. | .writePacket .. | .sendPacket .. | .readReq ..
  | .readResp .. | .atomicReq .. | .atomicResp .. | .flushReq .. | .flushResp .. | .ack .. | .nak .. | .echo .. | .ackTimer ..
  | .echoTimer .. | .retransmitTimeout .. | .rnrBackoff .. | .rateWindow .. | .rateIdleReset .. | .contextFetchDone .. | .revokeCut ..
  | .step .. | .leveeTmrWrite .. | .leveeTimer .. | .armPoint .. | .armResume .. | .granuleCopy .. | .commitRecord .. | .restoreCopy ..
  | .pauseWatchdog .. | .fabricWatchdog .. | .fabricReplayExhausted .. | .lateSpeaker .. | .spareRoomMove .. | .wayDisable ..
  | .rowRepair .. | .unitFence .. | .aluAddT .. | .aluAdcT .. | .aluSubT .. | .aluSbcT .. | .aluAndT .. | .aluOrT .. | .aluXorT ..
  | .aluCmpT .. | .aluShlT .. | .aluShrT .. | .aluSarT .. | .aluMovT .. | .ptrAddT .. | .lsuLdpT .. | .lsuStpT .. | .lsuLdaT ..
  | .lsuStaT .. | .stkPushT .. | .stkPop .. | .brJmpT .. | .brZT .. | .brNzT .. | .brCT .. | .brNcT .. | .brNT .. | .brLtT .. | .brGeT ..
  | .brCallT .. | .brRetT .. | .evtWaitT .. | .evtWaitResume .. | .evtClrT .. | .tmrT .. | .timerExpiry .. | .hbT .. | .moverDone ..
  | .phMboxWrite .. | .poRplciWrite .. | .fwSvnRaiseDone .. | .powerSample .. | .criticalTimeout .. | .thermAlertN .. | .stormMaskEnd ..
  | .thermAlertStuck .. | .wakeN .. | .wakeStuck .. | .rstN .. | .fwFetchTimeout .. | .refclkLoss .. | .rootPllUnlock ..
  | .stackPllUnlock .. | .railOutOfRange .. | .powerRemoval .. | .unitPowerGate .. | .dieQuietEntry .. | .dieQuietExit .. | .training ..
  | .laneFault .. | .l1Entry .. | .flit .. | .flitKeepalive .. | .init .. | .initResend .. | .quiesce .. | .stop .. | .doorwayLost ..
  | .rdshared .. | .rdown .. | .upgrade .. | .rdcur .. | .wrline .. | .wrpart .. | .evict .. | .wbline .. | .thAtomic .. | .thFlush ..
  | .devrd .. | .devwr .. | .int .. | .incupd .. | .cmp .. | .gntm .. | .devdata .. | .atmdata .. | .snpack .. | .snpinv .. | .snpshr ..
  | .snpdown .. | .snpcur .. | .datas .. | .datae .. | .datam .. | .datacur .. | .datawr .. | .datapart .. | .datawb .. | .datasnpi ..
  | .datasnpo .. | .datasnpkeep .. | .idcode .. | .bypass .. | .samplePreload .. | .extest .. | .lvuSelfTest .. => true

end Sys2Proof
end

