-- ==== Sys2Proof/Tests/Slice0.lean ====
section
/-! SUPPORT. Tests of the model: the checks of WellFormed, witnesses for the hypotheses of the statements, and single commands. -/

open Sys2Proof Sys2Proof.Machine

namespace Sys2Proof.Tests

set_option maxRecDepth 10000
set_option Elab.async false

/-! ## Small states -/

/-- A core that runs at PL3 from the strongroom SRAM. -/
def k0 : Core := { Core.reset with held := false, pc := 0xFFC0000000000 }
/-- The die with the root PLL locked, and core 0 so. -/
def on (k : Core) : State := { State.reset with power := { State.reset.power with rootLock := true } }.setCore 0 k
def w0 : State := on k0

/-- General registers of core 0. -/
def gs (l : List (Nat × Word)) (k : Core) : Core := { k with g := Vector.ofFn fun i => (l.find? fun p => p.1 = i.val).elim 0 (·.2) }

/-! ## Witnesses: scalar instructions -/

/-- What an operation leaves, and what it answers. -/
def leaves {α : Type} : EStateM.Result Exit State α → State
  | .ok _ t => t
  | .error _ t => t
def answers {α : Type} : EStateM.Result Exit State α → Option α
  | .ok a _ => some a
  | .error _ _ => none
theorem ok_of {α : Type} {r : EStateM.Result Exit State α} {a : α} (h : answers r = some a) : r = .ok a (leaves r) := by
  cases r <;> simp_all [answers, leaves]
/-- An exception is taken: some state follows. -/
def taken (c : CoreId) (e : Exc) (s : State) : Prop := ∃ u, takeExc c e s = .ok () u

theorem ready_w0 : Ready 0 w0 := ⟨by decide, by decide, by decide, by decide, rfl, rfl⟩
theorem readyBranch_w0 : ReadyBranch 0 w0 := { ready_w0 with notEnd := by decide }

/-- g1 is the least integer, g2 is -1, g3 is 0. -/
def wDiv : State := on (gs [(1, 0x8000000000000000), (2, 0xFFFFFFFFFFFFFFFF)] k0)
theorem ready_wDiv : Ready 0 wDiv := ⟨by decide, by decide, by decide, by decide, rfl, rfl⟩
theorem witness_IntegerResults : Ready 0 w0 ∧ ∃ i < 64, leadZeros 1 < 64 ∧ i < leadZeros 1 := ⟨ready_w0, 0, by decide, by decide, by decide⟩
theorem witness_DivisionSaturates_overflow :
    Ready 0 wDiv ∧ wDiv.g 0 1 = 0x8000000000000000 ∧ wDiv.g 0 2 = 0xFFFFFFFFFFFFFFFF := ⟨ready_wDiv, by decide, by decide⟩
theorem witness_DivisionSaturates_zero : Ready 0 wDiv ∧ (wDiv.g 0 1).toInt < 0 ∧ wDiv.g 0 3 = 0 := ⟨ready_wDiv, by decide, by decide⟩
theorem witness_BranchesAndJumps :
    ReadyBranch 0 w0 ∧ fld (w0.pc 0) 0 2 = 0 ∧ fld (w0.g 0 0 + (4 : BitVec 12).signExtend 64) 0 2 = 0 := ⟨readyBranch_w0, by decide, by decide⟩
theorem witness_LoopsRun : ReadyBranch 0 w0 ∧ (1 : BitVec 12) ≠ 0 ∧ (w0.core 0).lcount = 0 := ⟨readyBranch_w0, by decide, by decide⟩
/-- A core in a loop of two rounds, before its end, at its end, and in the last round. -/
def kLoop (pc n : Word) : Core := { k0 with pc := pc, lstart := 0x100, lend := 0x108, lcount := n }
theorem witness_LoopsRun_before : (kLoop 0x104 2).lcount ≠ 0 ∧ (kLoop 0x104 2).pc ≠ (kLoop 0x104 2).lend := by decide
theorem witness_LoopsRun_again :
    (kLoop 0x108 2).lcount ≠ 0 ∧ (kLoop 0x108 2).pc = (kLoop 0x108 2).lend ∧ (kLoop 0x108 2).lcount ≠ 1 := by decide
theorem witness_LoopsRun_last : (kLoop 0x108 1).lcount = 1 ∧ (kLoop 0x108 1).pc = (kLoop 0x108 1).lend := by decide
theorem witness_LoopsRun_inside : (kLoop 0x104 2).lcount ≠ 0 ∧ (kLoop 0x104 2).lstart ≤ 0x108 ∧ (0x108 : Word) ≤ (kLoop 0x104 2).lend := by decide
theorem witness_LoopsRun_outside : (kLoop 0x104 2).lcount ≠ 0 ∧ ((0xFC : Word) < (kLoop 0x104 2).lstart ∨ (kLoop 0x104 2).lend < 0xFC) := by decide

/-- Its state, and at the address 2 beyond a word of the SRAM, where a jump's target is not one. -/
theorem ready_loop : Ready 0 (on (kLoop 0xFFC0000000000 2)) := ⟨by decide, by decide, by decide, by decide, rfl, rfl⟩
theorem witness_LoopsRun_stops :
    (Ready 0 (on (kLoop 0xFFC0000000000 2)) ∧ ((on (kLoop 0xFFC0000000000 2)).core 0).lcount ≠ 0) ∧
      (Ready 0 (on { kLoop 0xFFC0000000000 2 with lend := 0xFFC0000000000 }) ∧
        (on { kLoop 0xFFC0000000000 2 with lend := 0xFFC0000000000 }).pc 0 = ((on { kLoop 0xFFC0000000000 2 with lend := 0xFFC0000000000 }).core 0).lend) :=
  ⟨⟨ready_loop, by decide⟩, ⟨by decide, by decide, by decide, by decide, rfl, rfl⟩, by decide⟩
theorem witness_BranchesAndJumps_stops :
    (ReadyBranch 0 (on { k0 with pc := 0xFFC0000000002 }) ∧ fld ((on { k0 with pc := 0xFFC0000000002 }).pc 0 + (0 : BitVec 22).signExtend 64 <<< 2) 0 2 ≠ 0) ∧
      (ReadyBranch 0 w0 ∧ fld (w0.g 0 0 + (6 : BitVec 12).signExtend 64) 0 2 ≠ 0) ∧ taken 0 ⟨2, 0, some 6⟩ w0 :=
  ⟨⟨{ runs := by decide, noPause := by decide, noArm := by decide, noEvent := by decide, files := rfl, fetches := rfl, notEnd := by decide }, by decide⟩,
    ⟨readyBranch_w0, by decide⟩, _, rfl⟩

theorem inSram_of {c : CoreId} {a n : Nat} {s : State} (hb : 0xFFC0000000000 ≤ a) (ht : a + n ≤ 0xFFC0000040000)
    (hg : (s.core c).sramBad = []) : InSram c a n s := ⟨hb, ht, fun i _ => by rw [hg]; rfl⟩

/-- g1 names the last doubleword of the SRAM. -/
def wTop : State := on (gs [(1, 0xFFC000003FFF8), (2, 5)] k0)
theorem ready_wTop : Ready 0 wTop := ⟨by decide, by decide, by decide, by decide, rfl, rfl⟩
theorem physical_wTop : Physical 0 wTop := ⟨by decide, by decide⟩
theorem witness_StrongroomLoadsAndStores : Ready 0 wTop ∧ ∀ n ∈ [1, 2, 4, 8], SramAccess 0 (wTop.g 0 1 + (0 : BitVec 12).signExtend 64).toNat n wTop :=
  ⟨ready_wTop, fun n hn => by
    have : (wTop.g 0 1 + (0 : BitVec 12).signExtend 64).toNat = 0xFFC000003FFF8 := by decide
    rw [this]
    refine { inSram_of (by decide) ?_ rfl with aligned := ?_, reach := .inl physical_wTop }
    · simp at hn; rcases hn with h | h | h | h <;> subst h <;> decide
    · simp at hn; rcases hn with h | h | h | h <;> subst h <;> decide⟩
/-- In strongroom mode at PL1, with a window over the whole SRAM. -/
def wSrm : State := on { gs [(1, 0xFFC0000000040)] k0 with status := 0x81, mode := 1, srwin := 0x10000 }
theorem ready_wSrm : Ready 0 wSrm := ⟨by decide, by decide, by decide, by decide, rfl, rfl⟩
theorem witness_StrongroomLoadsAndStores_window : Ready 0 wSrm ∧ SramAccess 0 (wSrm.g 0 1).toNat 8 wSrm :=
  ⟨ready_wSrm, { inSram_of (by decide) (by decide) rfl with aligned := by decide, reach := .inr ⟨by decide, by decide⟩ }⟩
theorem witness_AtomicsAndMisalignedAccesses : Ready 0 wTop ∧ ∀ dbl : Bool, SramAccess 0 (wTop.g 0 1).toNat (if dbl then 8 else 4) wTop :=
  ⟨ready_wTop, fun dbl => by
    cases dbl
    · exact { inSram_of (by decide) (by decide) rfl with aligned := by decide, reach := .inl physical_wTop }
    · exact { inSram_of (by decide) (by decide) rfl with aligned := by decide, reach := .inl physical_wTop }⟩
theorem witness_AtomicsAndMisalignedAccesses_refused :
    ((0xFFC0000000001 : Word).toNat % 2 ≠ 0 ∧ ((w0.core 0).mal = false ∨ (w0.core 0).srm = true)) ∧ (0xFFC0000000004 : Word).toNat % 8 ≠ 0 := by
  decide

/-- Core 0's L2 holds line 2 in M. -/
def wHeld : State := on { gs [(1, 0x80)] k0 with l2 := [(2, ⟨[(0, ⟨2, .m, 0⟩)], 0⟩)] }
theorem ready_wHeld : Ready 0 wHeld := ⟨by decide, by decide, by decide, by decide, rfl, rfl⟩
theorem linesAt_one {a n : Nat} (h : a / 64 = (a + n - 1) / 64) : linesAt a n = [a / 64] := if_pos h
theorem witness_HeldLineLoadsAndStores :
    Ready 0 wHeld ∧ ∀ n ∈ [1, 2, 4, 8], HeldAccess 0 (wHeld.g 0 1).toNat n wHeld ∧ ∀ l ∈ linesAt (wHeld.g 0 1).toNat n, coreHolds (wHeld.core 0) l = some .m := by
  refine ⟨ready_wHeld, fun n hn => ?_⟩
  have hl : linesAt (wHeld.g 0 1).toNat n = [2] := by simp at hn; rcases hn with h | h | h | h <;> subst h <;> decide
  have hb : n ≤ 8 := by simp at hn; omega
  refine ⟨{ level := by decide, outside := by decide, aligned := .inl (by simp at hn; rcases hn with h | h | h | h <;> subst h <;> decide),
            package := ?_, held := ?_, kept := ?_, sound := ?_ }, ?_⟩
  · have : (wHeld.g 0 1).toNat = 0x80 := by decide
    omega
  all_goals rw [hl]; decide
/-- STATUS.MAL is 1, and the address is 4 before the end of the line; the core holds both lines. -/
def wHeldMal : State := on { gs [(1, 0xBC)] k0 with l2 := [(2, ⟨[(0, ⟨2, .m, 0⟩)], 0⟩), (3, ⟨[(0, ⟨3, .m, 0⟩)], 0⟩)], status := 0xB }
theorem witness_HeldLineLoadsAndStores_misaligned :
    Ready 0 wHeldMal ∧ (wHeldMal.g 0 1).toNat % 8 ≠ 0 ∧ linesAt (wHeldMal.g 0 1).toNat 8 = [2, 3] ∧ HeldAccess 0 (wHeldMal.g 0 1).toNat 8 wHeldMal ∧
      ∀ l ∈ linesAt (wHeldMal.g 0 1).toNat 8, coreHolds (wHeldMal.core 0) l = some .m :=
  ⟨⟨by decide, by decide, by decide, by decide, rfl, rfl⟩, by decide, by decide,
    { level := by decide, outside := by decide, aligned := .inr (by decide), package := by decide, held := by decide, kept := by decide, sound := by decide }, by decide⟩

/-! ## Witnesses: system registers, exceptions, floating point -/

/-- In strongroom mode at PL0. -/
def wUser : State := on { k0 with status := 0x80, mode := 1, srwin := 0x10000 }
theorem ready_wUser : Ready 0 wUser := ⟨by decide, by decide, by decide, by decide, rfl, rfl⟩
theorem witness_SystemRegisterAccessLevels_level :
    Ready 0 wUser ∧ sysLevel 0x020 = some (1, some 1) ∧ (wUser.core 0).pl.toNat < 1 ∧ sysLevel 0x03A = none ∧ sysLevel 0x125 = none :=
  ⟨ready_wUser, by decide, by decide, by decide, by decide⟩
theorem witness_SystemRegisterAccessLevels_enable :
    Ready 0 w0 ∧ sysLevel 0x100 = some (0, some 0) ∧ sysTile 0x100 = true ∧ (w0.core 0).ten = false ∧
      sysLevel 0x120 = some (0, some 0) ∧ sysVec 0x120 = true ∧ (w0.core 0).ven = false := ⟨ready_w0, by decide⟩
theorem witness_SystemRegisterAccessLevels_readOnly : Ready 0 w0 ∧ sysLevel 0x002 = some (0, none) ∧ 0 ≤ (w0.core 0).pl.toNat := ⟨ready_w0, by decide⟩
theorem witness_SystemRegisterAccessLevels_trap : taken 0 ⟨5, 2, none⟩ wUser := ⟨_, rfl⟩

/-- Tile and vector state enabled at PL3; g1 is 1, g2 is 5, g3 a valid TCFG. -/
def kTile : Core := { gs [(1, 1), (2, 5), (3, 0x1040044)] k0 with status := 0x33 }
def wTile : State := on kTile
theorem ready_wTile : Ready 0 wTile := ⟨by decide, by decide, by decide, by decide, rfl, rfl⟩
theorem witness_SystemRegisterReadsAndWrites :
    Ready 0 wTile ∧ wTile.pl 0 = 3 ∧ (wTile.core 0).ten = true ∧ (wTile.core 0).ven = true ∧ (wTile.core 0).flight = [] ∧
      (wTile.core 0).mxStopped = false := ⟨ready_wTile, by decide⟩
theorem witness_SystemRegisterWritesWithRows :
    Ready 0 wTile ∧ 2 ≤ (wTile.pl 0).toNat ∧ (fld (wTile.g 0 1) 0 3).toNat ≤ 4 ∧ 4 < (fld (wTile.g 0 2) 0 3).toNat ∧
      (wTile.core 0).stepOut = [] ∧ tcfgOk (wTile.g 0 3) = true ∧ ocfgOk (wTile.g 0 1) = true ∧ (fld (wTile.g 0 1) 32 7).toNat ≤ 64 ∧
      bit (wTile.g 0 1) 0 = true ∧ bit (wTile.g 0 0) 0 = false := ⟨ready_wTile, by decide⟩
/-- At PL1 in strongroom mode, without and with SRGNT. -/
def wGrant (st : Word) : State := on { gs [(1, 1)] k0 with status := st, mode := 1, srwin := 0x10000 }
theorem witness_SystemRegisterWritesWithRows_grant :
    Ready 0 (wGrant 0xC1) ∧ (wGrant 0xC1).pl 0 = 1 ∧ bit ((wGrant 0xC1).core 0).status 6 = true ∧ bit ((wGrant 0xC1).g 0 1) 0 = true :=
  ⟨⟨by decide, by decide, by decide, by decide, rfl, rfl⟩, by decide⟩
theorem witness_SystemRegisterWritesWithRows_noGrant :
    Ready 0 (wGrant 0x81) ∧ (wGrant 0x81).pl 0 = 1 ∧ bit ((wGrant 0x81).core 0).status 6 = false ∧ bit ((wGrant 0x81).g 0 1) 0 = true :=
  ⟨⟨by decide, by decide, by decide, by decide, rfl, rfl⟩, by decide⟩

/-- A STEP store is outstanding; an interrupt is pending with interrupts off; the core sleeps. -/
def wStep : State := on { k0 with stepOut := [0] }
def wIrq (asleep : Bool) : State := on { k0 with irqs := [⟨0x10, 3, 0⟩], asleep := asleep }
theorem witness_BarriersSleepAndWake :
    Ready 0 w0 ∧ (w0.core 0).stepOut = [] ∧ w0.wakes 0 = false ∧ Ready 0 wStep ∧ (wStep.core 0).stepOut ≠ [] :=
  ⟨ready_w0, by decide, by decide, ⟨by decide, by decide, by decide, by decide, rfl, rfl⟩, by decide⟩
theorem witness_BarriersSleepAndWake_wake :
    Ready 0 (wIrq false) ∧ (wIrq false).wakes 0 = true ∧ ((wIrq true).core 0).asleep = true ∧ (wIrq true).wakes 0 = true ∧
      (wIrq true).power.inQuiet = false := ⟨⟨by decide, by decide, by decide, by decide, rfl, rfl⟩, by decide⟩

/-- Vector tables and frames in the strongroom SRAM; the entries of causes 8 and 9 name its start. -/
def kEx : Core :=
  { k0 with
    vbase := Vector.replicate 4 0xFFC0000008000, spx := Vector.replicate 4 0xFFC0000004000
    sram := [(0x8045, 0xFC), (0x8046, 0x0F), (0x804D, 0xFC), (0x804E, 0x0F)] }
def wEx : State := on kEx
theorem ready_wEx : Ready 0 wEx := ⟨by decide, by decide, by decide, by decide, rfl, rfl⟩
theorem handler_wEx (cause : BitVec 8) (h : cause = 8 ∨ cause = 9) :
    handlerAt 0 cause 3 (savedAt 0 cause 0 false none 3 wEx) wEx = 0xFFC0000000000 := by
  rcases h with h | h <;> subst h <;> decide
theorem witness_ExceptionEntryWritesFrame (cause : BitVec 8) (h : cause = 8 ∨ cause = 9) :
    Ready 0 wEx ∧ EntryGood 0 cause 3 (savedAt 0 cause 0 false none 3 wEx) wEx := by
  refine ⟨ready_wEx, by decide, inSram_of (by decide) (by decide) rfl, by decide, ?_, ?_, ?_⟩
  · rcases h with h | h <;> subst h <;> exact inSram_of (by decide) (by decide) rfl
  · rw [handler_wEx cause h]; exact inSram_of (by decide) (by decide) rfl
  · rw [handler_wEx cause h]; decide

/-- A frame at SPX with the given cells, at a level. -/
def wFrame (st spx : Word) (cells : List Host.Cell) : State := on { kEx with status := st, spx := Vector.replicate 4 spx, sram := cells }
theorem witness_ExceptionReturn :
    let s := wFrame 3 0xFFC0000004000 []
    ReadyBranch 0 s ∧ (s.pl 0).ult 2 = false ∧ InSram 0 0xFFC0000004000 192 s ∧ (s.core 0).spxAt 3 = 0xFFC0000004000 ∧
      ¬ (s.core 0).pl < fld (frameWord 0 1 s) 0 2 ∧ fld (frameWord 0 0 s) 0 2 = 0 :=
  ⟨⟨⟨by decide, by decide, by decide, by decide, rfl, rfl⟩, by decide⟩, by decide, inSram_of (by decide) (by decide) rfl, by decide, by decide, by decide⟩
theorem witness_ExceptionReturn_misaligned :
    let s := wFrame 3 0xFFC0000004020 []
    ReadyBranch 0 s ∧ (s.pl 0).ult 2 = false ∧ fld ((s.core 0).spxAt 3) 0 6 ≠ 0 ∧ taken 0 ⟨2, 0, some 0xFFC0000004020⟩ s :=
  ⟨⟨⟨by decide, by decide, by decide, by decide, rfl, rfl⟩, by decide⟩, by decide, by decide, ⟨_, rfl⟩⟩
theorem witness_ExceptionReturn_level :
    let s := wFrame 2 0xFFC0000004000 [(0x4008, 3)]
    ReadyBranch 0 s ∧ (s.pl 0).ult 2 = false ∧ InSram 0 0xFFC0000004000 192 s ∧ (s.core 0).pl < fld (frameWord 0 1 s) 0 2 :=
  ⟨⟨⟨by decide, by decide, by decide, by decide, rfl, rfl⟩, by decide⟩, by decide, inSram_of (by decide) (by decide) rfl, by decide⟩
theorem witness_ExceptionReturn_pc :
    let s := wFrame 3 0xFFC0000004000 [(0x4000, 2)]
    ReadyBranch 0 s ∧ ¬ (s.core 0).pl < fld (frameWord 0 1 s) 0 2 ∧ fld (frameWord 0 0 s) 0 2 ≠ 0 :=
  ⟨⟨⟨by decide, by decide, by decide, by decide, rfl, rfl⟩, by decide⟩, by decide, by decide⟩

/-- At PL1 with one gibibyte from address 0 mapped to the SRAM: the core's L2 holds both lines of the table. -/
def wPl1 (pc : Word) : State :=
  let s := on { kEx with status := 1, pc := pc, iptb := 0x1000, fetchIptb := 0x1000, srwin := 0x10000, sram := [], vbase := Vector.replicate 4 0x8000, spx := Vector.replicate 4 0x4000,
                         l2 := [(0x40, ⟨[(0, ⟨0x40, .m, 0⟩)], 0⟩), (0x80, ⟨[(0, ⟨0x80, .m, 0⟩)], 0⟩)] }
  { s with mem := { s.mem with bytes := [(0x1000, 0x01), (0x1001, 0x20), (0x2000, 0x0F), (0x2005, 0xFC), (0x2006, 0x0F)] } }
/-- The saved registers of an entry to PL1 there, and the state after each of its accesses. -/
def xPl1 : Saved := savedAt 0 4 0 false none 1 (wPl1 0)
def pl1Frame : EStateM.Result Exit State Unit := asLevel 0 1 (writeFrame 0 (frameAt 0 1 (wPl1 0)) (frameBytes ((wPl1 0).core 0) xPl1)) (wPl1 0)
def pl1Vector : EStateM.Result Exit State (List Byte) :=
  asLevel 0 1 (do let ps ← checkAll 0 needR (vectorAt 0 4 1 (wPl1 0)) 8; readPieces 0 ps) (leaves pl1Frame)
theorem witness_ExceptionEntryWritesFrame_pl1 :
    ∃ u, EntryRuns 0 4 1 xPl1 (wPl1 0) u 0 ∧ rdBytes (u.core 0).sram (0x3F40 + 8) 1 = [1] :=
  ⟨leaves (asLevel 0 1 (fetchCheck 0 0) (leaves pl1Vector)),
    { frameLine := by decide +kernel, aligned := by decide
      steps := ⟨leaves pl1Frame, leaves pl1Vector, List.replicate 8 0, ok_of (by decide +kernel), ok_of (by decide +kernel), by decide, ok_of (by decide +kernel)⟩ },
    by decide +kernel⟩
/-- The same with its caches once a fetch has met the table. -/
def wRet1 : State := leaves (fetchCheck 0 0 (wPl1 0))
theorem fetch_wRet1 : fetchCheck 0 (wRet1.pc 0) wRet1 = .ok () wRet1 := by
  have h : leaves (fetchCheck 0 (wRet1.pc 0) wRet1) = wRet1 := by decide +kernel
  exact (ok_of (a := ()) (by decide +kernel)).trans (by rw [h])
theorem witness_ExceptionReturn_pl1 :
    let r := (do let ps ← checkAll 0 needR ((wRet1.core 0).spxAt 1).toNat 192; readPieces 0 ps) wRet1
    let w (i : Nat) : Word := BitVec.ofNat 64 (fromLe (((List.replicate 192 (0 : Byte)).drop (8 * i)).take 8))
    ReadyBranch 0 wRet1 ∧ (wRet1.core 0).pl = 1 ∧ fld ((wRet1.core 0).spxAt 1) 0 6 = 0 ∧ r = .ok (List.replicate 192 0) (leaves r) ∧
      ¬ (wRet1.core 0).pl < fld (w 1) 0 2 ∧ fld (w 0) 0 2 = 0 := by
  refine ⟨⟨⟨?_, ?_, ?_, ?_, ?_, fetch_wRet1⟩, ?_⟩, ?_, ?_, ok_of ?_, ?_, ?_⟩ <;> decide +kernel

theorem witness_FloatArithmetic :
    Ready 0 w0 ∧ fpFmt (0 : BitVec 3).toNat = some fp64 ∧ fpFmt (1 : BitVec 3).toNat = some fp32 ∧ (w0.core 0).rmOf false 0 = some .rne ∧
      (w0.core 0).rmOf false 7 = some .rne ∧ (w0.core 0).srm = false := ⟨ready_w0, by decide⟩
theorem witness_FloatFusedAndConversions :
    Ready 0 w0 ∧ fpFmt (1 : BitVec 2).toNat = some fp32 ∧ (w0.core 0).rmOf false 4 = some .rna ∧ 2 ≤ (2 : BitVec 4).toNat ∧ (11 : BitVec 4).toNat ≤ 11 :=
  ⟨ready_w0, by decide⟩
theorem witness_FloatFusedAndConversions_reserved :
    Ready 0 w0 ∧ 2 ≤ (2 : BitVec 3).toNat ∧ (w0.core 0).rmOf false 6 = none ∧ taken 0 ⟨1, 0, some 0⟩ w0 := ⟨ready_w0, by decide, by decide, ⟨_, rfl⟩⟩

/-! ## Witnesses: tile and vector instructions -/

/-- Tile and vector state enabled; g1 names the SRAM, g2 is 64. -/
def kT (flight : List Flight) : Core := { gs [(1, 0xFFC0000000000), (2, 64), (3, 0x1040044)] k0 with status := 0x33, flight := flight }
theorem tileReady_kT : TileReady 0 (on (kT [])) :=
  { runs := by decide, noPause := by decide, noArm := by decide, noEvent := by decide, files := rfl, fetches := rfl
    outside := by decide, enabled := by decide, running := by decide }
theorem physical_kT : Physical 0 (on (kT [])) := ⟨by decide, by decide⟩
theorem witness_TileLoadsStoresAndForms :
    let s := on (kT [])
    TileReady 0 s ∧ Physical 0 s ∧ (s.core 0).flight = [] ∧ (s.core 0).stepOut = [] ∧
      (∀ r ≤ 1, InSram 0 (s.g 0 1 + BitVec.ofNat 64 r * s.g 0 2).toNat (rowBytes 0) s ∧ (s.g 0 1 + BitVec.ofNat 64 r * s.g 0 2).toNat % 64 = 0) ∧
      tcfgOk (s.g 0 3) = true ∧ tcfgOk (s.g 0 0) = false ∧ taken 0 ⟨1, 0, some 0⟩ s := by
  refine ⟨tileReady_kT, physical_kT, by decide, by decide, ?_, by decide, by decide, ⟨_, rfl⟩⟩
  intro r hr
  rcases r with _ | _ | r
  · exact ⟨inSram_of (by decide) (by decide) rfl, by decide⟩
  · exact ⟨inSram_of (by decide) (by decide) rfl, by decide⟩
  · omega

/-- An integer operation and a float one in flight. -/
def fly (fold : Bool) (cfg : Word) (z : Bool) : Flight := ⟨fold, 0, 1, 2, cfg, 0, false, z, 0, 0, 0, 0⟩
theorem witness_MatrixOperationsIssueAndFold_issue :
    let s := on (kT [])
    TileReady 0 s ∧ (s.core 0).flight.length < 4 ∧ (route (s.core 0).tcfg = .fp64 → hasF64m s.variant = true) ∧
      (0 : BitVec 4).toNat < pairSegs (s.core 0).tcfg ∧ pairSegs (s.core 0).tcfg ≤ (15 : BitVec 4).toNat :=
  ⟨tileReady_kT, by decide⟩
theorem witness_MatrixOperationsIssueAndFold_fold :
    let k := kT [fly true 0x1040099 false]
    k.flight = [fly true 0x1040099 false] ∧ (fly true 0x1040099 false).fold = true ∧ k.mxStopped = false ∧ k.forced = false ∧
      route (fly true 0x1040099 false).cfg = .int := ⟨rfl, rfl, rfl, rfl, by decide⟩
theorem witness_IntegerMacIsExact (z : Bool) :
    let k := kT [fly false 0x1040099 z]
    k.flight = [fly false 0x1040099 z] ∧ (fly false 0x1040099 z).fold = false ∧ k.mxStopped = false ∧ k.forced = false ∧
      route (fly false 0x1040099 z).cfg = .int := ⟨rfl, rfl, rfl, rfl, (by decide : route 0x1040099 = .int)⟩
theorem witness_LaneFaultIsCaught (z : Bool) :
    let k := kT [fly false 0x1040099 z]
    k.mxThird = false ∧ tcIsat 0x1040099 = false ∧ (fld k.tstat[0] 0 32).toNat + pairK 0x1040099 ≤ 65536 ∧ (1 : BitVec 64).toNat % 2 ^ 32 ≠ 0 :=
  ⟨rfl, by decide, (by decide : (fld (0 : Word) 0 32).toNat + pairK 0x1040099 ≤ 65536), by decide⟩
theorem witness_FloatMacElementsAndSpecials :
    let k := kT [fly false 0x1040044 true]
    k.flight = [fly false 0x1040044 true] ∧ (fly false 0x1040044 true).fold = false ∧ k.mxStopped = false ∧ k.forced = false ∧
      route (fly false 0x1040044 true).cfg ≠ .int ∧ tcRescale (fly false 0x1040044 true).cfg = false :=
  ⟨rfl, rfl, rfl, rfl, (by decide : route 0x1040044 ≠ .int), (by decide : tcRescale 0x1040044 = false)⟩
theorem witness_FloatMacElementsAndSpecials_values :
    ([Val.nan true] ++ [Val.nan false]).any (·.isSnan) = true ∧ ([Val.inf false].any (·.isSnan) || [Val.zero true].any (·.isSnan)) = false ∧
      ([Val.inf false].zip [Val.zero true]).any (fun p => (p.1.isInf && p.2.isZero) || (p.1.isZero && p.2.isInf)) = true ∧
      ([Val.nan false].zip [Val.inf false]).any (fun p => (p.1.isInf && p.2.isZero) || (p.1.isZero && p.2.isInf)) = false ∧
      [Val.nan false].any (·.isNan) = true ∧ [Val.inf false].length = [Val.inf true].length ∧ [Val.inf false].any (·.isNan) = false := by decide

theorem witness_OutputStage :
    let s := on (kT [])
    TileReady 0 s ∧ Physical 0 s ∧ (s.core 0).flight = [] ∧ (s.core 0).ven = true ∧ (s.core 0).operandsFit = true ∧
      colOk (ocFmt (s.core 0).ocfg) 0 = true ∧ ocObsz (s.core 0).ocfg = 0 ∧
      ∀ r < 32, InSram 0 (s.g 0 1 + BitVec.ofNat 64 r * s.g 0 0).toNat (4 * storageBits (ocFmt (s.core 0).ocfg)) s ∧
        (s.g 0 1 + BitVec.ofNat 64 r * s.g 0 0).toNat % Nat.min (4 * storageBits (ocFmt (s.core 0).ocfg)) 64 = 0 := by
  refine ⟨tileReady_kT, physical_kT, by decide, by decide, by decide, by decide, by decide, fun r _ => ?_⟩
  have h : ((on (kT [])).g 0 1 + BitVec.ofNat 64 r * (on (kT [])).g 0 0).toNat = 0xFFC0000000000 := by
    have h0 : BitVec.ofNat 64 r * (0 : Word) = 0 := by simp
    rw [show (on (kT [])).g 0 0 = 0 by decide, h0]; decide
  rw [h]
  exact ⟨inSram_of (by decide) (by decide) rfl, by decide⟩
/-- The columns at the ends of their range: FP64 has two groups, FP32 one, an 8-bit format four. -/
theorem witness_OutputStage_columns : colOk 0 1 = true ∧ colOk 0 2 = false ∧ colOk 1 0 = true ∧ colOk 1 1 = false ∧ colOk 4 3 = true := by decide

/-- The header of an image that holds no tile. -/
def header : List Host.Cell := [(8, 0x44), (10, 4), (11, 1), (16, 1), (96, 1)]
theorem witness_TileSaveAndRestore :
    let s := on { kT [] with sram := header }
    TileReady 0 s ∧ Physical 0 s ∧ (s.core 0).flight = [] ∧ (s.g 0 1).toNat % 256 = 0 ∧ InSram 0 (s.g 0 1).toNat 0x1A100 s :=
  ⟨{ runs := by decide, noPause := by decide, noArm := by decide, noEvent := by decide, files := rfl, fetches := rfl
     outside := by decide, enabled := by decide, running := by decide }, ⟨by decide, by decide⟩, by decide, by decide, inSram_of (by decide) (by decide) rfl⟩
theorem witness_TileSaveAndRestore_header :
    let w (s : State) (i : Nat) : Word := BitVec.ofNat 64 (fromLe (sramBytes 0 ((s.g 0 1).toNat + 8 * i) 8 s))
    headerOk ((List.range 32).map (w (on { kT [] with sram := header }))) = true ∧ headerOk ((List.range 32).map (w (on (kT [])))) = false := by
  decide

/-- Vector state enabled, with the long unit or the cellar; one element, of 8 bytes in groups of one. -/
def kV (long : Bool) (shape count : Word) : Core :=
  { gs [(1, 0xFFC0000000000), (2, 8)] k0 with status := 0x33, vuOn := long, vshape := shape, vcount := count }
theorem vecReady (long : Bool) (shape count : Word) (h : (shape, count) ∈ [((3 : Word), (4 : Word)), (3, 0), (3, 1), (7, 4)]) :
    VecReady 0 (on (kV long shape count)) := by
  simp at h
  rcases h with ⟨rfl, rfl⟩ | ⟨rfl, rfl⟩ | ⟨rfl, rfl⟩ | ⟨rfl, rfl⟩ <;> cases long <;>
    exact { runs := by decide, noPause := by decide, noArm := by decide, noEvent := by decide, files := rfl, fetches := rfl, outside := by decide
            enabled := by decide }
theorem witness_VectorIntegerAndComparisons (long : Bool) :
    let s := on (kV long 3 4)
    VecReady 0 s ∧ (0 : BitVec 2) ≠ 3 ∧ (15 : Reg).val % (s.core 0).grp = 0 ∧ (15 : Reg).val < 16 ∧ 2 ≤ (s.core 0).sewLog :=
  ⟨vecReady long 3 4 (by decide), by cases long <;> decide⟩
theorem witness_VectorFloatAndConversions (long : Bool) :
    let s := on (kV long 3 4)
    VecReady 0 s ∧ 2 ≤ (s.core 0).sewLog ∧ (31 : Reg).val % (s.core 0).grp = 0 ∧ (s.core 0).cvtOk 3 0 1 = true ∧ (s.core 0).cvtOk 1 0 1 = true ∧
      ((8 : Nat) ≠ 1 ∧ 8 < 9) ∧ (s.core 0).rmOf (decide (3 ≤ 8)) 0 = some .rne := ⟨vecReady long 3 4 (by decide), by cases long <;> decide⟩
theorem witness_VectorReductionsAndRefusals (long : Bool) :
    VecReady 0 (on (kV long 3 0)) ∧ (kV long 3 0).vcount = 0 ∧ VecReady 0 (on (kV long 3 4)) ∧ (kV long 3 4).vcount ≠ 0 ∧ (kV long 3 4).vcount.toNat ≤ 4096 ∧
      2 ≤ (kV long 3 4).sewLog ∧ ((kV long 3 4).rmOf false 0).isSome = true :=
  ⟨vecReady long 3 0 (by decide), by cases long <;> decide, vecReady long 3 4 (by decide), by cases long <;> decide⟩
theorem witness_VectorReductionsAndRefusals_refused :
    (Ready 0 wSrm ∧ (wSrm.core 0).srm = true) ∧ (Ready 0 w0 ∧ (w0.core 0).srm = false ∧ (w0.core 0).ven = false ∧ (w0.core 0).ten = false) ∧
      Ready 0 (on (kV false 7 4)) ∧ (kV false 7 4).ven = true ∧ (1 : Reg).val % (kV false 7 4).grp ≠ 0 ∧ taken 0 ⟨1, 0, some 0⟩ w0 :=
  ⟨⟨ready_wSrm, by decide⟩, ⟨ready_w0, by decide⟩, (vecReady false 7 4 (by decide)).toReady, by decide, by decide, ⟨_, rfl⟩⟩
theorem witness_VectorMovesAndMasks (long : Bool) :
    let k := kV long 3 4
    VecReady 0 (on k) ∧ (0 : Reg).val % k.grp = 0 ∧ (1 : Reg).val % k.grp = 0 ∧ (0 : Reg).val + k.grp ≤ (1 : Reg).val ∧
      (0 : Reg).val + k.grp ≤ (2 : Reg).val := ⟨vecReady long 3 4 (by decide), by cases long <;> decide⟩
theorem witness_VectorLoadsAndStores (long : Bool) :
    let s := on (kV long 3 1)
    let k := s.core 0
    VecReady 0 s ∧ Physical 0 s ∧ (List.range k.vcount.toNat).filter (fun e => k.vresume.toNat ≤ e) = [0] ∧
      InSram 0 ((s.g 0 1).toNat + 0 * 8) 8 s ∧ ((s.g 0 1).toNat + 0 * 8) % 8 = 0 ∧
      k.vcount.toNat ≤ k.vlmax ∧ (28 : Reg).val + (4 - 1) * k.grp ≤ 31 ∧ k.indexOk true 0 2 0 = true ∧ k.indexOk false 0 2 0 = true ∧
      (∀ f < 4, (s.g 0 1).toNat + (4 * 0 + f) * 8 < 2 ^ 64 ∧ InSram 0 ((s.g 0 1).toNat + (4 * 0 + f) * 8) 8 s ∧ ((s.g 0 1).toNat + (4 * 0 + f) * 8) % 8 = 0) ∧
      InSram 0 (s.g 0 1).toNat (k.vlen / 8) s := by
  have hg : ((on (kV long 3 1)).g 0 1).toNat = 0xFFC0000000000 := by cases long <;> decide
  refine ⟨vecReady long 3 1 (by decide), ⟨by cases long <;> decide, by cases long <;> decide⟩, by cases long <;> decide, ?_, ?_, by cases long <;> decide, by cases long <;> decide,
    by cases long <;> decide, by cases long <;> decide, ?_, ?_⟩
  · rw [hg]; exact inSram_of (by decide) (by decide) rfl
  · rw [hg]
  · intro f hf; rw [hg]; exact ⟨by omega, inSram_of (by omega) (by omega) rfl, by omega⟩
  · rw [hg]; cases long <;> exact inSram_of (by decide) (by decide) rfl
/-- Two elements: the second strided one is misaligned, the second consecutive one lies beyond the SRAM. -/
def wSplit (long : Bool) (base stride : Word) : State := on { kV long 3 2 with g := (gs [(1, base), (2, stride)] k0).g }
theorem witness_VectorLoadsAndStores_stops (long : Bool) :
    let misaligned := wSplit long 0xFFC0000000000 12
    let outside := wSplit long 0xFFC000003FFF8 0
    let es (s : State) := (List.range (s.core 0).vcount.toNat).filter fun e => (s.core 0).vresume.toNat ≤ e
    (VecReady 0 misaligned ∧ Physical 0 misaligned ∧ clearAnswers (.core 0) misaligned = misaligned ∧ 1 ∈ es misaligned ∧
      (es misaligned).filter (· < 1) = [0] ∧ InSram 0 (misaligned.g 0 1).toNat 8 misaligned ∧ (misaligned.g 0 1).toNat % 8 = 0 ∧
      (misaligned.g 0 1 + BitVec.ofNat 64 1 * misaligned.g 0 2).toNat % 8 ≠ 0 ∧ taken 0 ⟨2, 0, some 0xFFC000000000C⟩ misaligned) ∧
    (VecReady 0 outside ∧ Physical 0 outside ∧ clearAnswers (.core 0) outside = outside ∧ (es outside).filter (· < 1) = [0] ∧
      InSram 0 (outside.g 0 1).toNat 8 outside ∧ ((outside.g 0 1).toNat + 1 * 8) % 8 = 0 ∧ 0xFFC0000040000 ≤ (outside.g 0 1).toNat + 1 * 8) := by
  have good (p : Word × Word) (h : p ∈ [((0xFFC0000000000 : Word), (12 : Word)), (0xFFC000003FFF8, 0)]) :
      VecReady 0 (wSplit long p.1 p.2) ∧ Physical 0 (wSplit long p.1 p.2) := by
    simp at h
    rcases h with rfl | rfl <;> cases long <;>
    exact ⟨{ runs := by decide, noPause := by decide, noArm := by decide, noEvent := by decide, files := rfl, fetches := rfl, outside := by decide
             enabled := by decide }, by decide, by decide⟩
  refine ⟨⟨(good (0xFFC0000000000, 12) (by simp)).1, (good (0xFFC0000000000, 12) (by simp)).2, rfl, ?_, ?_, inSram_of ?_ ?_ rfl, ?_, ?_, ?_⟩, (good (0xFFC000003FFF8, 0) (by simp)).1, (good (0xFFC000003FFF8, 0) (by simp)).2, rfl, ?_, inSram_of ?_ ?_ rfl, ?_, ?_⟩ <;>
    cases long <;> first | decide | exact ⟨_, rfl⟩

/-! ## Witnesses: interrupts, sculleries, memory controllers -/

/-- Routing entry 5 holds v; core 0 has polder 0. -/
def wIrte (v : Word) : State := w0.setIrte 5 v
/-- Enabled, core 0, level 2, cause 0x28; the same at level 1 for polder 7; the same for core 1, which is offline. -/
def irteTo (core lvl cause polder : Nat) : Word := BitVec.ofNat 64 (1 + core * 8 + lvl * 256 + cause * 1024 + polder * 2 ^ 22)
def wOffline : State := { wIrte (irteTo 1 2 0x28 0) with coff := { w0.coff with cmap := w0.coff.cmap.set 1 (1, true) } }
theorem witness_InterruptRoutingAndMerging_message :
    bit ((wIrte 0).irte 5) 0 = false ∧
      (bit ((wIrte (irteTo 0 2 0x28 0)).irte 5) 0 = true ∧ w0.offline 0 = false ∧ irteLvl (irteTo 0 2 0x28 0) ≠ 1) ∧
      (irteLvl (irteTo 0 1 0x28 7) = 1 ∧ ((wIrte (irteTo 0 1 0x28 7)).core (irteCore (irteTo 0 1 0x28 7))).polder ≠ irtePolder (irteTo 0 1 0x28 7)) ∧
      (bit (wOffline.irte 5) 0 = true ∧ wOffline.offline (irteCore (wOffline.irte 5)) = true) := by decide
/-- The causes and levels at the ends of what an enabled entry may hold. -/
theorem witness_InterruptRoutingAndMerging_write :
    (0x28 ≤ (irteCause (irteTo 31 1 0x28 0)).toNat ∧ irteLvl (irteTo 31 1 0x28 0) ≠ 0 ∧ w0.present (irteCore (irteTo 31 1 0x28 0)) = true) ∧
      (irteCause (irteTo 0 3 0x27 0)).toNat < 0x28 ∧ bit (irteTo 0 3 0x27 0) 0 = true ∧ irteLvl (irteTo 0 0 0xFF 0) = 0 := by decide
theorem witness_InterruptRoutingAndMerging_iswi :
    w0.present 0 = true ∧ w0.offline 0 = false ∧ 0x28 ≤ (fld (0x128 : Word) 0 8).toNat ∧ fld (0x128 : Word) 8 2 ≠ 0 ∧
      (fld (0x127 : Word) 0 8).toNat < 0x28 ∧ fld (0x028 : Word) 8 2 = 0 ∧ (State.resetOf .vke24m).present 24 = false := by decide
theorem witness_InterruptRoutingAndMerging_timer :
    let s := on { k0 with timecmp := 1 }
    s.present 0 = true ∧ s.power.rootLock = true ∧ s.power.rootOff = false ∧ s.ltime.toNat < (s.core 0).timecmp.toNat := by decide
theorem witness_InterruptRoutingAndMerging_writer :
    writerShut (.core 0) w0 = false ∧ writerTrusted (.core 0) w0 = true ∧ writerTrusted (.core 0) wUser = false ∧ writerShut .host w0 = false := by decide
theorem witness_InterruptRoutingAndMerging_merge :
    let irqs : List PendIrq := [⟨0x28, 2, 3⟩]
    irqs.find? (fun q => q.cause = 0x29) = none ∧ irqs.find? (fun q => q.cause = 0x28) = some ⟨0x28, 2, 3⟩ ∧ (irqs.map (·.cause)).Nodup := by decide

/-- Core 0 with tables for any cause from 0 to 9, and an event at its boundary. -/
def wEvent (f : Core → Core) : State :=
  on (f { kEx with sram := [(0x8035, 0xFC), (0x8036, 0x0F), (0x803D, 0xFC), (0x803E, 0x0F), (0x8085, 0xFC), (0x8086, 0x0F)] })
def wEvIrq : State := wEvent fun k => { k with irqs := [⟨0x10, 3, 15⟩], status := 7 }
def wEvFp : State := wEvent fun k => { k with fpPend := some (0x40, true) }
def wEvDse : State := wEvent fun k => { k with status := 2, dsePend := true, dse := [⟨0x1234, 4, 2, 1, 7, 1⟩] }
/-- The premises of an entry there, all of them decidable. -/
def entryThere (f : Core → Core) (cause : BitVec 8) (t : BitVec 2) (x : Saved) : Prop :=
  t.ult 2 = false ∧ frameAt 0 t (wEvent f) = 0xFFC0000003F40 ∧ vectorAt 0 cause t (wEvent f) = 0xFFC0000008000 + 8 * cause.toNat ∧
    cause.toNat < 64 ∧ handlerAt 0 cause t x (wEvent f) = 0xFFC0000000000
theorem entry_wEv {f : Core → Core} {cause : BitVec 8} {t : BitVec 2} {x : Saved} (h : entryThere f cause t x) (hb : ((wEvent f).core 0).sramBad = []) :
    EntryGood 0 cause t x (wEvent f) := by
  obtain ⟨ht, hf, hv, hc, hh⟩ := h
  exact {
    level := ht, frame := by rw [hf]; exact inSram_of (by decide) (by decide) hb, frameLine := by rw [hf]
    vector := by rw [hv]; exact inSram_of (by omega) (by omega) hb
    handler := by rw [hh]; exact inSram_of (by decide) (by decide) hb, handlerWord := by rw [hh]; decide }
theorem witness_BoundaryEvents_irq :
    wEvIrq.runs 0 = true ∧ (wEvIrq.core 0).pausing = false ∧ (wEvIrq.core 0).armPausing = false ∧ deviceWait (.core 0) wEvIrq = false ∧
      wEvIrq.completesFirst 0 = false ∧ (wEvIrq.core 0).fileErr = none ∧ wEvIrq.boundary 0 = .irq ⟨0x10, 3, 15⟩ ∧ EntryGood 0 0x10 3 (savedAt 0 0x10 0 false none 3 wEvIrq) wEvIrq :=
  by
  refine ⟨?_, ?_, ?_, ?_, ?_, ?_, ?_, entry_wEv (by unfold entryThere; decide) rfl⟩ <;> decide
theorem witness_BoundaryEvents_fp :
    wEvFp.completesFirst 0 = false ∧ wEvFp.boundary 0 = .fp 0x40 true ∧ (wEvFp.core 0).target 6 0 = 3 ∧ EntryGood 0 6 3 (savedAt 0 6 0 true (some 0x40) 3 wEvFp) wEvFp :=
  by
  refine ⟨?_, ?_, ?_, entry_wEv (by unfold entryThere; decide) rfl⟩ <;> decide
theorem witness_BoundaryEvents_dse :
    wEvDse.completesFirst 0 = false ∧ wEvDse.boundary 0 = .dse ∧ (wEvDse.core 0).dseTarget = 2 ∧ EntryGood 0 7 2 (savedAt 0 7 0 false none 1 wEvDse) wEvDse :=
  by
  refine ⟨?_, ?_, ?_, entry_wEv (by unfold entryThere; decide) rfl⟩ <;> decide
def wEvAgain : State := wEvent fun k => { k with entering := some ⟨0x10, 3, 0, false, none, 3⟩ }
theorem witness_BoundaryEvents_again :
    (wEvAgain.core 0).entering = some ⟨0x10, 3, 0, false, none, 3⟩ ∧ EntryGood 0 0x10 3 (savedAt 0 0x10 0 false none 3 wEvAgain) wEvAgain :=
  ⟨rfl, entry_wEv (by unfold entryThere; decide) rfl⟩
def wEvPc : State := wEvent fun k => { k with pc := 0x2000000000000 }
theorem witness_BoundaryEvents_fetch :
    wEvPc.boundary 0 = .none ∧ ∃ u, fetchCheck 0 (wEvPc.core 0).pc wEvPc = .error (.exc ⟨3, 4, some 0x2000000000000⟩) u ∧ taken 0 ⟨3, 4, some 0x2000000000000⟩ u :=
  ⟨by decide, _, rfl, _, rfl⟩
/-- An atomic or a `syswr` has begun: the interrupt waits for it. -/
def wEvBegun : State := wEvent fun k => { k with irqs := [⟨0x10, 3, 15⟩], status := 7, begun := true }
theorem witness_BoundaryEvents_completes :
    wEvBegun.completesFirst 0 = true ∧ (wEvBegun.core 0).entering = none ∧ wEvBegun.boundary 0 = .irq ⟨0x10, 3, 15⟩ ∧
      fetchCheck 0 (wEvBegun.core 0).pc wEvBegun = .ok () wEvBegun := ⟨by decide, rfl, by decide, rfl⟩
theorem witness_BoundaryEvents_entry :
    Ready 0 w0 ∧ Isa.reservedExc (w0.core 0) 0xFFFFFFFF ≠ none ∧ w0.present 0 = true ∧ (w0.core 0).dse.length < 8 ∧
      8 ≤ (List.replicate 8 (⟨0, 0, 0, 0, 0, 0⟩ : DseEntry)).length := ⟨ready_w0, by decide, by decide, by decide, by decide⟩

/-- The die of node 0; slot 1 of wing 0 holds a request. -/
def wNode : State := { State.reset with th := { State.reset.th with node := some 0 }, power := { State.reset.power with rootLock := true } }
def wSlot (base len stat : Word) (order : List (Fin 4)) : State :=
  (wNode.setSlot 0 1 { Slot.reset with base := base, len := len, stat := stat }).modWing 0 fun g => { g with order := order }
theorem witness_RangeRequests :
    writerShut (.core 0) wNode = false ∧ (wNode.gate 0x28).open_ = true ∧ (0 : Nat) < nWings wNode.variant ∧ bit ((wSlot 0 0 1 []).slot 0 1).stat 0 = true ∧
      (bit ((wSlot 0 0 0 [3]).slot 0 1).stat 0 = false ∧ ((wSlot 0 0 0 [3]).wings[0]).order ≠ []) ∧
      (bit ((wSlot 1 64 0 []).slot 0 1).stat 0 = false ∧ ((wSlot 1 64 0 []).wings[0]).order = [] ∧ ((wSlot 1 64 0 []).slot 0 1).base.toNat % 64 ≠ 0) ∧
      2 ^ 38 < ((wSlot 64 0x4000000040 0 []).slot 0 1).len.toNat ∧ ((wSlot 64 63 0 []).slot 0 1).len.toNat % 64 ≠ 0 ∧
      (((wSlot 64 0 0 []).slot 0 1).base.toNat % 64 = 0 ∧ ((wSlot 64 0 0 []).slot 0 1).len = 0) := by decide
theorem witness_RangeRequests_complete (r : BitVec 4) (h : r ∈ [(15 : BitVec 4), 1]) :
    let s := (wNode.setSlot 0 1 { Slot.reset with stat := 1, res := r }).modWing 0 fun g => { g with order := [1] }
    (s.wings[0]).order = [1] ∧ (s.slot 0 1).res ≠ 0 := by
  simp at h; rcases h with rfl | rfl <;> decide
/-- A request for line 0x40 of node 0's memory: the line clean, dirty in the wing cache, and held by a core. -/
def wLine (l2 : Table CSet) (wing : Table CSet) : State :=
  ((wSlot 0x1000 64 0 []).modWing 0 fun g => { g with cache := wing }).setCore 0 { k0 with l2 := l2 }
def wClean : State := wLine [] []
def wDirty : State :=
  let s := wLine [] [(0x40, ⟨[(0, ⟨0x40, .m, 0⟩)], 0⟩)]
  { s with mem := { s.mem with stale := [(0x40, some ⟨0, none⟩)] } }
def wShared : State := wLine [(0x40, ⟨[(0, ⟨0x40, .e, 0⟩)], 0⟩)] []
def lineRequest (s : State) : Prop :=
  bit (s.slot 0 1).stat 0 = false ∧ (s.wings[0]).order = [] ∧ bit (8 : Word) 3 = true ∧ (s.slot 0 1).base.toNat % 64 = 0 ∧ (s.slot 0 1).len = 64 ∧
    place (s.slot 0 1).base.toNat = .mem 0 ∧ s.ownDie 0 = true ∧ (stackOf (s.slot 0 1).base.toNat).val < nStacks s.variant ∧
    s.unsaved (s.slot 0 1).base.toNat = false ∧ dirOf s 0x40 = DirEntry.none ∧ s.lost (s.slot 0 1).base.toNat = false ∧
    mget none s.mem.arrays 0x40 = none ∧ supplied (.scullery 0) 0x40 s = none ∧ (s.gate 0x28).open_ = true
theorem witness_RangeLineOperations_clean :
    lineRequest wClean ∧ wClean.isDirty 0x40 = false ∧ cset wingGeo (wClean.wings[0]).cache 0x40 = CSet.empty ∧ (∃ i < 16, wayOff (wClean.wings[0]) i = false) ∧
      wingCoreEntry wClean 0 0x40 = none ∧ holdings wClean 0x40 = [] ∧ wClean.spoilt 0x40 = false ∧ wClean.errsOf 0x40 = 0 ∧
      mget none wClean.mem.dirErrs 0x40 = none ∧ (∀ k : Fin 4, wClean.nodeLost k.val = false) ∧ (∀ t ∈ wClean.th.txns, t.line ≠ 0x40) := by
  refine ⟨by unfold lineRequest; decide, ?_, ?_, ⟨0, ?_, ?_⟩, ?_, ?_, ?_, ?_, ?_, ?_, ?_⟩ <;> decide
theorem witness_RangeLineOperations_dirty : lineRequest wDirty ∧ wDirty.isDirty 0x40 = true :=
  ⟨by unfold lineRequest; decide, by decide⟩
/-- The dirty copy is uncorrectable. -/
def wSpoilt : State := { wDirty with mem := { wDirty.mem with badDirty := [(0x40, some (0x28, 0))] } }
theorem witness_RangeLineOperations_spoilt : lineRequest wSpoilt ∧ wSpoilt.spoilt 0x40 = true ∧ wSpoilt.isDirty 0x40 = true ∧ wSpoilt.coff.lpt.length < 1024 := by
  unfold lineRequest; decide
theorem witness_RangeLineOperations_demote : lineRequest wShared ∧ (wingCoreEntry wShared 0 0x40).isSome = true := by
  unfold lineRequest; decide

/-- Stack 0 of node 0 is trained; of line 5 these symbols are in error. -/
def wCtrl (errs : Table (BitVec 35)) : State :=
  { wNode with mem := { wNode.mem with ctrls := wNode.mem.ctrls.set 0 { Ctrl.reset with present := true, trained := true }, errs := errs } }
theorem witness_MemoryControllerWork :
    (0 : Fin 4).val < nStacks wNode.variant ∧ (wNode.mem.ctrls[0]).trained = false ∧ stackLine (wCtrl []) 0 5 = 5 ∧
      bit ((wCtrl []).mem.ctrls[0]).scrub 16 = true ∧ ((wCtrl []).mem.ctrls[0]).trained = true ∧ (wCtrl []).errsOf 5 = 0 ∧
      (wCtrl []).power.rootOff = false ∧ { wNode.power with rootOff := true }.rootOff = true := by decide
theorem witness_MemoryControllerWork_corrected : outerCode ((wCtrl [(5, 0x200)]).errsOf 5) = .corrected 9 := by decide
theorem witness_MemoryControllerWork_bad :
    let s := wCtrl [(5, 0x201)]
    outerCode (s.errsOf 5) = .detected ∧ s.isDirty 5 = false ∧ (dirOf s 5).owner = none ∧ s.lost (64 * 5) = false ∧ s.coff.lpt.length < 1024 :=
  ⟨by decide, by decide, by decide, by decide, by decide⟩
theorem witness_MemoryControllerWork_dirty :
    let s := { wCtrl [(5, 0x201)] with mem := { (wCtrl [(5, 0x201)]).mem with stale := [(5, some ⟨0, none⟩)] } }
    outerCode (s.errsOf 5) = .detected ∧ s.isDirty 5 = true := ⟨by decide, by decide⟩
theorem witness_MemoryControllerWork_repair : stackLine (wCtrl []) 0 5 = 5 ∧ outerCode ((wCtrl [(5, 0x201)]).errsOf 5) ≠ .unclaimed := by
  exact ⟨by decide, by rw [witness_MemoryControllerWork_bad.1]; decide⟩

/-! ## Witnesses: the sluice -/

def ringBytes : EStateM.Result Exit State (Except (BitVec 8) (List Byte)) → Option (List Byte)
  | .ok (.ok bs) _ => some bs
  | _ => none
theorem ring_ok {r : EStateM.Result Exit State (Except (BitVec 8) (List Byte))} (h : (ringBytes r).isSome = true) :
    r = .ok (.ok ((ringBytes r).getD [])) (leaves r) := by
  cases r with
  | ok a t => cases a <;> simp_all [ringBytes, leaves]
  | error e t => simp [ringBytes] at h

/-- A queue pair in RTS with 16-slot rings in region 1, and the region. -/
def pair : QueuePair :=
  { polder := 5, irte := 3, sqAddr := 0x10000, rqAddr := 0x11000, cqAddr := 0x12000, sqKey := 1, rqKey := 1, cqKey := 1
    sqLog := 4, rqLog := 4, cqLog := 4, pin := false, sqPi := 0, rqPi := 0, sqCi := 0, rqCi := 0, cqPi := 0, arm := false
    scnt := 7, rcnt := 9, state := 3, err := 0, peer := 0x22, peerQpn := 8, ipv6 := false, ip := 0, dscp := 0, mtu := 0, rtoexp := 0
    retry := 3, rnrt := 0, rnrretry := 3, rmax := 0, nextPsn := 100, opens := [], held := none, unacked := [], peerPsn := 100, owed := false, timeouts := 0
    rtoStart := 0, rnrPsn := 0, rnrCount := 0, backoff := none, rung := 0, cleanWin := 0, winM := 0, winA := 0, epsn := 200
    ahead := [], rx := none, early := [], msn := 0, sinceAck := 0, ce := 0, atomics := [], nak := none, anteNak := none
    parked := [], onDie := true, used := 0 }
def area : Region :=
  { base := 0x10000, len := 0x4000, polder := 5, access := 31, state := .valid, gen := 0, pgsz := 0, plist := 0x20000, stash := 0
    open_ := [], onDie := true }
/-- The page list: pages 0x30000 to 0x33000. -/
def pages : List Host.Cell := [(0x20002, 3), (0x20009, 0x10), (0x2000A, 3), (0x20011, 0x20), (0x20012, 3), (0x20019, 0x30), (0x2001A, 3)]
def wSluice (x : QueuePair) (cells : List Host.Cell) : State :=
  { wNode with
    sluice := { Sluice.reset with enabled := true, endpoint := 0x11, qps := [(4, some x), (6, some { pair with scnt := 5 })], regions := [(1, area)] }
    mem := { wNode.mem with bytes := pages ++ cells } }

def bell (size : Nat) (v : Word) (tag : BitVec 12) : DevStore := ⟨size, v, tag, false⟩
/-- A doorbell of the right size and polder; behind, at the ring's end, and beyond it. -/
theorem witness_SluiceDoorbells :
    (wSluice pair []).qp 4 = some pair ∧ (bell 8 16 5).size = 8 ∧ (bell 8 16 5).tag = pair.polder ∧ pair.state ≠ 0 ∧ pair.state ≠ 4 ∧ pair.onDie = true ∧
      2 ^ 31 ≤ ((0x80000000 : BitVec 32) - pair.sqPi).toNat ∧ ((16 : BitVec 32) - pair.sqPi).toNat < 2 ^ 31 ∧
      ((16 : BitVec 32) - pair.sqCi).toNat ≤ 2 ^ pair.sqLog.toNat ∧ 2 ^ pair.sqLog.toNat < ((17 : BitVec 32) - pair.sqCi).toNat :=
  ⟨rfl, by decide, by decide, by decide, by decide, by decide, by decide, by decide, by decide, by decide⟩
theorem witness_SluiceDoorbells_dropped :
    ¬ ((bell 4 1 5).size = 8 ∧ ((bell 4 1 5).trusted = true ∨ (bell 4 1 5).tag = pair.polder)) ∧
      ¬ ((bell 8 1 6).size = 8 ∧ ((bell 8 1 6).trusted = true ∨ (bell 8 1 6).tag = pair.polder)) := by decide
theorem witness_SluiceDoorbells_beyond :
    pair.opens = [] ∧ pair.rx = none ∧ pair.sqPi = pair.sqCi ∧ pair.rqPi = pair.rqCi ∧
      (∀ i, ((wSluice pair []).shard i).remote = true → ((wSluice pair []).shard i).qpn ≠ 4) ∧
      (∀ e ∈ (wSluice pair []).sluice.qps, ∀ z h, e.2 = some z → z.held = some h → h.1 ≠ 4) := by
  refine ⟨rfl, rfl, rfl, rfl, by decide, ?_⟩
  intro e he z h h1 h2
  have hq : (wSluice pair []).sluice.qps = [(4, some pair), (6, some { pair with scnt := 5 })] := rfl
  rw [hq] at he
  simp at he
  rcases he with rfl | rfl <;> · simp at h1; subst h1; cases h2

/-- A work request in slot 0: no data, or data at 0x13000; a WAIT on queue pair 6. -/
def wrCells (op : Nat) (len thresh : Nat) : List Host.Cell :=
  (if op = 0 then [] else [(0x30000, BitVec.ofNat 8 op)]) ++
  (if op = 7 then [(0x30010, 6), (0x30018, BitVec.ofNat 8 thresh)]
   else if len = 0 then [] else [(0x30011, 0x30), (0x30012, 1), (0x30018, 1), (0x3001C, BitVec.ofNat 8 len)]) ++
  (if op ∈ [1, 2, 4, 5] then [(0x30021, 5), (0x30028, 9)] else [])
def posted : QueuePair := { pair with sqPi := 1 }
def wWr (op len thresh : Nat) : State := wSluice posted (wrCells op len thresh)
def wrRead (op len thresh : Nat) := ringRead 4 posted 1 0x10000 4 0 64 (wWr op len thresh)
def wrOf (op len thresh : Nat) : WorkReq := parseWr ((ringBytes (wrRead op len thresh)).getD [])
theorem wrFront (op len thresh : Nat) (h : (ringBytes (wrRead op len thresh)).isSome = true)
    (hs : (leaves (wrRead op len thresh)).qp 4 = some posted) (hc : canStart (leaves (wrRead op len thresh)) posted (wrOf op len thresh) = true)
    (hb : badWr (wrOf op len thresh) = false) : WrFront 4 posted (wrOf op len thresh) (wWr op len thresh) (leaves (wrRead op len thresh)) :=
  { qp := rfl, up := rfl, rts := rfl, posted := by decide, onDie := rfl, entry := ⟨_, ring_ok h, rfl⟩, same := hs, starts := hc, good := hb }
theorem witness_SluiceWorkRequests_data (p : Nat × Nat × Nat) (h : p ∈ [(1, 64, 0), (2, 64, 1), (3, 64, 0), (4, 8, 1), (5, 8, 1)]) :
    let t := leaves (wrRead p.1 p.2.1 0)
    let w := wrOf p.1 p.2.1 0
    WrFront 4 posted w (wWr p.1 p.2.1 0) t ∧ w.op = BitVec.ofNat 8 p.1 ∧ w.len ≠ 0 ∧ (t.region (keyIndex w.lkey)).onDie = true ∧
      regionOk t posted.polder w.lkey w.laddr.toNat w.len.toNat p.2.2 false = true := by
  simp at h
  rcases h with rfl | rfl | rfl | rfl | rfl <;>
    exact ⟨wrFront _ _ _ (by decide) rfl (by decide) (by decide), by decide, by decide, by decide, by decide⟩
theorem witness_SluiceWorkRequests_empty (op : Nat) (h : op ∈ [0, 1, 2, 3, 6]) :
    let w := wrOf op 0 0
    WrFront 4 posted w (wWr op 0 0) (leaves (wrRead op 0 0)) ∧ w.op = BitVec.ofNat 8 op ∧ w.len = 0 ∧ w.sig = false ∧ posted.opens = [] := by
  simp at h
  rcases h with rfl | rfl | rfl | rfl | rfl <;>
    exact ⟨wrFront _ _ _ (by decide) rfl (by decide) (by decide), by decide, by decide, by decide, rfl⟩
/-- The counter has just reached THRESH, or is one short of it. -/
theorem witness_SluiceWorkRequests_wait (n : Nat) (h : n ∈ [5, 6]) :
    let w := wrOf 7 0 n
    let t := leaves (wrRead 7 0 n)
    WrFront 4 posted w (wWr 7 0 n) t ∧ w.op = 7 ∧ hasChain (wWr 7 0 n).variant = true ∧ t.variant = (wWr 7 0 n).variant ∧ w.sig = false ∧
      (fld w.laddr 0 20).toNat = 6 ∧ t.qp 6 = some { pair with scnt := 5 } ∧ bit w.laddr 20 = false ∧
      (((5 : BitVec 32) - w.lkey).toNat < 2 ^ 31 ↔ n = 5) := by
  simp at h
  rcases h with rfl | rfl <;>
    exact ⟨wrFront _ _ _ (by decide) rfl (by decide) (by decide), by decide, by decide, rfl, by decide, by decide, rfl, by decide, by decide⟩

/-- A work request in progress. -/
def opened (op : Nat) (len : Nat) (f : OpenWr → OpenWr) : OpenWr := f ⟨wrOf op len 5, 100, 1, 0, 0, none, none⟩
def pairWith (o : OpenWr) (f : QueuePair → QueuePair) : QueuePair := f { pair with opens := [o] }
theorem witness_SluiceWorkRequestsAndPackets_waits :
    let o := opened 7 0 id
    let x := pairWith o fun x => { x with held := some (6, false, 5) }
    (wSluice x []).qp 4 = some x ∧ x.opens = [o] ∧ o.wr.op = 7 ∧ o.wr.sig = false ∧ o.done = none ∧ o.levee = none ∧
      x.onDie = true ∧ waitReached (wSluice x []) x = true ∧ waitReached (wSluice pair []) pair = false :=
  ⟨rfl, rfl, by decide, by decide, rfl, rfl, rfl, by decide, by decide⟩
theorem witness_SluiceWorkRequestsAndPackets_transmit (p : Nat × Nat) (h : p ∈ [(1, 0), (1, 64), (2, 64), (6, 0)]) :
    let o := opened p.1 p.2 id
    let x := pairWith o id
    let s := wSluice x []
    s.qp 4 = some x ∧ sluiceUp s = true ∧ x.state = 3 ∧ x.backoff = none ∧ x.unacked.length < 4096 ∧
      sendNext x = some 0 ∧ x.opens[0]? = some o ∧
      (match answers (buildPacket 4 x o o.sent s) with | some (.ok _) => true | _ => false) = true ∧
      (leaves (buildPacket 4 x o o.sent s)).qp 4 = some x ∧ o.wr.op = BitVec.ofNat 8 p.1 := by
  simp at h
  rcases h with rfl | rfl | rfl | rfl <;>
    exact ⟨rfl, by decide, by decide, rfl, by decide, by decide, rfl, by decide, rfl, by decide⟩

/-- A packet for queue pair 4 from its peer, with a right check value. -/
def frame (typ : BitVec 8) (f : Frame → Frame) : Frame :=
  let g := f { Frame.zero with ver := 1, deid := 0x11, seid := 0x22, dqpn := 4, dport := 0x5C15, psn := 200, first := true, last := true }
  { g with icrc := icrcOf typ g }
theorem witness_SluicePacketsAreChecked :
    sluiceUp wNode = false ∧ sluiceUp (wSluice pair []) = true ∧ (frame tyAck fun g => { g with rsv1 := 1 }).rsv1 ≠ 0 ∧
      (frame tyAck id).icrc ≠ (frame tyAck id).icrc + 1 ∧ (∀ x, (wSluice pair []).qp 5 = some x → (0 : BitVec 16) ≠ x.peer) :=
  ⟨by decide, by decide, by decide +kernel, by decide +kernel, fun x h => by cases h⟩

/-! ## Witnesses: requests, answers and timers of the sluice -/

/-- A WRITE of five bytes, a READ, an atomic, a FLUSH and a SEND, each the next request of queue pair 4. -/
def request (typ : BitVec 8) : Frame :=
  frame typ fun g =>
    if typ = tyWrite then { g with rkey := 1, raddr := 0x13010, len := 5, payload := [1, 2, 3, 4, 5], ackreq := true }
    else if typ = tyReadReq then { g with rkey := 1, raddr := 0x13010, len := 5 }
    else if typ = tyAtomicReq then { g with rkey := 1, raddr := 0x13010, len := 8, opnd1 := 5 }
    else g
theorem nextRequest (typ : BitVec 8) (x : QueuePair) (cells : List Host.Cell) (hp : arrivalQp typ (request typ) (wSluice x cells) = some (4, x))
    (hc : (request typ).ce = false) (hn : regionAway (wSluice x cells) x typ (request typ) = false) (hx : (request typ).psn = x.epsn)
    (h : x = { pair with rqPi := x.rqPi }) : NextRequest typ (request typ) 4 x (wSluice x cells) :=
  { up := rfl, pair := hp, clear := hc, state := .inr (by rw [h]; rfl), onDie := by rw [h]; rfl, awake := rfl, near := hn
    noNak := by rw [h]; rfl, noAnte := by rw [h]; rfl, noParked := by rw [h]; rfl, next := hx, noRx := by rw [h]; rfl
    noAhead := by rw [h]; rfl, noEarly := by rw [h]; rfl }
theorem witness_SluiceRequestsAndAnswers_next (typ : BitVec 8) (h : typ ∈ [tyWrite, tyReadReq, tyAtomicReq, tyFlushReq]) :
    NextRequest typ (request typ) 4 pair (wSluice pair []) := by
  simp at h
  rcases h with rfl | rfl | rfl | rfl <;>
    exact nextRequest _ _ _ (by decide +kernel) (by decide +kernel) (by decide +kernel) (by decide +kernel) rfl
def used1 : QueuePair := { pair with used := 1 }
theorem witness_SluiceRequestsAndAnswers_write :
    let f := request tyWrite
    let s := wSluice pair []
    let m : RxMsg := ⟨tyWrite, f.psn, f.rkey, f.raddr, f.len, false, 0, 0, 0, 0, 0, 0, false⟩
    let s2 := (openMessage (keyIndex f.rkey) 4 f.psn.toNat false (served tyWrite f 4 s)).setQp 4 { used1 with rx := some m }
    let r := regionWrite (.sluice 4) (s2.region (keyIndex f.rkey)) f.raddr.toNat f.payload s2
    f.payload.length = f.len.toNat ∧ f.len.toNat ≤ pair.mtuBytes ∧ f.len ≠ 0 ∧
      regionOk s pair.polder f.rkey f.raddr.toNat f.len.toNat 3 false = true ∧ r = .ok 0 (leaves r) ∧ (leaves r).qp 4 = some { used1 with rx := some m } :=
  ⟨by decide +kernel, by decide +kernel, by decide +kernel, by decide +kernel, ok_of (by decide +kernel), by decide +kernel⟩
theorem witness_SluiceRequestsAndAnswers_read :
    let f := request tyReadReq
    let s := served tyReadReq f 4 (wSluice pair [])
    let r := regionRead (.sluice 4) (s.region (keyIndex f.rkey)) f.raddr.toNat f.len.toNat s
    regionOk (wSluice pair []) pair.polder f.rkey f.raddr.toNat f.len.toNat 2 false = true ∧ r = .ok (0, [0, 0, 0, 0, 0]) (leaves r) ∧
      (leaves r).qp 4 = some used1 ∧ [(0 : Byte), 0, 0, 0, 0].length = f.len.toNat :=
  ⟨by decide +kernel, ok_of (by decide +kernel), by decide +kernel, by decide +kernel⟩
theorem witness_SluiceRequestsAndAnswers_atomic :
    let f := request tyAtomicReq
    let s := served tyAtomicReq f 4 (wSluice pair [])
    let r := performAtomic 4 (s.region (keyIndex f.rkey)) f s
    f.raddr.toNat % 8 = 0 ∧ regionOk (wSluice pair []) pair.polder f.rkey f.raddr.toNat 8 4 false = true ∧ r = .ok (0, 0) (leaves r) ∧
      (leaves r).qp 4 = some used1 := ⟨by decide +kernel, by decide +kernel, ok_of (by decide +kernel), by decide +kernel⟩
/-- A receive descriptor of zeros stands in the ring. -/
def ready : QueuePair := { pair with rqPi := 1 }
theorem witness_SluiceRequestsAndAnswers_send :
    let f := request tySend
    let r := ringRead 4 { ready with used := 1 } 1 0x11000 4 0 32 (served tySend f 4 (wSluice ready []))
    let y : QueuePair := { ready with used := 1, rqCi := 1, epsn := 201, sinceAck := 1, owed := true, msn := 1 }
    let t2 := closeMessage 0 4 (f.psn.toNat + 2 ^ 24) true ((leaves r).setQp 4 y)
    let u := putCqe 4 0 0 3 true 0 f.imm t2
    NextRequest tySend f 4 ready (wSluice ready []) ∧ f.payload = [] ∧ ready.rqPi ≠ ready.rqCi ∧ ringBytes r = some (List.replicate 32 0) ∧
      (leaves r).qp 4 = some { ready with used := 1 } ∧ u = .ok 0 (leaves u) ∧ (leaves u).qp 4 = some { y with cqPi := 1, arm := false } :=
  ⟨nextRequest _ _ _ (by decide +kernel) (by decide +kernel) (by decide +kernel) (by decide +kernel) rfl, by decide +kernel, by decide +kernel,
    by decide +kernel, by decide +kernel, ok_of (by decide +kernel), by decide +kernel⟩

/-- An answer to the one work request in progress, which has been sent. -/
def asked (op len : Nat) : QueuePair := pairWith (opened op len fun o => { o with sent := 1 }) fun x => { x with unacked := [100] }
def answer_ (typ : BitVec 8) : Frame :=
  frame typ fun g => { g with psn := if typ = tyAck then 101 else 100, code := if typ = tyNak then 1 else 0, payload := if typ = tyAtomicResp then [0, 0, 0, 0, 0, 0, 0, 0] else [] }
theorem witness_SluiceRequestsAndAnswers_answers (p : BitVec 8 × Nat × Nat)
    (h : p ∈ [(tyAck, 1, 0), (tyAck, 3, 64), (tyReadResp, 2, 0), (tyAtomicResp, 4, 8), (tyAtomicResp, 5, 8), (tyFlushResp, 6, 0)]) :
    let f := answer_ p.1
    let x := asked p.2.1 p.2.2
    let o := opened p.2.1 p.2.2 fun o => { o with sent := 1 }
    Arrives p.1 f 4 x (wSluice x []) ∧ x.opens = [o] ∧ o.wr.sig = false ∧ o.done = none ∧ o.levee = none ∧ o.sent = 1 ∧ o.got = 0 ∧ x.unacked = [o.psn] ∧
      o.npsn = 1 ∧ o.wr.op = BitVec.ofNat 8 p.2.1 ∧ o.wr.len.toNat ≤ x.mtuBytes := by
  simp at h
  rcases h with rfl | rfl | rfl | rfl | rfl | rfl <;>
    exact ⟨⟨rfl, by decide +kernel, by decide +kernel⟩, rfl, by decide +kernel, rfl, rfl, rfl, rfl, rfl, rfl, by decide +kernel, by decide +kernel⟩
theorem witness_SluiceRequestsAndAnswers_placed :
    let f := answer_ tyAtomicResp
    let x : QueuePair := { asked 4 8 with used := 1 }
    let r := placeLocal 4 x (wrOf 4 8 5) 0 (f.payload.take 8) (touchQp 4 (countCecnt 4 tyAtomicResp f (countRx tyAtomicResp f (wSluice (asked 4 8) []))))
    f.cecnt = 0 ∧ r = .ok 0 (leaves r) ∧ (leaves r).qp 4 = some x := ⟨by decide +kernel, ok_of (by decide +kernel), by decide +kernel⟩
theorem witness_SluiceRequestsAndAnswers_nak (code : BitVec 8) (h : code ∈ [(1 : BitVec 8), 4]) :
    let f := frame tyNak fun g => { g with psn := 100, code := code }
    Arrives tyNak f 4 pair (wSluice pair []) ∧ f.code = code ∧ f.psn ≠ pair.rnrPsn ∧ pair.rnrretry ≠ 0 := by
  simp at h
  rcases h with rfl | rfl <;> exact ⟨⟨rfl, by decide +kernel, by decide +kernel⟩, by decide +kernel, by decide +kernel, by decide +kernel⟩
theorem witness_SluiceRequestsAndAnswers_echo : Arrives tyEcho (frame tyEcho id) 4 pair (wSluice pair []) ∧ pair.onDie = true :=
  ⟨⟨rfl, by decide +kernel, by decide +kernel⟩, rfl⟩

theorem witness_SluiceTimers :
    (wSluice { pair with owed := true, ce := 1 } []).qp 4 = some { pair with owed := true, ce := 1 } ∧ sluiceUp (wSluice pair []) = true ∧
      (1 : BitVec 16) ≠ 0 ∧ (wSluice pair []).power.inQuiet = false ∧ ({ pair with onDie := false } : QueuePair).parked = [] ∧
      qpCount (wSluice pair []) (·.onDie) < 16384 ∧ pair.unacked = [] ∧ (asked 2 64).unacked ≠ [] := ⟨rfl, rfl, by decide, rfl, rfl, by decide, rfl, by decide⟩
theorem witness_SluiceTimers_again :
    let x := { asked 2 64 with backoff := some (100, 7) }
    let o := opened 2 64 fun o => { o with sent := 1 }
    x.opens = [o] ∧ o.wr.op = 2 ∧ o.psn = 100 ∧ 0 < o.npsn ∧ x.unacked = [100] ∧ x.timeouts + 1 ≤ x.retry.toNat ∧ x.backoff = some (100, 7) ∧ (asked 2 64).backoff = none :=
  ⟨rfl, by decide +kernel, rfl, by decide, rfl, by decide, rfl, rfl⟩
theorem witness_SluiceTimers_revoke :
    let r : Region := { area with state := .revoking, open_ := [(4, 200, false)] }
    let s := (wSluice pair []).setRegion 1 r
    (s.region 1).state = .revoking ∧ (∀ m ∈ (s.region 1).open_, m.2.2 = false) ∧ s.qp 4 = some pair ∧ pair.rx.toList ++ pair.early = [] :=
    ⟨by decide, by decide, rfl, rfl⟩

/-! ## Witnesses: the levee, containment -/

/-- Shard 2 of polder 5, with one region of two granules at 1 MiB and its slots at 8 and 9 MiB. -/
def shard (st : ShardState) (cores : Word) (f : Shard → Shard) : Shard :=
  f { Shard.reset with
    state := st, steps := 4, tmr := 10, seq := 7, lstep := 12
    desc := #v[0x0001000500001234, cores + 0x300000000, 0x800000, 0x900000, 0, 0, 0, 0] }
def wLevee (x : Shard) : State :=
  { wNode with levee := { wNode.levee with regions := [(1, ((0x100000 : Word), (2 : Word)))], shards := wNode.levee.shards.set 2 x } }
def wIdle : State := wLevee (shard .idle 0 id)
/-- STEP at a multiple of STEPS, at the last trigger's value, and between two; another polder's store. -/
theorem witness_LeveeTriggersAndStages_step :
    leveeUp wIdle = true ∧ (bell 4 16 5).size ≠ 8 ∧ ¬ ((bell 8 16 4).trusted = true ∨ (bell 8 16 4).tag = (wIdle.shard 2).polder) ∧
      ((bell 8 16 5).tag = (wIdle.shard 2).polder ∧ (wIdle.shard 2).state ≠ .disabled ∧ (wIdle.shard 2).steps ≠ 0 ∧
        (16 : Word).toNat % (wIdle.shard 2).steps.toNat = 0 ∧ (16 : Word) ≠ (wIdle.shard 2).lstep) ∧
      (12 : Word) = (wIdle.shard 2).lstep ∧ (17 : Word).toNat % (wIdle.shard 2).steps.toNat ≠ 0 := by decide
theorem witness_LeveeTriggersAndStages_states :
    ((wIdle.shard 2).state = .idle ∧ (wIdle.shard 2).cores = 0 ∧ (wIdle.shard 2).tmr ≠ 0) ∧
      ((shard .copying 3 id).state ≠ .idle ∧ (shard .copying 3 id).state ≠ .disabled ∧ (shard .copying 3 id).tmr ≠ 0) ∧
      (wNode.shard 2).state = .disabled := by decide
theorem witness_LeveeTriggersAndStages_arm :
    let s := wLevee (shard .arming 3 id)
    leveeUp s = true ∧ writerShut (.core 0) s = false ∧ (s.shard 2).state = .arming ∧ (s.shard 2).armed = false ∧ coresPaused s (s.shard 2) = true ∧
      shardGranules s (s.shard 2) = [0x100000, 0x140000] := by decide
theorem witness_LeveeTriggersAndStages_resume :
    let s := wLevee (shard .arming 3 fun x => { x with armed := true })
    (s.shard 2).state = .arming ∧ (s.shard 2).armed = true ∧ (s.shard 2).toDown = [] ∧ (s.shard 2).stepFar = none ∧ (∀ t ∈ s.th.txns, t.unit ≠ .levee 2) ∧ (s.shard 2).cores.getLsbD 1 = true ∧
      ∀ j, j ≠ 2 → (s.shard j).state = .arming → (s.shard j).cores.getLsbD 1 = false := by decide
theorem witness_LeveeTriggersAndStages_commit :
    let s := wLevee (shard .committing 3 id)
    let x := s.shard 2
    let r := agentWrite (.levee 2) x.polder false (x.slot x.next) (recordBytes s x) s
    x.state = .committing ∧ x.remote = false ∧ r = .ok 0 (leaves r) ∧ (leaves r).shard 2 = x ∧ (leaves r).th.queued = [] :=
  ⟨by decide +kernel, by decide +kernel, ok_of (by decide +kernel), by decide +kernel, by decide +kernel⟩
theorem witness_LeveeTriggersAndStages_restore :
    let s0 := wLevee (shard .restoring 3 id)
    let s := { s0 with porch := { s0.porch with accepted := [⟨1, 0x53, false, 2, 0, 0⟩] } }
    let x := s.shard 2
    let r := agentRead (.levee 2) x.polder false (x.slot false) 64 s
    (s.background 0x53 2).isSome = true ∧ x.state = .restoring ∧ x.recs = [] ∧ x.remote = false ∧ r = .ok (0, List.replicate 64 0) (leaves r) ∧
      (leaves r).shard 2 = x ∧ (leaves r).th.queued = [] :=
  ⟨by decide +kernel, by decide +kernel, by decide +kernel, by decide +kernel, ok_of (by decide +kernel), by decide +kernel, by decide +kernel⟩
theorem witness_CommitRecordAndSlotCrc : ∀ g ∈ [List.replicate 0x40000 (0 : Byte)], g.length = 0x40000 := by
  intro g hg; rw [List.mem_singleton.mp hg]; exact List.length_replicate

/-- The first and last port of each kind of unit, in a die whose gates are open. -/
theorem witness_FaultyUnitsAreFenced :
    wNode.coff.dieStop = false ∧ wNode.coff.events.length < 256 ∧ wNode.coff.sramErr = none ∧ wNode.porch.direct = none ∧ wNode.th.queued = [] ∧
      (∀ p ∈ [0x00, 0x1F, 0x40, 0x41, 0x38, 0x3F, 0x30, 0x33, 0x42, 0x28, 0x2B], (wNode.gate p).open_ = true) ∧
      (wNode.gate 0x43).open_ = false ∧ (wNode.gate 0x20).open_ = false ∧ (0x20 : Nat) < 0x43 ∧ (1 : BitVec 32) ≠ 0 ∧
      ((on { k0 with pausing := true }).core 0).pausing = true ∧ ((wNode).core 0).pausing = false ∧ ((wNode).core 0).armPausing = false := by
  decide

/-- The cofferdam's SRAM has an uncorrectable error as it is to note a fault of the levee; its own port. -/
def wBadCoff : State := { wNode with coff := { wNode.coff with sramErr := some .uncorrectable } }
theorem witness_FaultyUnitsAreFenced_stop :
    wBadCoff.coff.dieStop = false ∧ wBadCoff.porch.direct = none ∧ wBadCoff.coff.sramErr = some .uncorrectable ∧ (wBadCoff.gate 0x41).open_ = true ∧
      (0xFF : BitVec 8).toNat = 0xFF := by decide

/-- An event of core 0 that asks for a move: SEV 2, a fault that stays in the core. -/
def wMove (spare : BitVec 2) : State :=
  { wNode with coff := { wNode.coff with events := [⟨0x07, 0, 1, 0, 2, 0, 0, 0, 0, 0, false⟩], spareFree := spare } }
/-- A spare room that is free and closed; wing caches with and without a way that passes its test; units fenced in their turn. -/
theorem witness_FaultyUnitsAreFenced_spare :
    ((wMove 3).gate 33).open_ = false ∧ (wMove 3).coff.spareFree.getLsbD 1 = true ∧ (wMove 1).coff.spareFree.getLsbD 1 = false ∧
      nextRecovery wNode = none ∧ goodWay wNode.wings[3] = some 0 ∧ goodWay { Wing.reset with wayFail := 0x8001, waydis := 0x7FFE } = none ∧
      turnOf (fenceEvent 0x41) wNode = true ∧ turnOf (fenceEvent 0x40) wNode = true ∧ turnOf (fenceEvent 0x41) (wMove 3) = false := by decide
theorem witness_FailedPartsAreSpared :
    wNode.coff.dieStop = false ∧ wNode.present 0 = true ∧ wNode.offline 0 = false ∧ nextMove wNode 0 = false ∧ nextMove (wMove 3) 0 = true ∧
      freeSpare (wMove 3) = some 32 ∧ freeSpare (wMove 2) = some 33 ∧ ((wMove 3).phys 0).toNat ≠ 32 ∧ freeSpare (wMove 0) = none := by decide
theorem witness_FailedPartsAreSpared_lanes :
    let s := on { k0 with mxStopped := true }
    (s.core 0).mxStopped = true ∧ (s.core 0).mxThird = false ∧ (w0.core 0).mxStopped = false ∧ (s.phys 0).toNat < 34 ∧
      failedLanes Room.reset 4 = [2] ∧ failedLanes Room.reset 0 = [] ∧ 2 ≤ (failedLanes Room.reset 5).length ∧ (4 : BitVec 34).getLsbD 33 = false ∧
      Room.reset.spareBad = false ∧ (s.gate (s.corePort 0)).open_ = true ∧ turnOf (fun e => laneEvent s e && e.port.toNat = s.corePort 0) s = true ∧
      (failedLanes { Room.reset with laneMap := some 1 } 4 = [2] ∧ ({ Room.reset with laneMap := some 1 } : Room).laneMap.isSome = true) := by decide
/-- Way 3 of wing cache 0 has had an uncorrectable error; line 5 of stack 0 too, whose row has, or has no, spare row left. -/
def wDue (gone : List (Nat × Word)) : State :=
  { wNode with
    wings := wNode.wings.set 0 { Wing.reset with wayBad := 8 }
    mem := { wNode.mem with noSpare := gone }
    coff := { wNode.coff with events := [⟨0x04, 0x30, 0, 0, 1, 0, 0x140, 0, 0, 0, false⟩] } }
theorem witness_FailedPartsAreSpared_ways :
    (0 : Fin 4).val < nWings wNode.variant ∧ wayDue (wDue []) 0 3 = true ∧ wayDue wNode 0 3 = false ∧
      turnOf (fun e => wayEvent (wDue []) e && wingOfPort e.port.toNat = some 0) { wDue [] with coff := wNode.coff } = true ∧
      (∀ e ∈ (wDue []).coff.events, reduceEvent e = false) ∧ (3 : Fin 4).val < nStacks wNode.variant := by decide
theorem witness_FailedPartsAreSpared_rows :
    rowDue 0 [5] (wDue []) = true ∧ turnOf (rowOf (wDue []) 0 [5]) (wDue []) = true ∧ rowDue 0 [5] wNode = false ∧
      (wDue [(0, 7)]).mem.noSpare.contains (0, 7) = true ∧ (wDue [(0, 7)]).mem.noSpare.contains (1, 7) = false := by decide
/-- Line 5 of stack 0 gave corrected errors in two scrub passes; its bank has no spare row left. -/
theorem witness_FailedPartsAreSpared_report :
    let s := { wNode with mem := { wNode.mem with scrubbed := [(5, 1), (5, 2)], noSpare := [(0, 7)] } }
    rowDue 0 [5] s = true ∧ turnOf (rowOf s 0 [5]) s = true ∧ s.mem.noSpare.contains (0, 7) = true ∧ s.coff.events = [] ∧ s.coff.sramErr = none ∧
      s.rfull = false ∧ s.porch.waiting = [] ∧ s.th.queued = [] ∧ bit s.porch.mirror 0 = false := by decide

/-! ## Witness: the copy of a granule -/

/-- Node 0 of a VKE32-X with nothing in its caches, nothing outstanding, no defects, and this levee. -/
structure Still (l : Levee) (s : State) : Prop where
  variant : s.variant = .vke32x
  th : s.th = wNode.th
  coff : s.coff = wNode.coff
  levee : s.levee = l
  l2 : ∀ k ∈ s.cores.toList, k.l2 = []
  wing : ∀ x ∈ s.wings.toList, x.cache = []
  dir : s.mem.dir = []
  errs : s.mem.errs = []
  dirErrs : s.mem.dirErrs = []
  arrays : s.mem.arrays = []
  spoilt : s.mem.badDirty = []

theorem still_holdings {l : Levee} {s : State} (h : Still l s) (n : Nat) : holdings s n = [] := by
  simp only [holdings, List.append_eq_nil_iff, List.filterMap_eq_nil_iff]
  refine ⟨fun k hk => ?_, fun x hx => ?_⟩
  · simp [coreHolds, stateOf, find, cset, h.l2 k hk, mget, CSet.empty]
  · simp [wingHolds, stateOf, find, cset, h.wing x hx, mget, CSet.empty]
theorem still_place {a : Nat} (ha : a < 0x4000000000) : place a = .mem 0 := by
  have h1 : a < 0x10000000000 := by omega
  have h2 : a / 2 ^ 38 % 4 = 0 := by omega
  simp [place, h1, h2] <;> omega
theorem still_ready {l : Levee} {s : State} (h : Still l s) (i : Fin 16) (tag : BitVec 12) (n : Nat) (write whole cur : Bool)
    (hu : write = true → l.unsaved.contains (granOf (64 * n)) = false) :
    ∃ t, homeReady (.levee i) tag n write whole cur s = .ok 0 t ∧ Still l t := by
  have hlost : s.lost (64 * n) = false := by simp [State.lost, h.coff, wNode, State.reset, State.resetOf, Cofferdam.reset]
  have htx : s.th.txns = [] := by rw [h.th]; rfl
  have hd : dirOf s n = DirEntry.none := by simp [dirOf, h.dir, mget]
  have hn (k : Nat) (hk : k < 4) : s.nodeLost k = false := by
    rw [State.nodeLost, h.th]
    have := (show ∀ k : Fin 4, (wNode.th.lost.getLsbD k.val) = false by decide) ⟨k, hk⟩
    simpa [State.nodeLost] using this
  have hg : ((List.finRange 4).filter fun d => s.nodeLost d.val) = [] := by
    rw [List.filter_eq_nil_iff]; intro d _; simp [hn d.val d.isLt]
  have hs : snoopSet { owner := none, sharers := 0 } write = [] := by cases write <;> rfl
  have hun : (write && s.unsaved (64 * n)) = false := by
    cases write
    · rfl
    · simpa [State.unsaved, h.levee] using hu rfl
  have hh := still_holdings h n
  have hr : readStack n tag s = (true, countRd n s) := by
    have e1 : (countRd n s).errsOf n = 0 := by simp [State.errsOf, show (countRd n s).mem.errs = [] from h.errs, mget]
    have e2 : outerCode 0 = .clean := by decide
    simp only [readStack, e1, e2]
  have hm : meetHeld n s = s := by simp [meetHeld, h.arrays, mget]
  have hw : (if whole then s else meetHeld n s) = s := by rw [hm]; exact ite_self _
  have hsp : s.spoilt n = false := by simp [State.spoilt, h.spoilt, mget]
  have hdir : readDir n tag s = (true, s) := by simp [readDir, h.dirErrs, mget]
  refine ⟨if whole then s else countRd n s, ?_, ?_⟩
  · simp only [homeReady, hw, hsp, hdir, hlost, htx, Bool.false_and, List.any_nil, hd, hg, List.foldl_nil, hs, hun, hh, hr, Bool.false_eq_true, ↓reduceIte, DirEntry.none,
      Option.any_none, List.isEmpty_nil, Bool.not_true, Bool.or_false]
    cases whole <;> rfl
  · cases whole
    · exact ⟨h.variant, h.th, h.coff, h.levee, h.l2, h.wing, h.dir, h.errs, h.dirErrs, h.arrays, h.spoilt⟩
    · exact h
theorem still_read {l : Levee} {s : State} (h : Still l s) (i : Fin 16) (tag : BitVec 12) (a n : Nat) (ha : a < 0x4000000000) :
    ∃ bs t, agentPiece (.levee i) tag false a n s = .ok (0, bs) t ∧ Still l t ∧ bs.length = n := by
  obtain ⟨t, ht, hs⟩ := still_ready h i tag (a / 64) false false true (fun h => by cases h)
  have ho : s.ownDie 0 = true := by simp [State.ownDie, h.th]; rfl
  have hn : (stackOf a).val < nStacks s.variant := by rw [h.variant]; exact (stackOf a).isLt
  have hsup : supplied (.levee i) (a / 64) s = none := by
    have : s.th.reqs = [] := by rw [h.th]; rfl
    simp [supplied, this]
  exact ⟨viewBytes t tag a n, t, by simp only [agentPiece, still_place ha, ho, hn, hsup, ht, ↓reduceIte], hs, by simp [viewBytes]⟩
theorem still_stored {l : Levee} {s : State} (h : Still l s) (tag : BitVec 12) (a : Nat) (bs : List Byte) : Still l (homeWrite tag a bs s) := by
  have low (m : List Host.Cell) : Still l (s.setBytes m) := ⟨h.variant, h.th, h.coff, h.levee, h.l2, h.wing, h.dir, h.errs, h.dirErrs, h.arrays, h.spoilt⟩
  have drop {u : State} (hu : Still l u) : Still l (dropCopies (a / 64) u) := by
    refine ⟨hu.variant, hu.th, hu.coff, hu.levee, ?_, ?_, hu.dir, hu.errs, hu.dirErrs, hu.arrays, hu.spoilt⟩
    · intro k hk
      simp only [dropCopies, Vector.toList_map, List.mem_map] at hk
      obtain ⟨k0, hk0, rfl⟩ := hk
      simp [Core.dropLine, hu.l2 k0 hk0, Machine.drop, find, cset, mget, CSet.empty]
    · intro x hx
      simp only [dropCopies, Vector.toList_map, List.mem_map] at hx
      obtain ⟨x0, hx0, rfl⟩ := hx
      simp [Wing.dropLine, hu.wing x0 hx0, Machine.drop, find, cset, mget, CSet.empty]
  have put {u : State} (hu : Still l u) (m : List Host.Cell) : Still l (u.setBytes m) :=
    ⟨hu.variant, hu.th, hu.coff, hu.levee, hu.l2, hu.wing, hu.dir, hu.errs, hu.dirErrs, hu.arrays, hu.spoilt⟩
  have store {u : State} (hu : Still l u) : Still l (storeLine tag (a / 64) u) := by
    refine ⟨hu.variant, hu.th, hu.coff, hu.levee, hu.l2, hu.wing, hu.dir, ?_, hu.dirErrs, hu.arrays, hu.spoilt⟩
    show mset 0 u.mem.errs _ 0 = []; rw [hu.errs]; rfl
  have clear {u : State} (hu : Still l u) : Still l (unspoil (a / 64) u) := by
    refine ⟨hu.variant, hu.th, hu.coff, hu.levee, hu.l2, hu.wing, hu.dir, hu.errs, hu.dirErrs, hu.arrays, ?_⟩
    show mset none u.mem.badDirty _ none = []; rw [hu.spoilt]; rfl
  unfold homeWrite
  dsimp only
  apply store
  apply put
  apply drop
  apply clear
  split
  · exact h
  · exact put h _
theorem still_write {l : Levee} {s : State} (h : Still l s) (i : Fin 16) (tag : BitVec 12) (a : Nat) (bs : List Byte) (ha : a < 0x4000000000)
    (hu : l.unsaved.contains (granOf (64 * (a / 64))) = false) :
    ∃ t, agentPut (.levee i) tag false a bs s = .ok 0 t ∧ Still l t := by
  obtain ⟨t, ht, hs⟩ := still_ready h i tag (a / 64) true (decide (bs.length = 64)) false (fun _ => hu)
  have ho : s.ownDie 0 = true := by simp [State.ownDie, h.th]; rfl
  have hn : (stackOf a).val < nStacks s.variant := by rw [h.variant]; exact (stackOf a).isLt
  exact ⟨homeWrite tag a bs t, by simp only [agentPut, still_place ha, ho, hn, ht, ↓reduceIte], still_stored hs tag a bs⟩
theorem pieces_bound : ∀ (fuel a n : Nat), ∀ p ∈ pieces fuel a n, a ≤ p.1 ∧ p.1 < a + n
  | 0, _, _, p, h => by simp [pieces] at h
  | fuel + 1, a, n, p, h => by
    unfold pieces at h
    split at h
    · simp at h
    · rename_i hn
      rcases List.mem_cons.mp h with rfl | h
      · simp; omega
      · have := pieces_bound fuel _ _ p h
        have hk : Nat.min n (64 - a % 64) ≤ n := Nat.min_le_left _ _
        omega
theorem pieces_sum : ∀ (fuel a n : Nat), ((pieces fuel a n).map (·.2)).sum ≤ n
  | 0, _, _ => by simp [pieces]
  | fuel + 1, a, n => by
    unfold pieces
    split
    · simp
    · have := pieces_sum fuel (a + Nat.min n (64 - a % 64)) (n - Nat.min n (64 - a % 64))
      have hk : Nat.min n (64 - a % 64) ≤ n := Nat.min_le_left _ _
      simp only [List.map_cons, List.sum_cons]; omega
theorem still_reads {l : Levee} {i : Fin 16} {tag : BitVec 12} : ∀ (ps : List (Nat × Nat)) (acc : List Byte) (s : State), Still l s →
    (∀ p ∈ ps, p.1 < 0x4000000000) → ∃ bs t, (ps.foldlM (fun (acc : BitVec 4 × List Byte) p => do
      if acc.1 ≠ 0 then pure acc
      else
        let r ← agentPiece (.levee i) tag false p.1 p.2
        pure (r.1, acc.2 ++ r.2)) (0, acc) : M (BitVec 4 × List Byte)) s = .ok (0, bs) t ∧ Still l t ∧ bs.length = acc.length + (ps.map (·.2)).sum
  | [], acc, s, h, _ => ⟨acc, s, rfl, h, by simp⟩
  | p :: ps, acc, s, h, hp => by
    obtain ⟨bs, t, hr, ht, hb⟩ := still_read h i tag p.1 p.2 (hp p List.mem_cons_self)
    obtain ⟨cs, u, hu, hs, hc⟩ := still_reads (i := i) (tag := tag) ps (acc ++ bs) t ht fun q hq => hp q (List.mem_cons_of_mem _ hq)
    refine ⟨cs, u, ?_, hs, by rw [hc]; simp [hb]; omega⟩
    rw [List.foldlM_cons, ← hu]
    simp only [bind, EStateM.bind, hr, pure, EStateM.pure, ne_eq, not_true_eq_false, ↓reduceIte]
theorem still_writes {l : Levee} {i : Fin 16} {tag : BitVec 12} {f : Nat × Nat → List Byte} : ∀ (ps : List (Nat × Nat)) (s : State), Still l s →
    (∀ p ∈ ps, p.1 < 0x4000000000 ∧ l.unsaved.contains (granOf (64 * (p.1 / 64))) = false) → ∃ t, (ps.foldlM (fun (acc : BitVec 4) p => do
      if acc ≠ 0 then pure acc
      else agentPut (.levee i) tag false p.1 (f p)) 0 : M (BitVec 4)) s = .ok 0 t ∧ Still l t
  | [], s, h, _ => ⟨s, rfl, h⟩
  | p :: ps, s, h, hp => by
    obtain ⟨t, hr, ht⟩ := still_write h i tag p.1 (f p) (hp p List.mem_cons_self).1 (hp p List.mem_cons_self).2
    obtain ⟨u, hu, hs⟩ := still_writes (i := i) (tag := tag) (f := f) ps t ht fun q hq => hp q (List.mem_cons_of_mem _ hq)
    refine ⟨u, ?_, hs⟩
    rw [List.foldlM_cons, ← hu]
    simp only [bind, EStateM.bind, hr, ne_eq, not_true_eq_false, ↓reduceIte]

theorem flat_same {α : Type} {f : α → List α} : ∀ ps : List α, (∀ p ∈ ps, f p = [p]) → ps.flatMap f = ps
  | [], _ => rfl
  | p :: ps, h => by rw [List.flatMap_cons, h p List.mem_cons_self, flat_same ps fun q hq => h q (List.mem_cons_of_mem _ hq)]; rfl
/-- Nothing below the end of node 0's memory is cut again. -/
theorem low_parts (s : State) {a n : Nat} (h : a + n ≤ 0x4000000000) : s.parts a n = splitLines a n :=
  flat_same _ fun p hp => by
    have := pieces_bound _ _ _ p hp
    simp only [still_place (show p.1 < 0x4000000000 by omega)]

/-- Shard 2 copies: granules 4 and 5 are unsaved. -/
def copying : Shard := shard .copying 0 fun x => { x with phase := 1 }
def wCopy : State := let s := wLevee copying; { s with levee := { s.levee with unsaved := [4, 5] } }
theorem still_wCopy : Still wCopy.levee wCopy :=
  { variant := rfl, th := rfl, coff := rfl, levee := rfl, dir := rfl, errs := rfl, dirErrs := rfl, arrays := rfl, spoilt := rfl
    l2 := fun k hk => by
      have : k ∈ List.replicate 32 Core.reset := by simpa [wCopy, wLevee, wNode, State.reset, State.resetOf] using hk
      rw [List.eq_of_mem_replicate this]; rfl
    wing := fun x hx => by
      have : x ∈ List.replicate 4 Wing.reset := by simpa [wCopy, wLevee, wNode, State.reset, State.resetOf] using hx
      rw [List.eq_of_mem_replicate this]; rfl }
theorem still_release {l : Levee} {s : State} (h : Still l s) (g : Nat) (hw : l.heldWrites = []) :
    (releaseGran g s).levee.shards = l.shards ∧ (releaseGran g s).th = s.th := by
  simp [releaseGran, h.levee, hw]
theorem witness_LeveeTriggersAndStages_copy :
    let s := wCopy
    let x := s.shard 2
    let a := 0x100000
    leveeUp s = true ∧ x.state = .copying ∧ x.phase = 1 ∧ x.remote = false ∧ nextGranule s x = some (false, a) ∧
      ((shardGranules s x).findIdx? (· = a)).getD 0 = 0 ∧
      ∃ bs t1 u, agentRead (.levee 2) x.polder false a 0x40000 s = .ok (0, bs) t1 ∧ t1.shard 2 = x ∧
        agentWrite (.levee 2) x.polder false (x.slot x.next + (0x1000 + 0 * 0x40000)) bs t1 = .ok 0 u ∧
        (releaseGran (granOf a) u).shard 2 = x ∧ (releaseGran (granOf a) u).th.queued = [] := by
  intro s x a
  have hslot : x.slot x.next = 0x800000 := by decide +kernel
  refine ⟨by decide +kernel, by decide +kernel, by decide +kernel, by decide +kernel, by decide +kernel, by decide +kernel, ?_⟩
  obtain ⟨bs, t1, hr, h1, hb⟩ := still_reads (i := 2) (tag := x.polder) (splitLines a 0x40000) [] s still_wCopy fun p hp => by
    have := pieces_bound _ _ _ p hp; simp only [a] at this; omega
  have hlen : bs.length ≤ 0x40000 := by
    rw [hb]; have := pieces_sum (0x40000 / 64 + 2) a 0x40000; simp only [splitLines, List.length_nil, Nat.zero_add]; exact this
  obtain ⟨u, hu, h2⟩ := still_writes (i := 2) (tag := x.polder) (f := fun p => (bs.drop (p.1 - 0x801000)).take p.2)
    (splitLines 0x801000 bs.length) t1 h1 fun p hp => by
      have hp := pieces_bound _ _ _ p hp
      have hg : 5 < granOf (64 * (p.1 / 64)) := by unfold granOf; omega
      have hl : wCopy.levee.unsaved = [4, 5] := rfl
      exact ⟨by omega, by rw [hl]; simp; omega⟩
  have hshard {v : State} (h : v.levee.shards = s.levee.shards) : v.shard 2 = x := by
    show (v.levee.shards)[2] = _; rw [h]; rfl
  obtain ⟨r1, r2⟩ := still_release h2 (granOf a) rfl
  refine ⟨bs, t1, u, ?_, hshard (by rw [h1.levee]), ?_, hshard r1, by rw [r2, h2.th]; rfl⟩
  · have e := low_parts s (a := a) (n := 0x40000) (by decide)
    simp only [agentRead, bind, EStateM.bind, get, getThe, MonadStateOf.get, EStateM.get, e]; exact hr
  · rw [hslot]
    have e := low_parts t1 (a := 0x801000) (n := bs.length) (by omega)
    simp only [agentWrite, bind, EStateM.bind, get, getThe, MonadStateOf.get, EStateM.get, e]; exact hu

/-! ## Witnesses: the pumphouse and the porch -/

/-- The sequencer runs at address 0. -/
def kPh : Pump := { Pump.reset with run := true, pc := 0, dsp := 0xA010 }
def wPh (p : Pump) : State := { wNode with pump := p }
/-- A long immediate of v into a port. -/
def imm (v : BitVec 16) : PhMove := .bus0 2 v
def phB (w : BitVec 32) (port : Nat) (v : BitVec 16) (s : State) : Bool :=
  phRuns s && s.pump.pc.toNat % 4 = 0 && (s.pump.pc.toNat < 0xA000 || 0xF000 ≤ s.pump.pc.toNat) &&
    (List.range 4).all (fun i => !s.pump.badSram.contains (s.pump.pc.toNat + i)) && !phIllegal w &&
    (phMoves w).all (fun m => !(m.1 = 0x38 || m.1 = 0x39) || (inData s.pump.dsp.toNat && !s.pump.badSram.contains s.pump.dsp.toNat)) &&
    (phValues w s).contains (port, v) && (phMoves w).all fun m => m.2 = port || !phTriggers m.2
theorem ph_of {w : BitVec 32} {port : Nat} {v : BitVec 16} {s : State} (h : phB w port v s = true) : PhWord w port v s := by
  simp only [phB, Bool.and_eq_true, Bool.or_eq_true, decide_eq_true_eq, List.all_eq_true, List.mem_range, Bool.not_eq_true', Bool.or_eq_false_iff,
    decide_eq_false_iff_not, List.contains_iff_mem] at h
  obtain ⟨⟨⟨⟨⟨⟨⟨h1, h2⟩, h3⟩, h4⟩, h5⟩, h6⟩, h7⟩, h8⟩ := h
  refine ⟨h1, h2, h3, fun i hi => ?_, h5, fun m hm hs => ?_, h7, fun m hm hne => ?_⟩
  · exact h4 i hi
  · rcases h6 m hm with h | h
    · rcases hs with hs | hs <;> simp [hs] at h
    · exact h
  · rcases h8 m hm with h | h
    · exact absurd h hne
    · exact h
theorem witness_PumphouseAlu (port : BitVec 8)
    (h : port ∈ [(0x10 : BitVec 8), 0x11, 0x12, 0x13, 0x14, 0x15, 0x16, 0x17, 0x18, 0x19, 0x1A, 0x1B, 0x38, 0x3F]) :
    PhWord (phWord port (imm 0x80)) port.toNat 0x80 (wPh kPh) := by
  refine ph_of ?_
  revert port; decide +kernel
/-- The same beside a move into the ALU's operand port, from the ALU's result, on the other bus. -/
theorem witness_PumphouseAlu_both : PhWord (phWord 0x10 (.bus1 0x08 0x0808)) 0x10 0 (wPh kPh) := ph_of (by decide +kernel)

/-- A load's address in data SRAM, at an uncorrectable byte, and at the bounds of what is readable; stores to each part. -/
theorem witness_PumphouseMemory_access (v : BitVec 16) (h : v ∈ [(0xA000 : BitVec 16), 0xDFFF, 0xF000, 0x9FFF]) :
    PhWord (phWord 0x43 (imm v)) 0x43 v (wPh kPh) ∧ PhWord (phWord 0x44 (imm v)) 0x44 v (wPh { kPh with lock := true }) ∧
      (lsuAddr kPh 0x43 v < 0xE000 ∨ 0xF000 ≤ lsuAddr kPh 0x43 v) := by
  simp at h
  rcases h with rfl | rfl | rfl | rfl <;> exact ⟨ph_of (by decide +kernel), ph_of (by decide +kernel), by decide +kernel⟩
theorem witness_PumphouseMemory_pointer :
    PhWord (phWord 0x41 (imm 0x09)) 0x41 9 (wPh kPh) ∧ PhWord (phWord 0x42 (imm 0x09)) 0x42 9 (wPh kPh) ∧ lsuAddr kPh 0x42 9 < 0xA000 ∧ kPh.lock = false :=
  ⟨ph_of (by decide +kernel), ph_of (by decide +kernel), by decide +kernel, by decide⟩
theorem witness_PumphouseMemory_bad :
    let p := { kPh with badSram := [0xA000] }
    PhWord (phWord 0x43 (imm 0xA000)) 0x43 0xA000 (wPh p) ∧ p.badSram.contains 0xA000 = true := ⟨ph_of (by decide +kernel), by decide⟩
theorem witness_PumphouseMemory_stack :
    PhWord (phWord 0x48 (imm 5)) 0x48 5 (wPh kPh) ∧ inData (kPh.dsp - 1).toNat = true ∧
      PhWord (phWord 0x48 (imm 5)) 0x48 5 (wPh { kPh with dsp := 0xA000 }) ∧ inData ((0xA000 : BitVec 16) - 1).toNat = false :=
  ⟨ph_of (by decide +kernel), by decide, ph_of (by decide +kernel), by decide⟩
theorem witness_PumphouseMemory_pop (second : Bool) :
    let w := phWord 8 (if second then .bus1 0x39 0 else .bus0 0x39 0)
    PhWord w 8 0 (wPh kPh) ∧ (0x39, 8) ∈ phMoves w ∧ phTriggers 8 = false ∧ (∀ x ∈ phMoves w, x.2 ≠ 0x49) ∧ ptrClash (phValues w (wPh kPh)) = none := by
  cases second <;> exact ⟨ph_of (by decide +kernel), by decide, by decide, by decide, by decide⟩
/-- Branches of each kind, to an aligned address and to another; with the flags set so that it is taken, or not. -/
theorem witness_PumphouseMemory_branches (port : BitVec 8) (f : BitVec 4) (v : BitVec 16)
    (h : port ∈ [(0x50 : BitVec 8), 0x51, 0x52, 0x53, 0x54, 0x55, 0x56, 0x57, 0x58]) (hv : v ∈ [(0x100 : BitVec 16), 0x102]) (hf : f ∈ [(0 : BitVec 4), 7]) :
    PhWord (phWord port (imm v)) port.toNat v (wPh { kPh with flags := f }) := by
  simp at h hv hf
  rcases h with rfl | rfl | rfl | rfl | rfl | rfl | rfl | rfl | rfl <;> rcases hv with rfl | rfl <;> rcases hf with rfl | rfl <;>
    exact ph_of (by decide +kernel)
theorem witness_PumphouseMemory_taken :
    (bit (7 : BitVec 4) 0 = true ∧ bit (0 : BitVec 4) 0 = false) ∧ (bit (7 : BitVec 4) 1 = true ∧ bit (0 : BitVec 4) 1 = false) ∧
      (bit (7 : BitVec 4) 2 = true ∧ bit (0 : BitVec 4) 2 = false) ∧ (bit (7 : BitVec 4) 2 != bit (7 : BitVec 4) 3) = true ∧
      (0x100 : BitVec 16).toNat % 4 = 0 ∧ (0x102 : BitVec 16).toNat % 4 ≠ 0 := by decide
theorem witness_PumphouseMemory_calls :
    (kPh.rstack.length < 64 ∧ 64 ≤ (List.replicate 64 (0 : BitVec 16)).length) ∧
      PhWord (phWord 0x58 (imm 0x100)) 0x58 0x100 (wPh { kPh with rstack := List.replicate 64 0 }) ∧
      PhWord (phWord 0x59 (imm 0)) 0x59 0 (wPh { kPh with rstack := [0x200] }) ∧ PhWord (phWord 0x59 (imm 0)) 0x59 0 (wPh kPh) :=
  ⟨by decide, ph_of (by decide +kernel), ph_of (by decide +kernel), ph_of (by decide +kernel)⟩
/-- Each byte of a doubleword of the hatch that matters, with and without its snapshot and staging register. -/
theorem witness_PumphouseMemory_hatch (store : Bool) (v : BitVec 16) (h : v ∈ [(0xE000 : BitVec 16), 0xE001, 0xE006, 0xE007, 0xEFFF]) :
    PhWord (phWord (if store then 0x44 else 0x43) (imm v)) (if store then 0x44 else 0x43) v (wPh { kPh with snap := some (0, 9), stage := some (0, 9) }) ∧
      PhWord (phWord (if store then 0x44 else 0x43) (imm v)) (if store then 0x44 else 0x43) v (wPh kPh) ∧ 0xE000 ≤ v.toNat ∧ v.toNat < 0xF000 := by
  simp at h
  rcases h with rfl | rfl | rfl | rfl | rfl <;> cases store <;> exact ⟨ph_of (by decide +kernel), ph_of (by decide +kernel), by decide, by decide⟩

/-- The hatch's page lies on the view of data SRAM, whose first byte is, or is not, uncorrectable. -/
theorem witness_PumphouseMemory_view (bad : List Nat) (h : bad ∈ [[0xA000], []]) :
    let s := wPh { kPh with hatchPg := 0x24, badSram := bad }
    let off := s.pump.hatchPg.toNat * 4096 + 0
    PhWord (phWord 0x43 (imm 0xE000)) 0x43 0xE000 s ∧ viewAddr off = some 0xA000 ∧ s.pump.spoilt 0xA000 8 = !bad.isEmpty := by
  simp at h
  rcases h with rfl | rfl <;> exact ⟨ph_of (by decide +kernel), by decide +kernel, by decide +kernel⟩

theorem witness_PumphouseEventsAndMover_words (port : BitVec 8) (v : BitVec 16) (h : port ∈ [(0x68 : BitVec 8), 0x69, 0x6A, 0x6B])
    (hv : v ∈ [(0 : BitVec 16), 4]) : PhWord (phWord port (imm v)) port.toNat v (wPh kPh) := by
  simp at h hv
  rcases h with rfl | rfl | rfl | rfl <;> rcases hv with rfl | rfl <;> exact ph_of (by decide +kernel)
theorem witness_PumphouseEventsAndMover_waits :
    let s := wPh { kPh with events := 4, waiting := some 4, timer := some 7 }
    evtPend s &&& 4 ≠ 0 ∧ s.pump.waiting = some 4 ∧ s.pump.timer = some 7 ∧ evtPend (wPh kPh) &&& 4 = 0 ∧ kPh.waiting = none ∧ kPh.timer = none ∧
      s.power.rootLock = true ∧ Power.reset.rootLock = false ∧ s.ltime.toNat < (7 : Word).toNat := by
  decide
/-- The mover's shortest and longest run, to the ends of data SRAM and of code SRAM. -/
theorem witness_PumphouseEventsAndMover_mover :
    let fits (sram n : Nat) : Prop := 1 ≤ n ∧ n ≤ 4096 ∧ ((0xA000 ≤ sram ∧ sram + n ≤ 0xE000) ∨ (sram + n ≤ 0xA000 ∧ kPh.lock = false))
    bit kPh.mvCtl 18 = false ∧ bit (0x20000 : Word) 17 = true ∧ fits 0xA000 1 ∧ fits 0xD000 4096 ∧ fits 0x9000 4096 ∧ ¬ fits 0xA000 0 ∧
      ¬ fits 0xA000 4097 ∧ ¬ fits 0x9001 4096 ∧
      { wNode.coff with dieStop := true }.dieStop = true ∧ wNode.inReset = false ∧ wNode.coff.dieStop = false := by decide
/-- A line of node 0's memory with nothing to it. -/
theorem quiet_of {s : State} {a : Nat} (h : s.variant = .vke32x ∧ s.th = wNode.th ∧ s.mem = wNode.mem ∧ s.coff = wNode.coff ∧ s.cores = wNode.cores ∧
    s.wings = wNode.wings ∧ s.levee = wNode.levee) (ha : a < 0x4000000000) : QuietLine a s := by
  obtain ⟨hv, ht, hm, hc, hk, hw, hl⟩ := h
  have hp : place a = .mem 0 := by
    have h1 : a < 0x10000000000 := by omega
    have h2 : a / 2 ^ 38 % 4 = 0 := by omega
    have h3 : a / 274877906944 % 4 = 0 := by omega
    simp [place, h1, h2] <;> omega
  have hh : holdings s (a / 64) = [] := by
    have h0 : ∀ k : Core, k.l2 = [] → coreHolds k (a / 64) = none := fun k hk => by simp [coreHolds, stateOf, find, cset, hk, mget, CSet.empty]
    have h1 : ∀ x : Wing, x.cache = [] → wingHolds x (a / 64) = none := fun x hx => by simp [wingHolds, stateOf, find, cset, hx, mget, CSet.empty]
    simp only [holdings, hk, hw, List.append_eq_nil_iff, List.filterMap_eq_nil_iff]
    refine ⟨fun k hk => h0 k ?_, fun x hx => h1 x ?_⟩
    · have : k ∈ List.replicate 32 Core.reset := by simpa [wNode, State.reset, State.resetOf] using hk
      rw [List.eq_of_mem_replicate this]; rfl
    · have : x ∈ List.replicate 4 Wing.reset := by simpa [wNode, State.reset, State.resetOf] using hx
      rw [List.eq_of_mem_replicate this]; rfl
  refine ⟨⟨0, hp, by simp [State.ownDie, ht]; decide⟩, by rw [hv]; exact (stackOf a).isLt, ?_, ?_, hh, ?_, ?_, ?_, ?_⟩
  · simp [State.lost, hc, wNode, State.reset, State.resetOf, Cofferdam.reset]
  · simp [dirOf, hm, mget, wNode, State.reset, State.resetOf, Mem.reset]
  · simp [ht, wNode, State.reset, State.resetOf, Thresh.reset]
  · refine ⟨?_, ?_, ?_, ?_⟩ <;> simp [State.errsOf, State.spoilt, hm, mget, wNode, State.reset, State.resetOf, Mem.reset]
  · intro k; rw [State.nodeLost, ht]; revert k; decide
  · simp [State.unsaved, hl, wNode, State.reset, State.resetOf, Levee.reset]

/-! ## Witnesses: porch commands -/

/-- A packet of polder 5 with tag 7. -/
def pk (f : Packet → Packet) : Packet := f ⟨0, 7, 5, 0, 0, 0, 0, 0, 0, 0, 0, 0⟩
/-- The pumphouse serves commands; the command is in the ring. -/
def serving (s : State) : State := { s with porch := { s.porch with ready := true } }
def wPo (op : BitVec 8) (p : Packet) (s : State) : State := post op p (serving s)
def frontB (op : BitVec 8) (p : Packet) (s : State) : Bool :=
  canServe s && s.porch.cmdCi != s.porch.cmdPi && decide (slotWords s s.porch.cmdCi = packetWords op p) && s.coff.events.isEmpty && s.coff.sramErr.isNone &&
    s.th.queued.isEmpty && (!bit p.flags 0 || s.porch.accepted.isEmpty)
def goodB (op : BitVec 8) (p : Packet) (ms : List Word) (s : State) : Bool :=
  frontB op p s && p.flags.ult 4 && p.rsv == 0 && (p.length == 0 || p.paddr.toNat % 64 == 0) &&
    (List.range 6).all (fun i => [p.p2, p.p3, p.p4, p.p5, p.p6, p.p7].getD i 0 &&& ~~~(ms.getD i 0) == 0) && !onlySome op s
theorem front_of {op : BitVec 8} {p : Packet} {s : State} (h : frontB op p s = true) : PorchFront op p s := by
  simp only [frontB, Bool.and_eq_true, Bool.or_eq_true, Bool.not_eq_true', bne_iff_ne, ne_eq, decide_eq_true_eq, List.isEmpty_iff, Option.isNone_iff_eq_none] at h
  exact ⟨h.1.1.1.1.1.1, h.1.1.1.1.1.2, h.1.1.1.1.2, ⟨h.1.1.1.2, h.1.1.2⟩, (fun e he => by rw [h.1.2] at he; simp at he), h.2⟩
theorem good_of {op : BitVec 8} {p : Packet} {ms : List Word} {s : State} {len : Prop} (hl : len) (h : goodB op p ms s = true) :
    PorchGood op p len ms s := by
  simp only [goodB, Bool.and_eq_true, Bool.or_eq_true, Bool.not_eq_true', beq_iff_eq, List.all_eq_true, List.mem_range] at h
  obtain ⟨⟨⟨⟨⟨h1, h2⟩, h3⟩, h4⟩, h5⟩, h6⟩ := h
  exact { front_of h1 with
    good := ⟨h2, h3, hl, fun hn => h4.resolve_left hn, h5⟩, serving := h6 }

theorem witness_PorchServesAndReports_post :
    canServe (serving wNode) = true ∧ noEvents (serving wNode) ∧ (serving wNode).porch.cmdPi = (serving wNode).porch.cmdCi ∧ (serving wNode).th.queued = [] ∧
      writerShut .host (serving wNode) = false ∧ (serving wNode).porch.waiting = [] ∧ (serving wNode).porch.mirror = 0 := by
  unfold noEvents; decide +kernel
theorem witness_PorchServesAndReports_every (op : Nat) (h : op ∈ opcodes) :
    PorchGood (BitVec.ofNat 8 op) (pk id) ((pk id).length = 0) [] (wPo (BitVec.ofNat 8 op) (pk id) wNode) := by
  have all : ∀ op ∈ opcodes, goodB (BitVec.ofNat 8 op) (pk id) [] (wPo (BitVec.ofNat 8 op) (pk id) wNode) = true := by decide +kernel
  exact good_of rfl (all op h)
theorem witness_PorchServesAndReports_bad (f : Packet → Packet)
    (h : f ∈ [(fun p : Packet => { p with flags := 4 }), (fun p => { p with rsv := 1 }), (fun p => { p with length := 66 })]) :
    PorchFront 0x01 (pk f) (wPo 0x01 (pk f) wNode) ∧ ((pk f).flags.ult 4 = false ∨ (pk f).rsv ≠ 0 ∨ 65 < (pk f).length.toNat) := by
  simp at h
  rcases h with rfl | rfl | rfl <;> exact ⟨front_of (by decide +kernel), by decide⟩
theorem witness_PorchServesAndReports_busy :
    let s := { wPo 0x10 (pk id) wNode with porch := { (wPo 0x10 (pk id) wNode).porch with down := true } }
    PorchFront 0x10 (pk id) s ∧ PacketGood (pk id) ((pk id).length = 0) [] ∧ onlySome 0x10 s = true ∧ (pk id).p2 = 0 :=
  ⟨front_of (by decide +kernel), ⟨by decide, by decide, by decide, by decide, by decide⟩, by decide +kernel, by decide⟩
theorem witness_PorchServesAndReports_query (q : Word) (h : q ∈ [(4 : Word), 5]) :
    let p := pk fun p => { p with p2 := q }
    let s := wPo 0x46 p (wSluice pair [])
    PorchGood 0x46 p (p.length = 0) [0xFFFFF] s ∧ s.coff.sluiceFenced = false ∧ ((s.qp p.p2.toNat).isSome = true ↔ q = 4) := by
  simp at h
  rcases h with rfl | rfl <;> exact ⟨good_of rfl (by decide +kernel), by decide +kernel, by decide +kernel⟩

/-- A good command with the parameters that its row defines. -/
def given (op : BitVec 8) (ms : List Word) (f : Packet → Packet) (s : State) : Prop :=
  PorchGood op (pk f) ((pk f).length = 0) ms (wPo op (pk f) s)
theorem witness_PorchSetsTheDie_plain :
    given 0x11 [0xFFFFFFFF] (fun p => { p with p2 := 300 }) wNode ∧ given 0x31 [] id wNode ∧ given 0xF0 [1] id wNode ∧
      (∀ c : CoreId, canPause (wPo 0xF0 (pk id) wNode) c = true) :=
  ⟨good_of rfl (by decide +kernel), good_of rfl (by decide +kernel), good_of rfl (by decide +kernel), by decide +kernel⟩
/-- SET_LATENCY of 50 µs for core 0, which idles Open, or in a deeper state; a tolerance that keeps it Open. -/
theorem witness_PorchSetsTheDie_latency :
    let s := { on { k0 with asleep := true, tol := 0 } with th := wNode.th }
    let q : Packet → Packet := fun p => { p with p2 := 1, p3 := 50 }
    given 0x10 [0xFFFFFFFF, 0xFFFFFFFF] q s ∧ maskRefusal s 1 true = none ∧ (1 : Word).getLsbD 0 = true ∧ (s.core 0).idle = true ∧ (s.core 0).door = 0 ∧
      (s.core 0).forced = false ∧ tolDoor 50 ≠ 3 ∧ ((on { k0 with asleep := true, door := 2 }).core 0).door ≠ 0 :=
  ⟨good_of rfl (by decide +kernel), by decide +kernel⟩
/-- The power caps about the ends of the range. -/
theorem witness_PorchSetsTheDie_cap (n : Word) (h : n ∈ [(99 : Word), 100, 300, 301]) : given 0x12 [0xFFFF] (fun p => { p with p2 := n }) wNode := by
  simp at h
  rcases h with rfl | rfl | rfl | rfl <;> exact good_of rfl (by decide +kernel)
/-- Core commands on core 0, and on core 1, which is offline; on a core that the variant has not. -/
theorem witness_PorchSetsTheDie_cores (p : BitVec 8 × List Word)
    (h : p ∈ [((0x10 : BitVec 8), [(0xFFFFFFFF : Word), 0xFFFFFFFF]), (0x20, [0xFFFFFFFF]), (0x21, [0xFFFFFFFF]), (0x22, [0xFFFFFFFF])]) :
    given p.1 p.2 (fun q => { q with p2 := 1 }) wNode ∧ maskRefusal (wPo p.1 (pk fun q => { q with p2 := 1 }) wNode) 1 false = none ∧
      canPause (wPo p.1 (pk fun q => { q with p2 := 1 }) wNode) 0 = true := by
  simp at h
  rcases h with rfl | rfl | rfl | rfl <;> exact ⟨good_of rfl (by decide +kernel), by decide +kernel, by decide +kernel⟩
theorem witness_PorchSetsTheDie_refused :
    given 0x20 [0xFFFFFFFF] (fun q => { q with p2 := 2 }) wOffline ∧
      maskRefusal (wPo 0x20 (pk fun q => { q with p2 := 2 }) wOffline) 2 false = some (.reply 0xFE 0xFF05 0 0 0) ∧
      maskRefusal (State.resetOf .vke24m) 0x1000000 true = some (.reply 0x30 0 0 0 0) := ⟨good_of rfl (by decide +kernel), by decide +kernel, by decide +kernel⟩
/-- A payload that can be read, and one where no memory is. -/
def loads (n : BitVec 16) (a p2 : Word) : Packet := pk fun p => { p with length := n, paddr := a, p2 := p2 }
theorem witness_PorchSetsTheDie_key :
    let s := wPo 0x30 (loads 1 0x40000 1) wNode
    PorchGood 0x30 (loads 1 0x40000 1) ((loads 1 0x40000 1).length = 1) [1] s ∧
      payload (loads 1 0x40000 1) s = .ok (some (List.replicate 64 0)) (leaves (payload (loads 1 0x40000 1) s)) :=
  ⟨good_of rfl (by decide +kernel), ok_of (by decide +kernel)⟩
theorem witness_PorchSetsTheDie_noKey :
    let s := wPo 0x30 (loads 1 0x20000000000 0) wNode
    PorchGood 0x30 (loads 1 0x20000000000 0) ((loads 1 0x20000000000 0).length = 1) [1] s ∧
      payload (loads 1 0x20000000000 0) s = .ok none (leaves (payload (loads 1 0x20000000000 0) s)) :=
  ⟨good_of rfl (by decide +kernel), ok_of (by decide +kernel)⟩
/-- The telemetry's parameters at the ends of their ranges, and off. -/
def telem (base log interval : Word) : Packet → Packet := fun p => { p with p2 := base, p3 := log, p4 := interval }
theorem witness_PorchSetsTheDie_telemetry (f : Packet → Packet) (h : f ∈ [telem 0x200 4 100, telem 0x200 16 60000000, telem 0 4 0, telem 0 3 0, telem 0x200 17 100, telem 0x200 4 99, telem 0x100 4 100]) :
    given 0x80 [0xFFFFFFFFFFFFF, 0x1F, 0xFFFFFFFF] f wNode := by
  simp at h
  rcases h with rfl | rfl | rfl | rfl | rfl | rfl | rfl <;> exact good_of rfl (by decide +kernel)
theorem witness_PorchSetsTheDie_thermal (n : Word) (h : n ∈ [(0x7369 : Word), 0x413C, 0x413B, 0x746E]) : given 0x90 [0xFFFF] (fun p => { p with p2 := n }) wNode := by
  simp at h
  rcases h with rfl | rfl | rfl | rfl <;> exact good_of rfl (by decide +kernel)
def wTelem (base : Word) : State := { wNode with telem := { wNode.telem with running := true, base := base, log2 := 4 } }
theorem witness_PorchSetsTheDie_samples :
    wNode.telem.running = false ∧ (wTelem 0x200000000000).telem.running = true ∧ wNode.inReset = false ∧ wNode.coff.dieStop = false ∧
      (wTelem 0x200).telem.inFlight = [] ∧ place (wTelem 0x20000000000).telem.base.toNat = .nothing ∧ (wTelem 0x20000000000).telem.base.toNat % 64 = 0 ∧
      (wTelem 0x20000000000).telem.count % 2 ^ (wTelem 0x20000000000).telem.log2.toNat = 0 ∧ (wTelem 0x200).telem.base.toNat % 64 = 0 := by decide +kernel
theorem witness_PorchSetsTheDie_sampleLines (j : Nat) (h : j < 8) :
    QuietLine ((wTelem 0x200).telem.base.toNat + (wTelem 0x200).telem.count % 2 ^ (wTelem 0x200).telem.log2.toNat * 512 + 64 * j) (wTelem 0x200) := by
  have e : (wTelem 0x200).telem.base.toNat + (wTelem 0x200).telem.count % 2 ^ (wTelem 0x200).telem.log2.toNat * 512 = 0x200 := by decide +kernel
  rw [e]
  exact quiet_of ⟨rfl, rfl, rfl, rfl, rfl, rfl, rfl⟩ (by omega)
theorem witness_PorchSetsTheDie_consumed : wNode.coff.events = [] ∧ wNode.porch.waiting = [] := by decide
/-- The mover's line. -/
theorem witness_PumphouseEventsAndMover_line (toMemory : Bool) :
    let p := { kPh with mvCtl := if toMemory then 0x50040 else 0x40040, mvAddr := 0x1000, mvSram := 0xA000 }
    let s := wPh p
    bit p.mvCtl 18 = true ∧ s.inReset = false ∧ (fld p.mvCtl 0 13).toNat = 64 ∧ 0x1000 / 64 = (0x1000 + 64 - 1) / 64 ∧ QuietLine p.mvAddr.toNat s ∧
      supplied .pump (0x1000 / 64) s = none ∧ bit p.mvCtl 16 = toMemory ∧ ∀ i < 64, p.badSram.contains (0xA000 + i) = false := by
  cases toMemory <;> exact ⟨by decide, by decide, by decide, by decide, quiet_of ⟨rfl, rfl, rfl, rfl, rfl, rfl, rfl⟩ (by decide), by decide +kernel, by decide, fun _ _ => rfl⟩

/-- The sluice enabled, with no queue pair. -/
def wOn : State := { wNode with sluice := { Sluice.reset with enabled := true } }
theorem witness_PorchSluiceObjects_config :
    given 0x40 [0xFFFFFFFF, 0xFFFFFFFF00001] id wNode ∧ (wPo 0x40 (pk id) wNode).sluice.qps = [] ∧
      given 0x40 [0xFFFFFFFF, 0xFFFFFFFF00001] id (wSluice pair []) ∧ (wPo 0x40 (pk id) (wSluice pair [])).sluice.qps ≠ [] ∧
      wNode.coff.sluiceFenced = false := ⟨good_of rfl (by decide +kernel), rfl, good_of rfl (by decide +kernel), by decide +kernel, rfl⟩
def regionPk (len flags plist : Word) : Packet → Packet := fun p => { p with p2 := 1, p3 := 0x10000, p4 := len, p5 := flags, p6 := plist }
def regionMs : List Word := [0x3FFFF, BitVec.allOnes 64, BitVec.allOnes 64, 0x3FF, BitVec.allOnes 64]
/-- LEN at its bounds; a page size, a STASH and a list that are not good. -/
theorem witness_PorchSluiceObjects_register (f : Packet → Packet)
    (h : f ∈ [regionPk (2 ^ 40) 0 0, regionPk (2 ^ 40 + 1) 0 0, regionPk 0 0 0, regionPk 64 0x60 0, regionPk 64 0x280 0, regionPk 64 0x21F 4]) :
    given 0x41 regionMs f wOn ∧ (wPo 0x41 (pk f) wOn).sluice.enabled = true ∧ ((wPo 0x41 (pk f) wOn).region 1).state = .free := by
  simp at h
  rcases h with rfl | rfl | rfl | rfl | rfl | rfl <;> exact ⟨good_of rfl (by decide +kernel), by decide +kernel, by decide +kernel⟩
theorem witness_PorchSluiceObjects_registered :
    given 0x41 regionMs (regionPk 64 0x21F 8) wNode ∧ wNode.sluice.enabled = false ∧ given 0x41 regionMs (regionPk 64 0x21F 8) (wSluice pair []) ∧
      ((wPo 0x41 (pk (regionPk 64 0x21F 8)) (wSluice pair [])).region 1).state = .valid :=
  ⟨good_of rfl (by decide +kernel), rfl, good_of rfl (by decide +kernel), by decide +kernel⟩
theorem witness_PorchSluiceObjects_revoke :
    given 0x42 [0x3FFFF] (fun p => { p with p2 := 1 }) (wSluice pair []) ∧ (wPo 0x42 (pk fun p => { p with p2 := 1 }) (wSluice pair [])).porch.accepted.length < 16 ∧
      ((wSluice pair []).region 1).state = .valid ∧ ((wSluice pair []).region 1).open_ = [] := ⟨good_of rfl (by decide +kernel), by decide +kernel, by decide +kernel, by decide +kernel⟩
/-- QP_CREATE with rings in region 1, and with none. -/
def ringCells : List Host.Cell :=
  [(0x40002, 1), (0x40009, 0x10), (0x4000A, 1), (0x40011, 0x20), (0x40012, 1), (0x40018, 1), (0x4001C, 1), (0x40020, 1), (0x40024, 4), (0x40025, 4), (0x40026, 6)]
def createAt (q : Word) (cells : List Host.Cell) (on : Bool) : State :=
  let s := wSluice pair cells
  wPo 0x43 (loads 1 0x40000 q) { s with sluice := { s.sluice with enabled := on } }
theorem witness_PorchSluiceObjects_create (x : Word × List Host.Cell × Bool) (h : x ∈ [((5 : Word), ringCells, true), (5, [], true), (4, [], true), (5, [], false)]) :
    let s := createAt x.1 x.2.1 x.2.2
    let p := loads 1 0x40000 x.1
    let r := payload p s
    let bs := ((answers r).getD none).getD []
    let y := newQp p.polder (fld p.p2 20 10) (wordAt bs)
    PorchGood 0x43 p (p.length = 1) [0x3FFFFFFF] s ∧ r = .ok (some bs) (leaves r) ∧ y.pin = false ∧ (leaves r).sluice.enabled = x.2.2 ∧
      (((leaves r).qp x.1.toNat).isSome = true ↔ x.1 = 4) ∧ (ringsOk (leaves r) y = true ↔ x.2.1 = ringCells) := by
  simp at h
  rcases h with rfl | rfl | rfl | rfl <;>
    exact ⟨good_of rfl (by decide +kernel), ok_of (by decide +kernel), by decide +kernel, by decide +kernel, by decide +kernel, by decide +kernel⟩
/-- QP_MODIFY of queue pair 4 from a state to each next one; to a state it may not reach, and to none there is. -/
def modifyPk (q new : Word) : Packet → Packet := fun p =>
  { p with p2 := q + new * 0x100000, p6 := if new = 2 then 0x10400 else 0, p7 := if new = 2 then 1 else 0 }
def wPairs (st : BitVec 3) : State :=
  let s := wSluice { pair with state := st } []
  { s with sluice := { s.sluice with regions := [] } }
theorem witness_PorchSluiceObjects_modify (x : BitVec 3 × Word)
    (h : x ∈ [((0 : BitVec 3), (1 : Word)), (1, 2), (2, 3), (4, 0), (0, 2), (3, 1), (0, 5), (0, 7)]) :
    let p := pk (modifyPk 4 x.2)
    let s := wPo 0x44 p (wPairs x.1)
    PorchGood 0x44 p (p.length = 0) (modifyMasks p) s ∧ s.sluice.regions = [] ∧ s.qp (p.p2.toNat % 2 ^ 20) = some { pair with state := x.1 } ∧
      BitVec.ofNat 64 (p.p2.toNat / 2 ^ 20 % 8) = x.2 ∧ (x.2 ≠ 2 ∨ (transportOk p = true ∧ bit p.p7 12 = false)) := by
  simp at h
  rcases h with rfl | rfl | rfl | rfl | rfl | rfl | rfl | rfl <;>
    exact ⟨good_of rfl (by decide +kernel), by decide +kernel, by decide +kernel, by decide +kernel, by decide +kernel⟩
theorem witness_PorchSluiceObjects_reset : ∀ e ∈ (wPairs 4).sluice.qps, ∀ z h, e.2 = some z → z.held = some h → h.1 ≠ 4 := by
  intro e he z h hz hh
  simp only [wPairs, wSluice, List.mem_cons, List.not_mem_nil, or_false] at he
  obtain rfl | rfl := he <;> · cases hz; cases hh
theorem witness_PorchSluiceObjects_unknown :
    given 0x44 [0x7FFFFF] (modifyPk 5 1) (wPairs 0) ∧ (wPo 0x44 (pk (modifyPk 5 1)) (wPairs 0)).qp 5 = none ∧
      given 0x45 [0xFFFFF] (fun p => { p with p2 := 5 }) (wPairs 0) ∧ given 0x45 [0xFFFFF] (fun p => { p with p2 := 4 }) (wPairs 0) ∧
      given 0x45 [0xFFFFF] (fun p => { p with p2 := 4 }) (wPairs 3) :=
  ⟨good_of rfl (by decide +kernel), by decide +kernel, good_of rfl (by decide +kernel), good_of rfl (by decide +kernel), good_of rfl (by decide +kernel)⟩
theorem witness_PorchSluiceObjects_quota (n : Word) (h : n ∈ [(512 : Word), 513]) :
    given 0x47 [0x3FF] (fun p => { p with p2 := n }) wOn ∧ given 0x47 [0x3FF] (fun p => { p with p2 := n }) wNode := by
  simp at h
  rcases h with rfl | rfl <;> exact ⟨good_of rfl (by decide +kernel), good_of rfl (by decide +kernel)⟩

/-- SHARD_DEFINE's payload: a descriptor of polder 5 with local slots at 0x800000 and 0x900000 and, where it stands, one region of n
granules at 1 MiB. -/
def defCells (n : Nat) : List Host.Cell :=
  [(0x40000, 0x34), (0x40001, 0x12), (0x40004, 5), (0x40005, 0x10), (0x40006, 1), (0x40008, 3), (0x4000C, 3), (0x40012, 0x80), (0x4001A, 0x90),
    (0x40042, 0x10)] ++ (if n = 0 then [] else [(0x40048, BitVec.ofNat 8 n)])
def wDef (x : Shard) (cells : List Host.Cell) : State :=
  let s := wLevee x
  { s with mem := { s.mem with bytes := cells } }
/-- The payload as read, and what its check says. -/
def defOk (len : BitVec 16) (x : Shard) (cells : List Host.Cell) (range bad : Bool) : Prop :=
  let p := loads len 0x40000 2
  let s := wPo 0x50 p (wDef x cells)
  let r := payload p s
  let bs := ((answers r).getD none).getD []
  let t := leaves r
  let y : Shard := { t.shard (shardOf p) with desc := maskDesc bs }
  let m := putRegions t.levee.regions y.first y.nreg (bs.drop 64)
  PorchGood 0x50 p (2 ≤ p.length.toNat ∧ p.length.toNat ≤ 65) [0xF] s ∧ s.coff.leveeFenced = false ∧ r = .ok (some bs) t ∧
    (p.length.toNat = 1 + (y.nreg + 3) / 4 ↔ len = 2) ∧
    (t.shard (shardOf p)).state = x.state ∧ shardRange y m = range ∧ shardBad t (shardOf p) y m = bad
theorem witness_PorchLeveeAndRecovery_define :
    defOk 2 (shard .idle 0 id) (defCells 2) false false ∧ defOk 3 (shard .disabled 0 id) (defCells 2) false false ∧
      defOk 2 (shard .copying 0 id) (defCells 2) false false ∧ defOk 2 (shard .disabled 0 id) (defCells 0) true false ∧
      defOk 2 (shard .idle 0 id) (defCells 60) false true :=
  ⟨⟨good_of (by decide) (by decide +kernel), by decide +kernel, ok_of (by decide +kernel), by decide +kernel, by decide +kernel, by decide +kernel, by decide +kernel⟩,
   ⟨good_of (by decide) (by decide +kernel), by decide +kernel, ok_of (by decide +kernel), by decide +kernel, by decide +kernel, by decide +kernel, by decide +kernel⟩,
   ⟨good_of (by decide) (by decide +kernel), by decide +kernel, ok_of (by decide +kernel), by decide +kernel, by decide +kernel, by decide +kernel, by decide +kernel⟩,
   ⟨good_of (by decide) (by decide +kernel), by decide +kernel, ok_of (by decide +kernel), by decide +kernel, by decide +kernel, by decide +kernel, by decide +kernel⟩,
   ⟨good_of (by decide) (by decide +kernel), by decide +kernel, ok_of (by decide +kernel), by decide +kernel, by decide +kernel, by decide +kernel, by decide +kernel⟩⟩
theorem witness_PorchLeveeAndRecovery_noPayload :
    let p := loads 65 0x20000000000 2
    let s := wPo 0x50 p wIdle
    PorchGood 0x50 p (2 ≤ p.length.toNat ∧ p.length.toNat ≤ 65) [0xF] s ∧ payload p s = .ok none (leaves (payload p s)) :=
  ⟨good_of (by decide) (by decide +kernel), ok_of (by decide +kernel)⟩

/-- A command about shard 2, with the shard in each state; and with 16 commands in the background. -/
def onShard (op : BitVec 8) (ms : List Word) (n : Word) (st : ShardState) (full : Bool) : Prop :=
  let s0 := wLevee (shard st 0 id)
  let s := { s0 with porch := { s0.porch with accepted := if full then List.replicate 16 ⟨1, 0x42, false, 3, 0, 0⟩ else [] } }
  given op ms (fun p => { p with p2 := n }) s ∧ s.coff.leveeFenced = false ∧ (s.shard (shardOf (pk fun p => { p with p2 := n }))).state = st
theorem witness_PorchLeveeAndRecovery_shards (st : ShardState) (h : st ∈ [ShardState.disabled, .idle, .copying, .restoring]) :
    onShard 0x51 [0xF] 2 st false ∧ onShard 0x52 [0xF] 2 st false ∧ onShard 0x53 [0x3F, BitVec.allOnes 64] 0x22 st false ∧
      onShard 0x53 [0x3F, BitVec.allOnes 64] 2 st true ∧ onShard 0x54 [0xF] 2 st false := by
  simp at h
  rcases h with rfl | rfl | rfl | rfl <;>
    exact ⟨⟨good_of rfl (by decide +kernel), rfl, by decide +kernel⟩, ⟨good_of rfl (by decide +kernel), rfl, by decide +kernel⟩,
      ⟨good_of rfl (by decide +kernel), rfl, by decide +kernel⟩, ⟨good_of rfl (by decide +kernel), rfl, by decide +kernel⟩,
      ⟨good_of rfl (by decide +kernel), rfl, by decide +kernel⟩⟩
theorem witness_PorchLeveeAndRecovery_abort : (shard .copying 0 id).busy = true ∧ (wLevee (shard .copying 0 id)).th.queued = [] := by decide

def wLpt (l : Table (Option LostPage)) : State := { wNode with coff := { wNode.coff with lpt := l } }
theorem witness_PorchLeveeAndRecovery_page :
    let y : LostPage := ⟨0x123, 5, false⟩
    let page : Packet → Packet := fun p => { p with p2 := 0x123000 }
    given 0x62 [0xFFFFFFFFFF000] page (wLpt []) ∧ (∀ e ∈ (wLpt []).coff.lpt, ∀ y, e.2 = some y → y.page ≠ 0x123) ∧
      given 0x62 [0xFFFFFFFFFF000] page (wLpt [(0, some y)]) ∧ (wLpt [(0, some y)]).coff.lpt = [(0, some y)] ∧ y.page = fld (0x123000 : Word) 12 40 ∧
      (wLpt [(0, some y)]).unsaved (y.page.toNat * 4096) = false ∧ (wLpt [(0, some y)]).porch.mirror = 0 ∧
      (∀ n, n / 64 = y.page.toNat → dirOf (wLpt [(0, some y)]) n = DirEntry.none ∧ ∀ t ∈ (wLpt [(0, some y)]).th.txns, t.line ≠ n) :=
  ⟨good_of rfl (by decide +kernel), by decide, good_of rfl (by decide +kernel), rfl, by decide, by decide +kernel, rfl,
    fun _ _ => ⟨rfl, fun t ht => by cases ht⟩⟩
theorem witness_PorchLeveeAndRecovery_fence (n : Word) (h : n ∈ [(0 : Word), 1]) :
    given 0x63 [0x1F] (fun p => { p with p2 := n }) wOffline ∧ (maskRefusal (wPo 0x63 (pk fun p => { p with p2 := n }) wOffline) (flag true n.toNat) false = none ↔ n = 0) := by
  simp at h
  rcases h with rfl | rfl <;> exact ⟨good_of rfl (by decide +kernel), by decide +kernel⟩
def wBusy (l : List Background) : State := { wNode with porch := { wNode.porch with accepted := l } }
theorem witness_PorchLeveeAndRecovery_fenceFull :
    let s := wBusy (List.replicate 16 ⟨1, 0x42, false, 3, 0, 0⟩)
    given 0x63 [0x1F] id s ∧ maskRefusal (wPo 0x63 (pk id) s) 1 false = none ∧ ¬ s.porch.accepted.length < 16 :=
  ⟨good_of rfl (by decide +kernel), by decide +kernel, by decide⟩
/-- The SVN floor 2 and an image of SVN 4. -/
def wSvn (l : List Background) : State := { wBusy l with pump := { wNode.pump with svnFloor := 2, fwid := 0x02040000 } }
theorem witness_PorchLeveeAndRecovery_svn (n : Word) (h : n ∈ [(2 : Word), 3, 4, 5]) :
    let s := wPo 0x71 (pk fun p => { p with p2 := n }) (wSvn [])
    given 0x71 [0xFF] (fun p => { p with p2 := n }) (wSvn []) ∧ s.background 0x71 0 = none ∧ s.porch.accepted.length < 16 ∧
      ((n.toNat ≤ s.pump.svnFloor.toNat ∨ (fld s.pump.fwid 16 8 : BitVec 8).toNat < n.toNat) ↔ (n = 2 ∨ n = 5)) := by
  simp at h
  rcases h with rfl | rfl | rfl | rfl <;> exact ⟨good_of rfl (by decide +kernel), by decide +kernel, by decide, by decide +kernel⟩
theorem witness_PorchLeveeAndRecovery_svnDone :
    let b : Background := ⟨7, 0x71, false, 0, 3, 0⟩
    given 0x71 [0xFF] (fun p => { p with p2 := 3 }) (wSvn [b]) ∧ ((wSvn [b]).background 0x71 0) = some b ∧ (wSvn [b]).coff.dieStop = false :=
  ⟨good_of rfl (by decide +kernel), by decide +kernel, rfl⟩
/-- FW_RELOAD and DIE_RESET: a core that cannot pause yet; a die where all is still; a die that stopped while the command waited. -/
theorem witness_PorchLeveeAndRecovery_resets (op : BitVec 8) (h : op ∈ [(0x72 : BitVec 8), 0xF1]) :
    let held : State := { on k0 with th := { wNode.th with reqs := [⟨.core 0, 1, 0, 0x10, 0, ThMsg.zero, 0, 0, none, none⟩] } }
    let waits : State := { wNode with porch := { wNode.porch with direct := some ⟨7, op, false, 0, 0, 0⟩ }, coff := { wNode.coff with dieStop := true } }
    given op [] id wNode ∧ given op [] id held ∧ (held.present 0 = true ∧ held.offline 0 = false ∧ (held.core 0).held = false ∧ canPause held 0 = false) ∧
      (∀ c : CoreId, (wNode.core c).l2 = [] ∧ canPause wNode c = true ∧ tolDoor (wNode.core c).tol ≠ 3 ∧ (wNode.core c).pausing = false) ∧ (∀ w : Fin 4, wNode.wings[w.val].cache = []) ∧
      wNode.th.reqs = [] ∧ wNode.th.queued = [] ∧ wNode.th.txns = [] ∧ (∀ n : Fin 8, wNode.doors[n.val].up = false) ∧ wNode.porch.mirror = 0 ∧
      wNode.porch.hostIrq = 0 ∧ (∃ b, waits.porch.direct = some b ∧ b.opcode = op ∧ b.tag = (pk id).tag) ∧ waits.coff.dieStop = true := by
  simp at h
  rcases h with rfl | rfl <;>
    exact ⟨good_of rfl (by decide +kernel), good_of rfl (by decide +kernel), by decide +kernel, by decide +kernel, by decide +kernel, rfl, rfl, rfl, by decide +kernel,
      rfl, rfl, ⟨_, rfl, rfl, rfl⟩, rfl⟩

/-! ## Witnesses: power, the sideband, resets -/

/-- The averages about the limit of 300 W and about 95 % of it; the steps' waits. -/
theorem witness_PowerThermalAndSideband_power :
    let p := wNode.power
    let q : Power := { p with raiseWait := 2, pwStep := 3, lowerWait := 1 }
    controls wNode = true ∧ controls State.reset = false ∧ p.raiseWait ≤ 1 ∧ 1 < q.raiseWait ∧ Nat.min p.limit.toNat 300 * 1000 = 300000 ∧ 300000 < (300001 : BitVec 32).toNat ∧
      (300000 : BitVec 32).toNat ≤ 300000 ∧ (284999 : BitVec 32).toNat * 100 < 95 * 300000 ∧ 95 * 300000 ≤ (285000 : BitVec 32).toNat * 100 ∧
      q.pwStep ≠ 0 ∧ q.lowerWait ≤ 1 ∧ p.pwStep = 0 := by decide
/-- 96 sensors of which the hottest reads h eighths of a degree: about the limits 95 and 105, and 3 degrees below. -/
theorem witness_PowerThermalAndSideband_thermal (h : Nat) (hh : h ∈ [735, 736, 759, 760, 839, 840]) :
    let temps := BitVec.ofNat 16 h :: List.replicate 95 (200 : BitVec 16)
    temps.length = 96 ∧ (∀ x ∈ temps, x.toInt ≤ h) ∧ (∃ x ∈ temps, x.toInt = h) ∧ 8 * wNode.power.tThrottle.toNat = 760 ∧ 8 * wNode.power.tCritical.toNat = 840 := by
  simp at hh
  have all (a : Nat) (ha : (BitVec.ofNat 16 a).toInt = a) (hl : 200 ≤ a) :
      ∀ x ∈ BitVec.ofNat 16 a :: List.replicate 95 (200 : BitVec 16), x.toInt ≤ a := by
    intro x hx
    rcases List.mem_cons.mp hx with rfl | hx
    · omega
    · rw [List.eq_of_mem_replicate hx]; have : (200 : BitVec 16).toInt = 200 := by decide
      omega
  rcases hh with rfl | rfl | rfl | rfl | rfl | rfl <;>
    exact ⟨by simp, all _ (by decide) (by decide), ⟨_, List.mem_cons_self, by decide⟩, by decide +kernel, by decide +kernel⟩
theorem witness_PowerThermalAndSideband_critical :
    let s := { wNode with power := { wNode.power with critical := true, sensors := wNode.power.sensors.set 95 840 } }
    (∃ x ∈ s.power.sensors.toList, ((8 * s.power.tCritical.toNat : Nat) : Int) ≤ x.toInt) ∧ s.power.critical = true ∧ s.coff.dieStop = false ∧
      wNode.power.critical = false := ⟨⟨840, by decide +kernel, by decide⟩, rfl, rfl, rfl⟩
/-- An input with n transitions in the last 10 ms. -/
def wPin (i : Nat) (n : Nat) (f : Pin → Pin) : State :=
  { wNode with side := { wNode.side with pins := wNode.side.pins.setIfInBounds i (f ⟨false, false, false, List.replicate n 0⟩) } }
theorem witness_PowerThermalAndSideband_moves :
    ((wPin 0 999 id).pin 0).filt ≠ true ∧ ((wPin 0 999 id).pin 0).masked = false ∧
      ((wPin 0 999 id).ltime :: ((wPin 0 999 id).pin 0).trans.filter fun t => (wPin 0 999 id).ltime - t ≤ 1000000).length ≤ 1000 ∧
      1000 < ((wPin 1 1000 id).ltime :: ((wPin 1 1000 id).pin 1).trans.filter fun t => (wPin 1 1000 id).ltime - t ≤ 1000000).length ∧
      ((wPin 2 3 fun p => { p with masked := true }).pin 2).masked = true ∧ ((wPin 0 3 fun p => { p with filt := true }).pin 0).filt = true ∧
      ((wPin 1 3 fun p => { p with filt := true }).pin 1).filt = true ∧ (wPin 2 0 id).inReset = false ∧ ((wPin 2 0 id).pin 2).filt = false ∧
      ((wPin 2 998 id).ltime :: ((wPin 2 998 id).pin 2).trans.filter fun t => (wPin 2 998 id).ltime - t ≤ 1000000).length ≤ 999 := by decide +kernel
theorem witness_PowerThermalAndSideband_wake :
    let s0 := wPin 1 999 id
    let s := { s0 with power := { s0.power with inQuiet := true }, porch := { s0.porch with ready := true } }
    (s.pin 1).filt = false ∧ (s.pin 1).masked = false ∧ (s.pin 1).stuck = false ∧ s.power.inQuiet = true ∧ s.porch.ready = true ∧ s.porch.down = false ∧
      s.inReset = false ∧ (s.ltime :: (s.pin 1).trans.filter fun t => s.ltime - t ≤ 1000000).length ≤ 1000 := by decide +kernel

theorem witness_LossesGatingAndQuiet :
    wNode.inReset = false ∧ wNode.coff.dieStop = false ∧ (3 : Fin 4).val < nStacks wNode.variant ∧ nStacks (State.resetOf .vke24m).variant ≤ (3 : Fin 4).val ∧
      ({ wNode with inReset := true } : State).inReset = true ∧ (dieStop wNode).coff.dieStop = true ∧ (dieStop wNode).inReset = false ∧
      ({ wNode with porch := { wNode.porch with down := true } } : State).porch.down = true ∧ wNode.power.inQuiet = false ∧ wNode.porch.down = false ∧
      wNode.present 0 = true ∧ hasLvu wNode.variant = true ∧ wNode.power.hbmWindow = false ∧
      { wNode.power with hbmWindow := true }.hbmWindow = true := by decide +kernel
theorem witness_LossesGatingAndQuiet_noUnit : ∃ v, hasLvu (State.resetOf v).variant = false ∧ (State.resetOf v).present 0 = true := by
  refine ⟨?_, ?_⟩
  · exact .vke32a
  · decide +kernel
theorem witness_LossesGatingAndQuiet_flight : (w0.core 0).flight = [] ∧ ((on (kT [fly false 0x1040044 false])).core 0).flight ≠ [] :=
  ⟨rfl, fun h => by cases h⟩
/-- Everything at rest and a tolerance of 300 µs; one condition missing. -/
def wRest (ready : Bool) : State :=
  { wNode with
    porch := { wNode.porch with ready := ready }
    power := { wNode.power with quiet := 300 }
    cores := wNode.cores.map fun k => { k with paused := true } }
theorem witness_LossesGatingAndQuiet_rest : mayRest (wRest true) = true ∧ mayRest (wRest false) = false := by decide +kernel
/-- In die-quiet, with a command in the ring; with no wake source. -/
def wQuiet (pi : BitVec 32) : State :=
  { wNode with power := { wNode.power with inQuiet := true }, porch := { wNode.porch with cmdPi := pi } }
theorem witness_LossesGatingAndQuiet_wake :
    ((wQuiet 1).power.inQuiet = true ∧ (wQuiet 1).porch.down = false ∧ (wQuiet 1).inReset = false ∧ wakeSource (wQuiet 1) = true) ∧
      wakeSource (wQuiet 0) = false := by decide +kernel

/-- An image of one word, VERSION 1 and SVN 1, signed with a test key, and the hash of that key. -/
def image : List Byte := toLe 228
  0xCD2B8B21CDEBE76A3A42B25FEB86F8572423FD2835ABC8FE0DD0814AA466C95817BBA1C498CC9842D6A30DC7612D9E952F64C7F7C5C0A6F96FCDE65E24F04E29A05DD5A65370B78358A9E159CEF0D4C061EBB59759794358A3C0541E05A048CB0000001300000000000000000000000000000045E2B8319D215C7FA7C38D914CE7C489B40204FC8C4D16586DA5F744C5AE76EC28B00C739C5E67A475D11A9AFF8E0517485B624BF421BAEFFD6ADF5A3197C00EB4CF5F359491DE74BE97EAF9C552FDEB9530F0FEEA03A9F1B9E558544652D1BF0400000000000000040001000146574850
def imageKey : BitVec 384 := 0x7541784C689D67907E5A55B1EA4B77D399BE600ADBB94E4BFD24B414D164A341C7BF95919E228B5D2537F4E30E2E6BD7
/-- A sound start; the reset command's value; an image that is accepted, and one that is not. -/
def hostInit : PeerInit := ⟨1, 4, 0, 0, 0x0010000800100008⟩
def sound (img : List Byte) : StartUp :=
  { pllOk := true, fusesOk := true, badCores := [], badHome := false, badLanes := [], stacksOk := 15, doors := List.replicate 8 ⟨true, 2, true, false⟩
    peers := some hostInit :: List.replicate 7 none, badWays := [], badSluice := false, badLevee := false
    image := some img, badLvu := [] }
theorem witness_ResetsStartTheDie (img : List Byte) :
    let su := sound img
    (su.pllOk = true ∧ su.fusesOk = true ∧ su.badHome = false ∧ su.badCores = [] ∧ su.badLanes = []) ∧
      (su.badLvu = [] ∧ su.stacksOk = 0xF ∧ su.badWays = [] ∧ su.badSluice = false ∧ su.badLevee = false) ∧
      ((∀ n : Fin 8, (su.doors.getD n.val ⟨false, 0, false, false⟩).ok = true) ∧ su.peers = some ⟨1, 4, 0, 0, 0x0010000800100008⟩ :: List.replicate 7 none ∧
        badPeer ⟨1, 4, 0, 0, 0x0010000800100008⟩ = false ∧ su.image = some img) :=
  ⟨⟨rfl, rfl, rfl, rfl, rfl⟩, ⟨rfl, rfl, rfl, rfl, rfl⟩,
    (by decide : ∀ n : Fin 8, ((List.replicate 8 (⟨true, 2, true, false⟩ : DoorTrain)).getD n.val ⟨false, 0, false, false⟩).ok = true), rfl, by decide, rfl⟩
/-- The reset command's value and another; a die that has halted, or is down. -/
theorem witness_ResetsStartTheDie_warm :
    wNode.inReset = false ∧ (0x15752 : Word).toNat % 2 ^ 16 = 0x5752 ∧ (0x5753 : Word).toNat % 2 ^ 16 ≠ 0x5752 ∧ writerShut .host wNode = false ∧
      wNode.porch.down = false ∧ wNode.power.haltStep ≠ 3 ∧ wNode.power.haltStep ≠ 4 ∧ { wNode.power with haltStep := 4 }.haltStep = 4 ∧
      writerShut .hatch { wNode with power := { wNode.power with haltStep := 4 } } = false := by decide
theorem witness_ResetsStartTheDie_accepted : imageServed image = true ∧ imageReason imageKey 1 image = 0 := by decide +kernel
theorem witness_ResetsStartTheDie_refused :
    (imageServed (List.replicate 128 0) = true ∧ imageReason imageKey 1 (List.replicate 128 0) = 1) ∧ imageReason 0 1 image = 2 ∧
      imageReason imageKey 2 image = 3 ∧ imageReason imageKey 1 (image.take 200 ++ List.replicate 28 0) = 4 := by decide +kernel
theorem witness_ResetsStartTheDie_image :
    let s := { wNode with power := { wNode.power with rootLock := true }, pump := { wNode.pump with bootrom := true } }
    s.porch.ready = false ∧ s.porch.fwOnly = false ∧ s.inReset = false ∧ s.coff.dieStop = false ∧ s.side.faultLow = false ∧ s.power.rootLock = true ∧
      s.pump.bootrom = true ∧ (serving wNode).porch.ready = true := by decide

/-! ## Witnesses: doorways and messages -/

def wDoor (n : Nat) (f : Door → Door) : State := { wNode with doors := wNode.doors.setIfInBounds n (f Door.reset) }
/-- Up, with peer node 1 on doorway 2. -/
def upDoor : Door := { Door.reset with up := true, peer := some 1, credits := Vector.replicate 4 8 }
def wUp (f : Door → Door) : State := wDoor 2 fun _ => f upDoor
theorem witness_DoorwaysAndFlits_training :
    wNode.inReset = false ∧ wNode.doors[2].up = false ∧ bit wNode.doors[2].ctl 0 = true ∧ (wUp id).doors[2].up = true ∧ (wUp id).coff.dieStop = false ∧
      bit (0x1F : Word) 0 = true ∧ bit (0x1F : Word) 1 = true ∧
      writerShut .host (wUp id) = false ∧ (wUp id).coff.events = [] ∧ (wUp id).coff.sramErr = none ∧ bit (wUp id).porch.mirror 0 = false ∧ (wUp id).th.queued = [] := by decide
/-- Failed retrains within the last millisecond: one, two, and two long ago. -/
theorem witness_DoorwaysAndFlits_failed (l : List Word) :
    let s (l : List Word) := { wUp fun d => { d with failed := l } with ltime := 0x100000 }
    let recent (l : List Word) := ((s l).doors[2].failed.filter fun t => (s l).ltime - t < 100000).length
    recent [0xFFFFF] = 1 ∧ recent [0xFFFFF, 0xFFFFE] = 2 ∧ recent [1, 2] = 0 ∧ (writerShut .host (s l) = false) := by
  refine ⟨by decide, by decide, by decide, rfl⟩
theorem witness_DoorwaysAndFlits_rest :
    let d := (wUp id).doors[2]
    (d.up = true ∧ d.training = false ∧ bit d.ctl 4 = true ∧ d.tx = [] ∧ d.txRest = [] ∧ d.unacked = [] ∧ d.nakOut = false ∧ d.l1 = false) ∧
      d.peer = some 1 ∧ (1 : BitVec 3) ∉ (wUp id).th.quiesced ∧ (wUp id).porch.direct = none ∧ ((wUp fun d => { d with l1 := true }).doors[2]).l1 = true ∧
      (((wUp fun d => { d with training := true }).doors[2]).up = true ∧ ((wUp fun d => { d with training := true }).doors[2]).training = true) := by
  decide
/-- The peer's INIT on doorway 2, and the IO die's on doorway 0 of a die that has no node yet. -/
def unlinked (n : Nat) (node : Option (Fin 4)) : State :=
  let s := wDoor n fun d => { d with up := true }
  { s with th := { s.th with node := node } }
theorem witness_DoorwaysAndFlits_init :
    let s := unlinked 2 (some 0)
    let s0 := unlinked 0 none
    let s1 := unlinked 0 (some 1)
    let p (node assign : BitVec 8) : PeerInit := ⟨1, node, assign, 1, 0x0010000800100008⟩
    (s.doors[2].up = true ∧ s.doors[2].training = false ∧ s.doors[2].peer = none ∧ (2 : Nat) ≤ (2 : Fin 8).val ∧ (p 3 0xFF).node.toNat < 4) ∧
      (∃ o, s.th.node = some o ∧ o.val ≠ (p 3 0xFF).node.toNat) ∧ (s.nodeLost 3 = false ∧ badPeer (p 3 0xFF) = false) ∧
      (s0.doors[0].up = true ∧ s0.doors[0].training = false ∧ s0.doors[0].peer = none ∧ (0 : Fin 8).val < 2 ∧ s0.th.node = none ∧ s0.nodeLost 4 = false) ∧
      ((p 4 2).node = 4 ∧ (p 4 2).assign = BitVec.ofNat 8 (2 : Fin 4).val ∧ badPeer (p 4 2) = false) ∧
      (s1.doors[0].up = true ∧ s1.doors[0].peer = none ∧ s1.th.node = some 1 ∧ (p 4 2).assign ≠ 0xFF ∧ (p 4 2).assign.toNat ≠ (1 : Fin 4).val) := by
  refine ⟨by decide, ⟨0, rfl, by decide⟩, ?_, ?_, ?_, ?_⟩ <;> decide
/-- Credits one short of what a peer must give. -/
theorem witness_DoorwaysAndFlits_short :
    (fld (0x0010000800100007 : Word) 0 16 : BitVec 16).toNat < 8 ∧ (fld (0x00100008000F0008 : Word) 16 16 : BitVec 16).toNat < 16 ∧
      (fld (0x0010000700100008 : Word) 32 16 : BitVec 16).toNat < 8 ∧ (fld (0x000F000800100008 : Word) 48 16 : BitVec 16).toNat < 16 ∧
      (unlinked 2 (some 0)).th.node.isSome = true := by decide
/-- A flit before its check value, and with it changed by e. -/
def flitBody (f : Nat) (lm : Bool) (first : Nat) (us : List (BitVec 32)) : BitVec 2048 :=
  BitVec.ofNat 2048 (f + (if lm then 2 ^ 21 else 0) + first * 2 ^ 48 + 2 ^ 64 * (us.foldr (fun u x => u.toNat + x * 2 ^ 32) 0))
def sealed (b : BitVec 2048) (e : BitVec 32) : BitVec 2048 := b ||| BitVec.ofNat 2048 ((flitCrc b + e).toNat * 2 ^ 2016)
theorem sealed_low (b : BitVec 2048) (e : BitVec 32) (i n : Nat) (h : i + n ≤ 2016) : (sealed b e).extractLsb' i n = b.extractLsb' i n := by
  apply BitVec.eq_of_getLsbD_eq
  intro j hj
  simp only [sealed, BitVec.getLsbD_extractLsb', BitVec.getLsbD_or, BitVec.getLsbD_ofNat, Nat.testBit_mul_two_pow]
  have : ¬ 2016 ≤ i + j := by omega
  simp [this]
theorem sealed_good (b : BitVec 2048) (e : BitVec 32) (h : b.extractLsb' 2016 32 = 0) : flitGood (sealed b e) = decide (e = 0) := by
  have hc : flitCrc (sealed b e) = flitCrc b := by
    unfold flitCrc
    congr 1
    apply List.map_congr_left
    intro i hi
    exact sealed_low b e _ _ (by have := List.mem_range.mp hi; omega)
  have he : (sealed b e).extractLsb' 2016 32 = flitCrc b + e := by
    apply BitVec.eq_of_getLsbD_eq
    intro j hj
    have hb := congrArg (·.getLsbD j) h
    simp only [BitVec.getLsbD_extractLsb', hj, decide_true, Bool.true_and] at hb
    simp only [sealed, BitVec.getLsbD_extractLsb', BitVec.getLsbD_or, BitVec.getLsbD_ofNat, Nat.testBit_mul_two_pow, hb, hj, decide_true, Bool.true_and]
    have h1 : 2016 + j < 2048 := by omega
    simp [h1, BitVec.getLsbD]
  unfold flitGood
  rw [hc, he]
  by_cases h0 : e = 0
  · simp [h0]
  · simp only [h0, decide_false, decide_eq_false_iff_not]
    intro hx
    exact h0 (by simpa using hx)
/-- The first unit of a message; no message's first unit. -/
def half : BitVec 32 := ((wireUnits ⟨0, 1, { ThMsg.zero with src := 1 }⟩).getD 0 0)
def late : List (BitVec 32) := List.replicate 60 0 ++ [half]
def bodyB (f : Nat) (lm : Bool) (first : Nat) (us : List (BitVec 32)) : Bool :=
  let b := flitBody f lm first us
  decide (b.extractLsb' 2016 32 = 0) && decide (flitHdr b = BitVec.ofNat 64 (f + (if lm then 2 ^ 21 else 0) + first * 2 ^ 48)) &&
    decide (flitUnits b = us ++ List.replicate (61 - us.length) 0)
theorem flit_is {f : Nat} {lm : Bool} {first : Nat} {us : List (BitVec 32)} (h : bodyB f lm first us = true) (e : BitVec 32) :
    flitGood (sealed (flitBody f lm first us) e) = decide (e = 0) ∧
      flitHdr (sealed (flitBody f lm first us) e) = BitVec.ofNat 64 (f + (if lm then 2 ^ 21 else 0) + first * 2 ^ 48) ∧
      flitUnits (sealed (flitBody f lm first us) e) = us ++ List.replicate (61 - us.length) 0 := by
  simp only [bodyB, Bool.and_eq_true, decide_eq_true_eq] at h
  obtain ⟨⟨h1, h2⟩, h3⟩ := h
  refine ⟨sealed_good _ _ h1, ?_, ?_⟩
  · rw [← h2]; exact sealed_low _ _ _ _ (by omega)
  · rw [← h3]
    unfold flitUnits
    apply List.map_congr_left
    intro i hi
    exact sealed_low _ _ _ _ (by have := List.mem_range.mp hi; omega)
/-- A flit whose check value is wrong, one of link management, an empty one, one out of order, and one
with the first unit of a message. -/
theorem witness_DoorwaysAndFlits_flit :
    (∃ b, flitGood b = false) ∧ (∃ b, flitGood b = true ∧ bit (flitHdr b) 21 = true) ∧
      (∃ b, flitGood b = true ∧ bit (flitHdr b) 21 = false ∧ (∀ u ∈ flitUnits b, u = 0) ∧
        fld (flitHdr b) 0 10 = (wUp fun d => { d with partial_ := [half] }).doors[2].rxSeq) ∧
      (∃ b, flitGood b = true ∧ bit (flitHdr b) 21 = false ∧ (∃ u ∈ flitUnits b, u ≠ 0) ∧ fld (flitHdr b) 0 10 ≠ (wUp id).doors[2].rxSeq + 1) ∧
      (∀ k ∈ [0, 7], ∃ b, flitGood b = true ∧ bit (flitHdr b) 21 = false ∧ (∃ u ∈ flitUnits b, u ≠ 0) ∧ fld (flitHdr b) 0 10 = (wUp id).doors[2].rxSeq + 1 ∧
        ∃ ws rest first, parseUnits (flitUnits b) 0 [] none [] = some (ws, rest, first) ∧ ((fld (flitHdr b) 48 6 : BitVec 6).toNat = first.getD 63 ↔ k = 0)) ∧
      (∃ b, flitGood b = true ∧ fld (flitHdr b) 0 10 = (wUp id).doors[2].rxSeq + 1 ∧ (∃ u ∈ flitUnits b, u ≠ 0) ∧ parseUnits (flitUnits b) 0 [] none [] = none) := by
  have z : bodyB 0 false 63 [] = true := by decide +kernel
  have m : bodyB 0 true 63 [] = true := by decide +kernel
  have o : bodyB 5 false 0 [half] = true := by decide +kernel
  have g0 : bodyB 1 false 60 late = true := by decide +kernel
  have g7 : bodyB 1 false 7 late = true := by decide +kernel
  have n : bodyB 1 false 0 [0xFF] = true := by decide +kernel
  refine ⟨⟨_, (flit_is z 1).1⟩, ⟨_, (flit_is m 0).1, ?_⟩, ⟨_, (flit_is z 0).1, ?_, ?_, ?_⟩, ⟨_, (flit_is o 0).1, ?_, ?_, ?_⟩, ?_, ⟨_, (flit_is n 0).1, ?_, ?_, ?_⟩⟩
  · rw [(flit_is m 0).2.1]; decide
  · rw [(flit_is z 0).2.1]; decide
  · rw [(flit_is z 0).2.2]; simp
  · rw [(flit_is z 0).2.1]; decide +kernel
  · rw [(flit_is o 0).2.1]; decide
  · rw [(flit_is o 0).2.2]; exact ⟨half, List.mem_cons_self, by decide +kernel⟩
  · rw [(flit_is o 0).2.1]; decide +kernel
  · intro k hk
    simp at hk
    rcases hk with rfl | rfl
    · refine ⟨_, (flit_is g0 0).1, ?_, ?_, ?_, ?_⟩
      · rw [(flit_is g0 0).2.1]; decide
      · rw [(flit_is g0 0).2.2]; exact ⟨half, by decide +kernel, by decide +kernel⟩
      · rw [(flit_is g0 0).2.1]; decide +kernel
      · rw [(flit_is g0 0).2.1, (flit_is g0 0).2.2]; exact ⟨[], [half], some 60, by decide +kernel, by decide +kernel⟩
    · refine ⟨_, (flit_is g7 0).1, ?_, ?_, ?_, ?_⟩
      · rw [(flit_is g7 0).2.1]; decide
      · rw [(flit_is g7 0).2.2]; exact ⟨half, by decide +kernel, by decide +kernel⟩
      · rw [(flit_is g7 0).2.1]; decide +kernel
      · rw [(flit_is g7 0).2.1, (flit_is g7 0).2.2]; exact ⟨[], [half], some 60, by decide +kernel, by decide +kernel⟩
  · rw [(flit_is n 0).2.1]; decide +kernel
  · rw [(flit_is n 0).2.2]; exact ⟨0xFF, List.mem_cons_self, by decide⟩
  · rw [(flit_is n 0).2.2]; decide +kernel

/-- A doorway has a message to send, is answered with NAK, or has nothing to do. -/
theorem witness_DoorwaysAndFlits_keepalive :
    mustSend (wUp fun d => { d with nakOut := true }).doors[2] = true ∧ mustSend (wUp fun d => { d with l1 := true }).doors[2] = false ∧
      (wUp id).doors[2].tx = [] ∧ (wUp id).doors[2].txRest = [] ∧ (wUp id).doors[2].up = true ∧ (wUp id).doors[2].training = false ∧
      (wNode.doors[2]).up = false ∧ ({ wNode with inReset := true } : State).inReset = true := by decide

/-- A request of node 1 at doorway 2, for a line of this die; for one of node 1's own; for a device register. -/
def msg (a : BitVec 52) (f : ThMsg → ThMsg) : ThMsg := f { ThMsg.zero with src := 1, tag := 3, addr := a, port := 4 }
def wPeer (coh : Bool) : State := wUp fun d => { d with coherent := coh }
def wLink : State := wPeer true
def linkedB (coh : Bool) (m : ThMsg) : Bool :=
  linked 2 (wPeer coh) && !stale (wPeer coh) 2 m && ((wPeer coh).gate 0x3A).open_ && (supplied (.door 2) (m.addr.toNat / 64) (wPeer coh)).isNone
theorem linked_peer {coh : Bool} {m : ThMsg} (h : linkedB coh m = true) : Linked 2 m (wPeer coh) := by
  simp only [linkedB, Bool.and_eq_true, Bool.not_eq_true', Option.isNone_iff_eq_none] at h
  exact { linked := h.1.1.1, current := h.1.1.2, gate := h.1.2, noAnswer := h.2, active := rfl, noInts := rfl, noQueue := rfl, noTxn := rfl
          noDirect := rfl, inbox := rfl, awake := rfl, clocked := rfl }
theorem linked_of {m : ThMsg} (h : linkedB true m = true) : Linked 2 m wLink := linked_peer h
/-- Node 1's INIT did not say that it takes part in coherence. -/
theorem witness_HomesAnswerRequests_incoherent :
    Linked 2 (msg 0x1000 id) (wPeer false) ∧ (wPeer false).ownMem (msg 0x1000 id).addr.toNat = true ∧ cohDie (wPeer false) (msg 0x1000 id) = none :=
  ⟨linked_peer (by decide +kernel), by decide +kernel, by decide +kernel⟩
/-- The doorway rests in L1. -/
theorem witness_HomesAnswerRequests_l1 : linked 2 (wUp fun d => { d with l1 := true }) = true ∧ ((wUp fun d => { d with l1 := true }).doors[2]).l1 = true := by
  decide +kernel
theorem witness_HomesAnswerRequests_lines (size : BitVec 3) (h : size ∈ [(2 : BitVec 3), 3]) :
    let m := msg 0x1000 fun m => { m with size := size, subop := 9 }
    Linked 2 m wLink ∧ cohDie wLink m = some 1 ∧ QuietLine m.addr.toNat wLink ∧ m.subop.toNat ≤ 9 ∧
      m.addr.toNat % 2 ^ m.size.toNat = 0 ∧ wLink.ownMem m.addr.toNat = true := by
  simp at h
  rcases h with rfl | rfl <;>
    exact ⟨linked_of (by decide +kernel), by decide +kernel, quiet_of ⟨rfl, rfl, rfl, rfl, rfl, rfl, rfl⟩ (by decide), by decide, by decide, by decide +kernel⟩
theorem witness_HomesAnswerRequests_flush (op : BitVec 4) (h : op ∈ [(0 : BitVec 4), 3, 4, 10]) :
    let m := msg 0x1000 fun m => { m with subop := op }
    Linked 2 m wLink ∧ wLink.isDirty (m.addr.toNat / 64) = false ∧ wLink.ownMem m.addr.toNat = true := by
  simp at h
  rcases h with rfl | rfl | rfl | rfl <;> exact ⟨linked_of (by decide +kernel), by decide +kernel, by decide +kernel⟩
theorem witness_HomesAnswerRequests_others : let m := msg 0x4000000000 id; Linked 2 m wLink ∧ wLink.ownMem m.addr.toNat = false :=
  ⟨linked_of (by decide +kernel), by decide +kernel⟩
/-- Device accesses to a register of this die, to an offset that holds none, to another die, and of a bad size. -/
theorem witness_HomesAnswerRequests_devices :
    let m (a : BitVec 52) (size : BitVec 3) := msg a fun m => { m with size := size, op0 := 0x2001 }
    (Linked 2 (m 0xFF00000010028 3) wLink ∧ place (m 0xFF00000010028 3).addr.toNat = .ctl 0 0x10028 ∧ wLink.ownDie 0 = true ∧ ctlAssigned 0x10028 = true ∧
      rangeOpAt 0x10028 8 = none ∧ isStep 0x10028 8 = false ∧
      regWrite .host 0x10028 8 0x2001 0 false wLink = .ok () (leaves (regWrite .host 0x10028 8 0x2001 0 false wLink)) ∧
      (leaves (regWrite .host 0x10028 8 0x2001 0 false wLink)).porch.direct = none) ∧
      (Linked 2 (m 0xFF00000000020 3) wLink ∧ place (m 0xFF00000000020 3).addr.toNat = .ctl 0 0x20 ∧ ctlAssigned 0x20 = false ∧ ctlAssigned 0x18 = true) ∧
      (Linked 2 (m 0xFF00001010028 3) wLink ∧ place (m 0xFF00001010028 3).addr.toNat = .ctl 1 0x10028 ∧ wLink.ownDie 1 = false) ∧
      (Linked 2 (m 0xFF00000010029 3) wLink ∧ (m 0xFF00000010029 3).addr.toNat % 8 ≠ 0) ∧
      Linked 2 (m 0xFF00000010028 4) wLink ∧ 3 < (m 0xFF00000010028 4).size.toNat :=
  ⟨⟨linked_of (by decide +kernel), by decide +kernel, by decide +kernel, by decide +kernel, by decide +kernel, by decide +kernel, rfl, rfl⟩,
   ⟨linked_of (by decide +kernel), by decide +kernel, by decide +kernel, by decide +kernel⟩,
   ⟨linked_of (by decide +kernel), by decide +kernel, by decide +kernel⟩,
   ⟨linked_of (by decide +kernel), by decide +kernel⟩, linked_of (by decide +kernel), by decide +kernel⟩
/-- A STEP store of the host that fires shard 2. -/
def wStepFar : State := { wLink with levee := wIdle.levee }
theorem witness_HomesAnswerRequests_step :
    let m := msg 0xFF00000412000 fun m => { m with size := 3, op0 := 16, polder := 5 }
    let r := regWrite .host 0x412000 8 16 5 false wStepFar
    (linked 2 wStepFar = true ∧ stale wStepFar 2 m = false ∧ (wStepFar.gate 0x3A).open_ = true) ∧ place m.addr.toNat = .ctl 0 0x412000 ∧
      wStepFar.ownDie 0 = true ∧ ctlAssigned 0x412000 = true ∧ rangeOpAt 0x412000 8 = none ∧ isStep 0x412000 8 = true ∧
      (2 : Fin 16).val = (0x412000 - 0x410000) / 0x1000 % 16 ∧ r = .ok () (leaves r) ∧ (leaves r).porch.direct = none ∧
      (wStepFar.shard 2).state ≠ .arming ∧ ((leaves r).shard 2).state = .arming :=
  ⟨by decide +kernel, by decide +kernel, by decide +kernel, by decide +kernel, by decide +kernel, by decide +kernel, by decide, rfl, rfl, by decide +kernel, by decide +kernel⟩
/-- A write waits at its home, on doorway 2; node 1 owns line 0x40, or nobody does. -/
def wWaits (l : List (Fin 8 × Wire)) (own : DirEntry) : State :=
  setDir 0x40 own { wLink with th := { wLink.th with queued := l } }
theorem witness_HomesAnswerRequests_writes (op : BitVec 6) (h : op ∈ [(5 : BitVec 6), 6, 8]) :
    let w := msg 0x1000 id
    let s := wWaits [(2, ⟨0, op, w⟩)] DirEntry.none
    (linked 2 s = true ∧ s.th.ints = [] ∧ s.th.txns = [] ∧ s.porch.direct = none ∧ s.power.inQuiet = false ∧ s.power.rootOff = false) ∧
      (s.doors[2].l1 = false ∧ s.th.node = some 0 ∧ (0 : Fin 4) ≠ 1 ∧ (s.gate 0x3A).open_ = true ∧ stale s 2 w = false ∧ cohDie s w = some 1) ∧
      (s.ownMem w.addr.toNat = true ∧ s.th.queued = [(2, ⟨0, op, w⟩)] ∧ s.doors[2].inbox = []) ∧ QuietLine w.addr.toNat s ∧
      (dirOf s 0x40 = DirEntry.none ∧ s.lost w.addr.toNat = false) ∧
      ({ s with coff := { s.coff with lpt := [(0, some ⟨1, 0, false⟩)] } } : State).lost w.addr.toNat = true ∧ wLink.th.queued = [] ∧
      dirOf (wWaits [(2, ⟨0, 8, w⟩)] ⟨some 1, 0⟩) 0x40 = ⟨some 1, 0⟩ := by
  have q (x : List (Fin 8 × Wire)) : QuietLine 0x1000 { wLink with th := { wLink.th with queued := x } } := by
    obtain ⟨h1, h2, h3, h4, h5, h6, h7, h8, h9⟩ := quiet_of (s := wLink) (a := 0x1000) ⟨rfl, rfl, rfl, rfl, rfl, rfl, rfl⟩ (by decide)
    exact ⟨h1, h2, h3, h4, h5, h6, h7, h8, h9⟩
  have e (x : List (Fin 8 × Wire)) : wWaits x DirEntry.none = { wLink with th := { wLink.th with queued := x } } := rfl
  simp at h
  rcases h with rfl | rfl | rfl <;>
    exact ⟨⟨by decide +kernel, rfl, rfl, rfl, rfl, rfl⟩, by decide +kernel, ⟨by decide +kernel, rfl, rfl⟩, by rw [e]; exact q _, by decide +kernel,
      by decide +kernel, rfl, by decide +kernel⟩

/-- Node 1's answer to core 0's request of a line that this die does not have, or has in S. -/
def wAsked (op : BitVec 6) (l2 : Table CSet) (inc : BitVec 8) : State :=
  let s := wLink.setCore 0 { k0 with l2 := l2 }
  { s with th := { s.th with reqs := [⟨.core 0, 1, 3, op, 0x4000001000, ThMsg.zero, 0, inc, none, none⟩] } }
def sharedSet : Table CSet := [(0x40, ⟨[(0, ⟨0x100000040, .s, 0⟩)], 0⟩)]
theorem witness_AnswersAndSnoops_answers (op : BitVec 6) (h : op ∈ [(1 : BitVec 6), 2, 3]) :
    let s := wAsked op [] 1
    let m := msg 0x4000001000 id
    (linked 2 s = true ∧ s.doors[2].l1 = false ∧ (s.gate 0x3A).open_ = true ∧ s.porch.direct = none ∧ s.th.queued = [] ∧ s.th.ints = []) ∧ (∃ q, reqOf m s = some q ∧ q.late s = false ∧ q.unit.unwaited = false ∧ takesLines 0 s = true ∧ q.unit = .core 0 ∧ q.op = op ∧ s.ownMem q.addr = false ∧ q.addr % 64 = 0) ∧
      holdings s 0x100000040 = [] ∧ coreHolds ((wAsked op sharedSet 1).core 0) 0x100000040 = some .s ∧
      (∃ q, reqOf m (wAsked op [] 2) = some q ∧ q.late (wAsked op [] 2) = true) ∧ reqOf m wLink = none := by
  simp at h
  rcases h with rfl | rfl | rfl <;>
    exact ⟨⟨by decide +kernel, by decide +kernel, by decide +kernel, rfl, rfl, rfl⟩, ⟨_, rfl, by decide +kernel, rfl, by decide +kernel, rfl, rfl, by decide +kernel, by decide +kernel⟩,
      by decide +kernel, by decide +kernel, ⟨_, rfl, by decide +kernel⟩, rfl⟩
/-- A snoop of a line that the die holds in each state, or not. -/
theorem witness_AnswersAndSnoops_snoops (st : Moesi) :
    let s := wLink.setCore 0 { k0 with l2 := [(0x40, ⟨[(0, ⟨0x100000040, st, 0⟩)], 0⟩)] }
    linked 2 s = true ∧ s.th.queued = [] ∧ dieHolds s ((msg 0x4000001000 id).addr.toNat / 64) = some st ∧ dieHolds wLink 0x100000040 = none ∧
      mget none s.mem.arrays 0x100000040 = none ∧ s.spoilt 0x100000040 = false ∧
      ({ s with mem := { s.mem with badDirty := [(0x100000040, some (0, 0))] } } : State).spoilt 0x100000040 = true := by
  cases st <;> exact ⟨by decide +kernel, rfl, by decide +kernel, by decide +kernel, by decide +kernel, by decide +kernel, by decide +kernel⟩
/-- A transaction that waits for the answers to its snoops: of node 1, and of node 2 beside it, or of node 2 alone. -/
theorem witness_AnswersAndSnoops_waits (l : List (BitVec 3 × BitVec 12)) (h : l ∈ [[(1, 3)], [(1, 3), (2, 4)], [(2, 4)]]) :
    let t : Txn := { line := 0x40, unit := .core 0, op := 2, m := ThMsg.zero, snoops := l, data := none, left := false, move := false }
    let s := { wLink with th := { wLink.th with txns := [t] } }
    let m := msg 0x1000 id
    linked 2 s = true ∧ m.src = BitVec.ofNat 3 (1 : Fin 4).val ∧ s.th.txns = [t] ∧
      ((BitVec.ofNat 3 1, m.tag) ∈ t.snoops ↔ l ≠ [(2, 4)]) ∧ ((t.snoops.filter fun p => !(p.1 = 1 && p.2 = m.tag)) = [] ↔ l = [(1, 3)]) ∧
      bit s.porch.mirror 0 = false := by
  simp at h
  rcases h with rfl | rfl | rfl <;> exact ⟨by decide +kernel, rfl, rfl, by decide, by decide, by decide⟩
/-- A read of a line that node 1 owns: node 1 answers the snoop with I, or with O. -/
theorem witness_AnswersAndSnoops_left :
    let t : Txn := { line := 0x40, unit := .core 0, op := 1, m := ThMsg.zero, snoops := [(1, 3)], data := none, left := false, move := false }
    let s := setDir 0x40 ⟨some 1, 0⟩ { wLink with th := { wLink.th with txns := [t] } }
    t.op = 1 ∧ (dirOf s t.line).owner = some 1 ∧ (msg 0x1000 fun m => { m with state := 0 }).state = 0 ∧ (msg 0x1000 fun m => { m with state := 3 }).state ≠ 0 ∧
      (1, (3 : BitVec 12)) ∈ t.snoops := by decide +kernel

/-! ## Witnesses: test access, register stores, steps -/

theorem witness_TestAccessAndRegisterStores :
    hasLvu wNode.variant = true ∧ wNode.inReset = false ∧ wNode.present 0 = true ∧ wNode.offline 0 = false ∧
      canPause wNode 0 = true ∧ (wNode.core 0).vuFailed = false ∧ ((on { k0 with vuFailed := true }).core 0).vuFailed = true ∧ ({ wNode with inReset := true } : State).inReset = true ∧
      (0x010029 : BitVec 24).toNat % 8 ≠ 0 ∧ (Writer.core 0 ≠ .hatch) ∧ wNode.porch.direct = none ∧ wNode.coff.events = [] ∧ wNode.coff.sramErr = none ∧
      wNode.porch.cmdPi = wNode.porch.cmdCi ∧ writerShut (.core 0) wNode = false ∧ wNode.th.queued = [] ∧ writerShut (.core 0) (dieStop wNode) = true ∧ (0x010028 : BitVec 24).toNat < 0x18000 ∧ (0x010028 : BitVec 24).toNat % 4 = 0 := by decide +kernel
theorem witness_TestAccessAndRegisterStores_noUnit : ∃ v, hasLvu (State.resetOf v).variant = false := by
  exact ⟨.vke32a, by decide⟩
theorem witness_TestAccessAndRegisterStores_move :
    let w := phWord 8 (.bus0 2 5)
    PhWord w 8 5 (wPh kPh) ∧ phTriggers 8 = false ∧ ptrClash (phValues w (wPh kPh)) = none := ⟨ph_of (by decide +kernel), by decide, by decide⟩
theorem witness_StepRunsFrontCommand : ({ wNode with pending := [.idcode] } : State).pending = [.idcode] ∧ wNode.pending = [] := ⟨rfl, rfl⟩
theorem witness_StepsGoOn :
    let s : State := { wNode with pending := [.idcode, .bypass] }
    (step s = .next (match step s with | .next t => t | _ => s)) ∧ (State.reset.power.rootLock = false ∧ State.reset.pending = []) ∧
      (wNode.power.rootLock = true ∧ wNode.power.rootOff = false ∧ wNode.inReset = false ∧ wNode.pending = []) ∧
      step wNode = .next { wNode with ltime := wNode.ltime + 1 } ∧ s.memWf = true ∧ wNode.memWf = true :=
  ⟨rfl, ⟨rfl, rfl⟩, ⟨rfl, rfl, rfl, rfl⟩, rfl, by decide +kernel, by decide +kernel⟩
theorem witness_RegisterAndStoreFrames_store (x : Nat × Instr) (h : x ∈ [(1, Instr.sb 0 2 1 0), (2, .sh 0 2 1 0), (4, .sw 0 2 1 0), (8, .sd 0 2 1 0)]) :
    let p := (wHeld.g 0 1 + (0 : BitVec 12).signExtend 64).toNat
    Ready 0 wHeld ∧ (∀ l ∈ linesAt p x.1, wHeld.plain (wHeld.core 0).polder l = true) ∧ HeldAccess 0 p x.1 wHeld ∧
      ∀ l ∈ linesAt p x.1, coreHolds (wHeld.core 0) l = some .m := by
  have hn : x.1 ∈ [1, 2, 4, 8] := by simp at h; rcases h with rfl | rfl | rfl | rfl <;> decide
  have hl : ∀ n ∈ [1, 2, 4, 8], ∀ l ∈ linesAt (wHeld.g 0 1 + (0 : BitVec 12).signExtend 64).toNat n, wHeld.plain (wHeld.core 0).polder l = true := by decide +kernel
  exact ⟨ready_wHeld, hl _ hn, witness_HeldLineLoadsAndStores.2 _ hn⟩

/-! ## WellFormed: each check refuses a term that breaks it -/

theorem test_wellFormed_syswr : Instr.wellFormed (.syswr 0 0x000 1) = false ∧ Instr.wellFormed (.syswr 0 0x10F 1) = false ∧ Instr.wellFormed (.syswr 0 0x011 1) = true := by
  decide
theorem test_wellFormed_conversions :
    Instr.wellFormed (.fcvtXF 0 1 0 0 1 2) = false ∧ Instr.wellFormed (.fcvtXF 0 12 0 0 1 2) = false ∧ Instr.wellFormed (.fcvtXF 0 11 0 0 1 2) = true ∧
      Instr.wellFormed (.fcvtXnF 0 6 0 0 1 2) = false ∧ Instr.wellFormed (.fcvtXnF 0 5 0 0 1 2) = true ∧ Instr.wellFormed (.fcvtFX 0 12 0 0 1 2) = false ∧
      Instr.wellFormed (.fcvtFX 0 2 0 0 1 2) = true := by decide
theorem test_wellFormed_deferredStoreError :
    Instr.wellFormed (.deferredStoreError 0 0 7 1 0 0 0) = false ∧ Instr.wellFormed (.deferredStoreError 0 0 6 0 0 0 0) = false ∧
      Instr.wellFormed (.deferredStoreError 0 0 6 6 0 0 0) = false ∧ Instr.wellFormed (.deferredStoreError 0 0 6 5 0 0 3) = false ∧
      Instr.wellFormed (.deferredStoreError 0 0 6 5 0 0 2) = true := by decide
theorem test_wellFormed_rangeOps (n : Nat) (h : n < 6) :
    let v : Word := BitVec.ofNat 64 n
    [Instr.clean .host 0 0 v, .invalidate .host 0 0 v, .cleanAndInvalidate .host 0 0 v, .zeroFill .host 0 0 v, .demote .host 0 0 v, .prefetch .host 0 0 v].map
      Instr.wellFormed = [n == 0, n == 1, n == 2, n == 3, n == 4, n == 5] := by
  revert n; decide
theorem test_wellFormed_samples :
    Instr.wellFormed (.thermalSample (List.replicate 95 0)) = false ∧ Instr.wellFormed (.thermalSample (List.replicate 96 0)) = true ∧
      Instr.wellFormed (.telemetrySample ⟨[0, 0, 0], [0, 0, 0, 0], 0, 0, 0⟩) = false ∧ Instr.wellFormed (.telemetrySample ⟨[0, 0, 0, 0], [0], 0, 0, 0⟩) = false ∧
      Instr.wellFormed (.telemetrySample ⟨[0, 0, 0, 0], [0, 0, 0, 0], 0, 0, 0⟩) = true := by decide +kernel
theorem test_wellFormed_registers :
    Instr.wellFormed (.registerWrite .host 0x10028 3 0) = false ∧ Instr.wellFormed (.registerWrite .host 0x10020 8 0) = false ∧
      Instr.wellFormed (.registerWrite .host 0x10028 8 0) = true ∧ Instr.wellFormed (.retrain .host 0 1 true 0 false false) = false ∧
      Instr.wellFormed (.retrain .host 0 3 true 0 false false) = true ∧ Instr.wellFormed (.doorwayDisable .host 0 1) = false ∧
      Instr.wellFormed (.doorwayDisable .host 0 0) = true ∧ Instr.wellFormed (.moverGo 0) = false ∧ Instr.wellFormed (.moverGo 0x20000) = true := by
  decide +kernel
theorem test_wellFormed_move :
    Instr.wellFormed (.move (phWord 0x10 (.bus0 2 5))) = false ∧ Instr.wellFormed (.move (phWord 8 (.bus1 0 0x1008))) = true ∧
      Instr.wellFormed (.move (phWord 8 (.bus0 2 5))) = true := by decide +kernel
theorem test_wellFormed_startUp :
    Instr.wellFormed (.coldReset true (sound image)) = true ∧ Instr.wellFormed (.coldReset true { sound image with doors := [] }) = false ∧
      Instr.wellFormed (.coldReset true { sound image with peers := [] }) = false ∧ Instr.wellFormed (.pwWrst .host 0 { sound image with badCores := [34] }) = false ∧
      Instr.wellFormed (.fwReload (pk id) { sound image with badLanes := [(0, 34)] }) = false ∧ Instr.wellFormed (.dieReset (pk id) { sound image with badWays := [(4, 0)] }) = false ∧
      Instr.wellFormed (.dieReset (pk id) { sound image with badLvu := [32] }) = false := by decide
theorem test_wellFormed_tag :
    let p := pk fun p => { p with tag := 0xFFFF }
    [Instr.identify p, .setLatency p, .setQuiet p, .setPowerCap p, .powerStatus p, .corePause p, .coreResume p, .coreReset p, .coreStatus p, .keyLoad p, .keyErase p,
      .slConfig p, .regionRegister p, .regionRevoke p, .qpCreate p, .qpModify p, .qpDestroy p, .qpQuery p, .anteQuota p, .shardDefine p, .shardDisable p,
      .leveeCheckpoint p, .leveeRestore p, .leveeAbort p, .rasStatus p, .rasCounts p, .lptRelease p, .coreFence p, .fwInfo p, .fwSvnRaise p, .fwReload p (sound image),
      .telemConfig p, .thermLimits p, .thermStatus p, .shutdown p, .dieReset p (sound image)].all (fun i => !i.wellFormed) = true ∧
      Instr.wellFormed (.identify (pk id)) = true := by decide +kernel

/-! ## Single commands, with the values that the spec gives -/

/-- What a command leaves, where it answers a next state. -/
def after (i : Instr) (s : State) : State :=
  match exec i s with
  | .next t => t
  | _ => s
/-- g1, g2 and g3 hold a, b and x. -/
def wG (a b x : Word) : State := on (gs [(1, a), (2, b), (3, x)] k0)
/-- What a three-register instruction of core 0 writes to g4. -/
def res (i : CoreId → Reg → Reg → Reg → Instr) (a b : Word) : Word := (after (i 0 4 1 2) (wG a b 0)).g 0 4
/-- R48: sums wrap; shifts use the low six bits; orders are signed or not. -/
theorem test_integer : res .add 0xFFFFFFFFFFFFFFFF 2 = 1 ∧ res .sub 1 2 = 0xFFFFFFFFFFFFFFFF ∧ res .sll 3 65 = 6 ∧ res .srl 0x8000000000000000 63 = 1 ∧
    res .sra 0x8000000000000000 63 = 0xFFFFFFFFFFFFFFFF ∧ res .slt 0xFFFFFFFFFFFFFFFF 0 = 1 ∧ res .sltu 0xFFFFFFFFFFFFFFFF 0 = 0 ∧
    res .min 0xFFFFFFFFFFFFFFFF 0 = 0xFFFFFFFFFFFFFFFF ∧ res .maxu 0xFFFFFFFFFFFFFFFF 0 = 0xFFFFFFFFFFFFFFFF ∧ res .andn 0xF 5 = 0xA := by decide +kernel
theorem test_integer_words : res .addW 0x7FFFFFFF 1 = 0xFFFFFFFF80000000 ∧ res .subW 0 1 = 0xFFFFFFFFFFFFFFFF ∧ res .sllW 1 33 = 2 ∧
    res .srlW 0x80000000 31 = 1 ∧ res .sraW 0x80000000 31 = 0xFFFFFFFFFFFFFFFF := by decide +kernel
theorem test_integer_products : res .mul 0xFFFFFFFFFFFFFFFF 3 = 0xFFFFFFFFFFFFFFFD ∧ res .mulh 0xFFFFFFFFFFFFFFFF 3 = 0xFFFFFFFFFFFFFFFF ∧
    res .mulhu 0xFFFFFFFFFFFFFFFF 3 = 2 ∧ res .mulhsu 0xFFFFFFFFFFFFFFFF 0xFFFFFFFFFFFFFFFF = 0xFFFFFFFFFFFFFFFF := by decide +kernel
/-- R49: the quotient of a division by zero saturates in the dividend's direction; the remainder is the dividend. -/
theorem test_integer_division : res .div 5 0 = 0x7FFFFFFFFFFFFFFF ∧ res .div 0xFFFFFFFFFFFFFFFB 0 = 0x8000000000000000 ∧ res .rem 5 0 = 5 ∧
    res .div 0xFFFFFFFFFFFFFFF9 2 = 0xFFFFFFFFFFFFFFFD ∧ res .rem 0xFFFFFFFFFFFFFFF9 2 = 0xFFFFFFFFFFFFFFFF ∧ res .divu 7 2 = 3 := by decide +kernel
theorem test_integer_counts : (after (.clz 0 4 3) (wG 0 0 0)).g 0 4 = 64 ∧ (after (.ctz 0 4 1) (wG 8 0 0)).g 0 4 = 3 ∧ (after (.popc 0 4 1) (wG 0xF0F 0 0)).g 0 4 = 8 ∧
    (after (.rev8 0 4 1) (wG 0x0102030405060708 0 0)).g 0 4 = 0x0807060504030201 := by decide +kernel
theorem test_immediates : (after (.addi 0 4 1 0xFFF) (wG 1 0 0)).g 0 4 = 0 ∧ (after (.addi 0 0 1 5) (wG 1 0 0)).g 0 0 = 0 ∧
    (after (.lui 0 4 0x200000) w0).g 0 4 = 0xFFFFFFFE00000000 ∧ (after (.addiW 0 4 1 1) (wG 0x7FFFFFFF 0 0)).g 0 4 = 0xFFFFFFFF80000000 ∧
    (after (.srai 0 4 1 63) (wG 0x8000000000000000 0 0)).g 0 4 = 0xFFFFFFFFFFFFFFFF := by decide +kernel
/-- Loads are extended as they say; stores write the low bytes. -/
theorem test_loads : let s := on { gs [(1, 0xFFC0000000008)] k0 with sram := [(8, 0x80), (9, 0xFF)] }
    (after (.lb 0 4 1 0) s).g 0 4 = 0xFFFFFFFFFFFFFF80 ∧ (after (.lbu 0 4 1 0) s).g 0 4 = 0x80 ∧ (after (.lh 0 4 1 0) s).g 0 4 = 0xFFFFFFFFFFFFFF80 ∧
      (after (.lwu 0 4 1 0) s).g 0 4 = 0xFF80 := by decide +kernel
theorem test_stores : ((after (.sh 0 2 1 8) (wG 0xFFC0000000000 0x10203 0)).core 0).sram = [(8, 3), (9, 2)] := by decide +kernel
theorem test_atomics : let s := on { gs [(1, 0xFFC0000000008), (2, 5)] k0 with sram := [(8, 3)] }
    (after (.amoadd 0 4 1 2 true false false) s).g 0 4 = 3 ∧ ((after (.amoadd 0 4 1 2 true false false) s).core 0).sram = [(8, 8)] := by decide +kernel
/-- Branch offsets count words; the link is the next instruction. -/
theorem test_branches : (after (.beq 0 1 2 2) (wG 7 7 0)).pc 0 = 0xFFC0000000008 ∧ (after (.beq 0 1 2 2) (wG 7 8 0)).pc 0 = 0xFFC0000000004 ∧
    (after (.jal 0 1 4) w0).pc 0 = 0xFFC0000000010 ∧ (after (.jal 0 1 4) w0).g 0 1 = 0xFFC0000000004 := by decide +kernel
theorem test_system : (after (.sysrd 0 4 0x000) w0).g 0 4 = 3 ∧ ((after (.syswr 0 0x040 1) (wG 0x40 0 0)).core 0).lstart = 0x40 ∧
    (after (.loop 0 1 3) (wG 2 0 0)).pc 0 = 0xFFC0000000004 ∧ ((after (.loop 0 1 3) (wG 2 0 0)).core 0).lend = 0xFFC000000000C := by decide +kernel
/-- R293, R294: an entry saves the PC and the cause in the frame, and runs at PL3 with interrupts off. -/
theorem test_ecall : ((after (.ecall 0) wEx).core 0).pc = 0xFFC0000000000 ∧ ((after (.ecall 0) wEx).core 0).status = 3 := by decide +kernel
theorem test_sleep : ((after (.sleep 0) w0).core 0).asleep = true ∧ ((after (.fenceRw 0) w0).core 0).pc = 0xFFC0000000004 := by decide +kernel

/-- Floating point: f1 and f2 hold a and b; what a binary64 instruction writes to f4, and the flags. -/
def wF (a b : Word) : State := on { k0 with f := Vector.ofFn fun i : Fin 32 => if i.val = 1 then a else if i.val = 2 then b else 0 }
def fres (i : CoreId → BitVec 3 → BitVec 3 → Reg → Reg → Reg → Instr) (a b : Word) : Word × Word :=
  let t := after (i 0 0 0 4 1 2) (wF a b)
  ((t.core 0).f[4], (t.core 0).fstat)
/-- 1 + 2 = 3; 1 / 0 is infinite and DZ; 0 times infinity is the canonical NaN and NV; 1 / 3 is inexact; the least subnormal halved. -/
theorem test_float : fres .fadd 0x3FF0000000000000 0x4000000000000000 = (0x4008000000000000, 0) ∧ fres .fdiv 0x3FF0000000000000 0 = (0x7FF0000000000000, 2) ∧
    fres .fmul 0 0x7FF0000000000000 = (0x7FFFFFFFFFFFFFFF, 1) ∧ fres .fdiv 0x3FF0000000000000 0x4008000000000000 = (0x3FD5555555555555, 16) ∧
    fres .fmul 1 0x3FE0000000000000 = (0, 24) := by decide +kernel
theorem test_float_minMax : fres .fmin 0x7FF0000000000001 0x3FF0000000000000 = (0x3FF0000000000000, 1) ∧
    fres .fmax 0x7FF8000000000000 0x3FF0000000000000 = (0x3FF0000000000000, 0) ∧ fres .fsub 0x3FF0000000000000 0x3FF0000000000000 = (0, 0) := by decide +kernel
theorem test_float_class : (after (.fclass 0 0 0 4 1) (wF 0x8000000000000000 0)).g 0 4 = 8 ∧ (after (.fclass 0 0 0 4 1) (wF 0x7FF0000000000001 0)).g 0 4 = 0x100 ∧
    (after (.fle 0 0 0 4 1 2) (wF 0x8000000000000000 0)).g 0 4 = 1 := by decide +kernel

/-- Four elements of 64 bits, 5, 7, 9 and 1, in v1. -/
def wVec : State := on { kV true 3 4 with v := (Vector.replicate 32 0).set 1 (BitVec.ofNat 4096 (5 + 7 * 2 ^ 64 + 9 * 2 ^ 128 + 1 * 2 ^ 192)) }
theorem test_vector_sums : ((after (.vadd 0 0 4 1 1 0) wVec).core 0).v[4].extractLsb' 64 64 = 14 ∧ ((after (.vredsum 0 4 1 0 0) wVec).core 0).v[4].extractLsb' 0 64 = 22 ∧
    ((after (.vid 0 4 0) wVec).core 0).v[4].extractLsb' 192 64 = 3 := by decide +kernel
/-- R230: vsetl answers the number of elements that it grants, at most VLMAX. -/
theorem test_vsetl : (after (.vsetl 0 4 2 3) wVec).g 0 4 = 8 ∧ ((after (.vsetl 0 4 2 3) wVec).core 0).vcount = 8 := by decide +kernel
theorem test_tile_forms : ((after (.tcfg 0 3) (on (kT []))).core 0).tcfg = 0x1040044 ∧ ((after (.tzero 0 8) (on (kT []))).core 0).flight = [] := by decide +kernel

/-! ### The other units -/

/-- R305: an ISWI write pends the interrupt in the core. -/
theorem test_iswi : ((after (.iswi .host 0 0x228) wNode).core 0).irqs.map (fun q => (q.cause, q.lvl)) = [(0x28, 2)] := by decide +kernel
theorem test_irte : (after (.irteWrite .host 5 (irteTo 0 2 0x28 0)) wNode).irte 5 = irteTo 0 2 0x28 0 ∧
    ((after (.interruptMessage 5) (wIrte (irteTo 0 2 0x28 0))).core 0).irqs.length = 1 := by decide +kernel
/-- R317: a request goes into its slot and to the end of the wing's order. -/
theorem test_range : let s := wSlot 0x1000 0 0 []
    bit ((after (.clean .host 0 1 8) s).slot 0 1).stat 0 = true ∧ (((after (.clean .host 0 1 8) s).wings[0]).order) = [1] := by decide +kernel
/-- Section 13: an accepted doorbell of 8 bytes moves the producer index. -/
theorem test_doorbell : ((after (.sqPi 4 (bell 8 16 5)) (wSluice pair [])).qp 4).map (·.sqPi) = some 16 ∧
    ((after (.sqPi 4 (bell 4 16 5)) (wSluice pair [])).qp 4).map (·.sqPi) = some 0 := by decide +kernel
/-- R412: a STEP at a multiple of STEPS starts a checkpoint. -/
theorem test_step : ((after (.step 2 .host (bell 8 16 5)) wIdle).shard 2).state = .arming ∧ ((after (.step 2 .host (bell 8 17 5)) wIdle).shard 2).state = .idle := by
  decide +kernel
/-- A jump; a push stores below the stack pointer. -/
theorem test_pumphouse : (after (.brJmpT (imm 0x100)) (wPh kPh)).pump.pc = 0x100 ∧ (after (.stkPushT (imm 5)) (wPh kPh)).pump.dsp = 0xA00F := by decide +kernel
/-- SET_QUIET writes PW_QUIET; SET_POWER_CAP takes 100 to 300 W. -/
theorem test_porch : (after (.setQuiet (pk fun p => { p with p2 := 300 })) (wPo 0x11 (pk fun p => { p with p2 := 300 }) wNode)).power.quiet = 300 ∧
    (after (.setPowerCap (pk fun p => { p with p2 := 99 })) (wPo 0x12 (pk fun p => { p with p2 := 99 }) wNode)).power.limit = 300 := by decide +kernel
/-- R507: an average above the limit raises the power step. -/
theorem test_power : (after (.powerSample 300001 0) wNode).power.pwStep = 1 ∧ (after (.powerSample 300000 0) wNode).power.pwStep = 0 := by decide +kernel
theorem test_doorway : ((after (.training 2 true 2 true false) wNode).doors[2]).up = true ∧ ((after (.l1Entry 2) (wUp id)).doors[2]).l1 = true ∧
    (after (.quiesce 2) (wUp id)).th.quiesced = [1] := by decide +kernel
theorem test_step_runs_front : (match step { wNode with pending := [.l1Entry 2, .idcode] } with | .next t => t.pending | _ => []) = [.idcode] := rfl
end Sys2Proof.Tests
end

section
/-! PROOFS. The interrupt router: how interrupts of one cause merge, what a routing entry does with a message and with a write, ISWI, and the
core timer (R304, R305, R448). -/

namespace Sys2Proof
namespace Machine

/-! ## Merging (R305) -/

/-- Two interrupts of one cause in one: the highest level and the highest priority. -/
def PendIrq.join (q p : PendIrq) : PendIrq :=
  ⟨q.cause, if q.lvl.ult p.lvl then p.lvl else q.lvl, if q.prio.ult p.prio then p.prio else q.prio⟩

@[simp] theorem PendIrq.join_cause (q p : PendIrq) : (q.join p).cause = q.cause := rfl

/-- The larger of two words, as `mergeIrq` picks it. -/
theorem toNat_ite_ult {w : Nat} (x y : BitVec w) : (if x.ult y then y else x).toNat = max x.toNat y.toNat := by
  rw [BitVec.ult_eq_decide]
  by_cases h : x.toNat < y.toNat
  · simp [h, Nat.max_eq_right (Nat.le_of_lt h)]
  · simp [h, Nat.max_eq_left (Nat.le_of_not_lt h)]

theorem PendIrq.join_lvl (q p : PendIrq) : (q.join p).lvl.toNat = max q.lvl.toNat p.lvl.toNat := toNat_ite_ult ..
theorem PendIrq.join_prio (q p : PendIrq) : (q.join p).prio.toNat = max q.prio.toNat p.prio.toNat := toNat_ite_ult ..

@[simp] theorem mergeIrq_nil (p : PendIrq) : mergeIrq p [] = [p] := rfl
theorem mergeIrq_cons_same {p q : PendIrq} (qs : List PendIrq) (h : q.cause = p.cause) : mergeIrq p (q :: qs) = q.join p :: qs := by
  simp [mergeIrq, h, PendIrq.join]
theorem mergeIrq_cons_other {p q : PendIrq} (qs : List PendIrq) (h : q.cause ≠ p.cause) : mergeIrq p (q :: qs) = q :: mergeIrq p qs := by
  simp [mergeIrq, h]

/-- What is pending with the new interrupt's cause. -/
theorem mergeIrq_find_same (p : PendIrq) (irqs : List PendIrq) :
    (mergeIrq p irqs).find? (fun q => q.cause = p.cause) =
      some (match irqs.find? (fun q => q.cause = p.cause) with | none => p | some q => q.join p) := by
  induction irqs with
  | nil => simp
  | cons q qs ih =>
    by_cases h : q.cause = p.cause
    · simp [mergeIrq_cons_same qs h, h]
    · simp [mergeIrq_cons_other qs h, h, ih]

/-- Other causes keep their entries. -/
theorem mergeIrq_find_other {p : PendIrq} {c : BitVec 8} (hc : c ≠ p.cause) (irqs : List PendIrq) :
    (mergeIrq p irqs).find? (fun q => q.cause = c) = irqs.find? (fun q => q.cause = c) := by
  induction irqs with
  | nil => simp [hc.symm]
  | cons q qs ih =>
    by_cases h : q.cause = p.cause
    · simp [mergeIrq_cons_same qs h, h, hc.symm]
    · simp [mergeIrq_cons_other qs h, List.find?_cons, ih]

theorem mem_causes_mergeIrq (p : PendIrq) (irqs : List PendIrq) (c : BitVec 8) :
    c ∈ (mergeIrq p irqs).map (·.cause) ↔ c = p.cause ∨ c ∈ irqs.map (·.cause) := by
  induction irqs with
  | nil => simp
  | cons q qs ih =>
    by_cases h : q.cause = p.cause
    · simp [mergeIrq_cons_same qs h, h]
    · rw [mergeIrq_cons_other qs h, List.map_cons, List.mem_cons, ih, List.map_cons, List.mem_cons]
      exact or_left_comm

/-- A core has at most one pending interrupt of each cause, and a merge keeps it so. -/
theorem mergeIrq_nodup (p : PendIrq) {irqs : List PendIrq} (hn : (irqs.map (·.cause)).Nodup) : ((mergeIrq p irqs).map (·.cause)).Nodup := by
  induction irqs with
  | nil => simp
  | cons q qs ih =>
    obtain ⟨hq, hqs⟩ := List.nodup_cons.mp hn
    by_cases h : q.cause = p.cause
    · rw [mergeIrq_cons_same qs h]
      exact hn
    · rw [mergeIrq_cons_other qs h, List.map_cons, List.nodup_cons, mem_causes_mergeIrq]
      exact ⟨not_or.mpr ⟨h, hq⟩, ih hqs⟩

/-! ## The fields of a routing entry (R304) -/

/-- A field of 30 bits at bit 34 stands above the low 34 bits. -/
theorem setFld_34_toNat (x : Word) (v : BitVec 30) : (setFld x 34 v).toNat = v.toNat * 2 ^ 34 + x.toNat % 2 ^ 34 := by
  have happ : setFld x 34 v = v ++ fld x 0 34 := by
    apply BitVec.eq_of_getLsbD_eq
    intro i hi
    simp only [setFld, BitVec.getLsbD_or, BitVec.getLsbD_and, BitVec.getLsbD_not, BitVec.getLsbD_shiftLeft, BitVec.getLsbD_setWidth,
      BitVec.getLsbD_allOnes, BitVec.getLsbD_append, BitVec.getLsbD_extractLsb']
    by_cases h : i < 34
    · simp [h, hi]
    · simp [h, hi, show i - 34 < 30 by omega, show i - 34 < 64 by omega]
  rw [happ, BitVec.toNat_append, ← Nat.shiftLeft_add_eq_or_of_lt (BitVec.isLt _), Nat.shiftLeft_eq, BitVec.extractLsb'_toNat, Nat.shiftRight_zero]

theorem irteCount_toNat (x : Word) : (irteCount x).toNat = x.toNat / 2 ^ 34 := by
  have := x.isLt
  rw [irteCount, BitVec.extractLsb'_toNat, Nat.shiftRight_eq_div_pow, Nat.mod_eq_of_lt (by omega)]

/-- COUNT goes up by one, and stays at its largest value. -/
theorem irteCounted_eq (x : Word) : irteCounted x = if irteCount x = 0x3FFFFFFF then x else x + 0x400000000 := by
  have hx := x.isLt
  have hc := irteCount_toNat x
  have hset : (irteCounted x).toNat = (satInc (irteCount x)).toNat * 2 ^ 34 + x.toNat % 2 ^ 34 := setFld_34_toNat ..
  apply BitVec.eq_of_toNat_eq
  rw [hset]
  by_cases h : irteCount x = 0x3FFFFFFF
  · rw [if_pos h, show satInc (irteCount x) = irteCount x by rw [h]; rfl]
    omega
  · have hne : (irteCount x).toNat ≠ 0x3FFFFFFF := fun e => h (BitVec.eq_of_toNat_eq e)
    have hinc : (satInc (irteCount x)).toNat = (irteCount x).toNat + 1 := (satInc_toNat _).trans (Nat.min_eq_left (by omega))
    rw [if_neg h, hinc, BitVec.toNat_add, show (0x400000000 : Word).toNat = 2 ^ 34 from rfl]
    omega

/-- Clearing PEND. -/
theorem setFld_pend_zero (x : Word) : setFld x 1 (0 : BitVec 1) = x &&& ~~~(2 : Word) := by
  simp [setFld]

/-- What a write of v leaves in the entry old: the software fields of v, and PEND and COUNT of old. -/
def irteWritten (old v : Word) : Word := (v &&& 0x3FFFFFFF9) ||| (old &&& ~~~(0x3FFFFFFF9 : Word))

theorem irteBad_iff (s : State) (x : Word) :
    irteBad s x = true ↔ irteEn x = true ∧ ¬ (0x28 ≤ (irteCause x).toNat ∧ irteLvl x ≠ 0 ∧ s.present (irteCore x) = true) := by
  simp [irteBad, BitVec.ult_eq_decide, Classical.or_iff_not_imp_left]

/-! ## A message to a routing entry (R305, R448) -/

theorem irteDeliver_offline (n : Fin 1024) {x : Word} {s : State} (h : s.offline (irteCore x) = true) :
    irteDeliver n x s = s.setIrte n (irteCounted (x &&& ~~~(2 : Word))) := by
  rw [← setFld_pend_zero]
  simp [irteDeliver, h]

theorem irteDeliver_held (n : Fin 1024) {x : Word} {s : State} (ho : s.offline (irteCore x) = false)
    (h : irteLvl x = 1 ∧ (s.core (irteCore x)).polder ≠ irtePolder x) : irteDeliver n x s = s.setIrte n (x ||| 2) := by
  simp [irteDeliver, ho, h]

theorem irteDeliver_pends (n : Fin 1024) {x : Word} {s : State} (ho : s.offline (irteCore x) = false)
    (h : ¬ (irteLvl x = 1 ∧ (s.core (irteCore x)).polder ≠ irtePolder x)) :
    irteDeliver n x s = (pendIrq (irteCore x) (irteCause x) (irteLvl x) (irtePrio x) s).setIrte n (x &&& ~~~(2 : Word)) := by
  have h' : ¬ (irteLvl x = 1 && (s.core (irteCore x)).polder ≠ irtePolder x) = true := by simpa using h
  rw [← setFld_pend_zero]
  simp only [irteDeliver, ho, if_neg h']
  rfl

theorem exec_interruptMessage_off {n : Fin 1024} {s : State} (h : irteEn (s.irte n) = false) :
    exec (.interruptMessage n) s = .next (s.setIrte n (irteCounted (s.irte n))) := by
  change Host.Outcome.next (irteMessage n s) = _
  simp [irteMessage, h]

theorem exec_interruptMessage_on {n : Fin 1024} {s : State} (h : irteEn (s.irte n) = true) :
    exec (.interruptMessage n) s = .next (irteDeliver n (s.irte n) s) := by
  change Host.Outcome.next (irteMessage n s) = _
  simp [irteMessage, h]

/-- A message, by EN, by OFFLINE of the entry's core, and by whether its polder must wait. -/
theorem exec_interruptMessage_cases (n : Fin 1024) (s : State) :
    let e := s.irte n
    let held : Prop := irteLvl e = 1 ∧ (s.core (irteCore e)).polder ≠ irtePolder e
    (irteEn e = false → exec (.interruptMessage n) s = .next (s.setIrte n (irteCounted e))) ∧
    (irteEn e = true → s.offline (irteCore e) = false →
      (held → exec (.interruptMessage n) s = .next (s.setIrte n (e ||| 2))) ∧
      (¬ held → exec (.interruptMessage n) s =
        .next ((pendIrq (irteCore e) (irteCause e) (irteLvl e) (irtePrio e) s).setIrte n (e &&& ~~~(2 : Word))))) ∧
    (irteEn e = true → s.offline (irteCore e) = true →
      exec (.interruptMessage n) s = .next (s.setIrte n (irteCounted (e &&& ~~~(2 : Word))))) := by
  refine ⟨exec_interruptMessage_off, fun he ho => ⟨fun hh => ?_, fun hh => ?_⟩, fun he ho => ?_⟩ <;> rw [exec_interruptMessage_on he]
  · rw [irteDeliver_held n ho hh]
  · rw [irteDeliver_pends n ho hh]
  · rw [irteDeliver_offline n ho]

/-! ## A write to a routing entry (R304, R305) -/

/-- What a write does, by the entry that it leaves. -/
theorem irteStore_run (n : Fin 1024) (v : Word) (s : State) :
    irteStore n v s =
      if irteBad s (irteWritten (s.irte n) v) then .error (.stop 304) s
      else if irtePend (s.irte n) then
        if irteEn (irteWritten (s.irte n) v) then .ok () (irteDeliver n (irteWritten (s.irte n) v) s)
        else .ok () (s.setIrte n (irteCounted (irteWritten (s.irte n) v &&& ~~~(2 : Word))))
      else .ok () (s.setIrte n (irteWritten (s.irte n) v)) := by
  rw [← setFld_pend_zero]
  rfl

theorem exec_irteWrite_open {w : Writer} (n : Fin 1024) (v : Word) {s : State} (hw : writerShut w s = false) :
    exec (.irteWrite w n v) s = outcome (asWriter (writerTrusted w s) (irteStore n v)) s := by
  change (if writerShut w s then _ else _) = _
  rw [hw]
  rfl

theorem exec_irteWrite_ok {w : Writer} {n : Fin 1024} {v : Word} {s t : State} (hw : writerShut w s = false)
    (h : irteStore n v s = .ok () t) : exec (.irteWrite w n v) s = .next t := by
  rw [exec_irteWrite_open n v hw]
  exact outcome_ok (by simp [asWriter, h])

/-- R7: only a trusted writer's bad entry has an undefined outcome; another's is ignored (log entry 111). -/
theorem exec_irteWrite_bad {w : Writer} {n : Fin 1024} {v : Word} {s : State} (hw : writerShut w s = false)
    (hb : irteBad s (irteWritten (s.irte n) v) = true) :
    exec (.irteWrite w n v) s = if writerTrusted w s then .fault (.undefinedOutcome 304) else .next s := by
  have hstop : irteStore n v s = .error (.stop 304) s := by rw [irteStore_run, if_pos hb]
  rw [exec_irteWrite_open n v hw]
  cases writerTrusted w s with
  | true => exact outcome_stop (t := s) (by simp [asWriter, hstop])
  | false => exact outcome_ok (by simp [asWriter, hstop])

section Good
variable {w : Writer} {n : Fin 1024} {v : Word} {s : State}

theorem exec_irteWrite_idle (hw : writerShut w s = false) (hb : irteBad s (irteWritten (s.irte n) v) = false) (hp : irtePend (s.irte n) = false) :
    exec (.irteWrite w n v) s = .next (s.setIrte n (irteWritten (s.irte n) v)) :=
  exec_irteWrite_ok hw (by simp [irteStore_run, hb, hp])

/-- A held message is dropped and counted when its entry is turned off. -/
theorem exec_irteWrite_off (hw : writerShut w s = false) (hb : irteBad s (irteWritten (s.irte n) v) = false) (hp : irtePend (s.irte n) = true)
    (he : irteEn (irteWritten (s.irte n) v) = false) :
    exec (.irteWrite w n v) s = .next (s.setIrte n (irteCounted (irteWritten (s.irte n) v &&& ~~~(2 : Word)))) :=
  exec_irteWrite_ok hw (by simp [irteStore_run, hb, hp, he])

/-- A held message is delivered anew under the fields that the write leaves. -/
theorem exec_irteWrite_on (hw : writerShut w s = false) (hb : irteBad s (irteWritten (s.irte n) v) = false) (hp : irtePend (s.irte n) = true)
    (he : irteEn (irteWritten (s.irte n) v) = true) :
    exec (.irteWrite w n v) s = .next (irteDeliver n (irteWritten (s.irte n) v) s) :=
  exec_irteWrite_ok hw (by simp [irteStore_run, hb, hp, he])

end Good

/-! ## ISWI (R304) -/

/-- A write that no floodgate drops, and that finds its logic clocked. -/
theorem gated_open {w : Writer} {s : State} (f : State → State) (hw : writerShut w s = false) : gated w f s = f s := by
  cases w with
  | core c => simp [gated, show gateShut s c = false from hw]
  | host => simp [gated, show s.clocked = true by simpa [writerShut] using hw]
  | hatch => rfl

theorem exec_iswi_open {w : Writer} (c : CoreId) (v : Word) {s : State} (hw : writerShut w s = false) :
    exec (.iswi w c v) s = .next (iswiStore c v s) :=
  congrArg Host.Outcome.next (gated_open (iswiStore c v) hw)

theorem iswiStore_pends {c : CoreId} {v : Word} {s : State} (hp : s.present c = true) (ho : s.offline c = false)
    (hc : 0x28 ≤ (fld v 0 8).toNat) (hl : fld v 8 2 ≠ 0) : iswiStore c v s = pendIrq c (fld v 0 8) (fld v 8 2) 0 s := by
  unfold iswiStore
  refine if_neg ?_
  simpa [BitVec.ult_eq_decide, hp, ho] using ⟨hc, hl⟩

theorem iswiStore_ignored {c : CoreId} {v : Word} {s : State}
    (h : s.present c = false ∨ s.offline c = true ∨ (fld v 0 8).toNat < 0x28 ∨ fld v 8 2 = 0) : iswiStore c v s = s := by
  unfold iswiStore
  refine if_pos ?_
  simpa [BitVec.ult_eq_decide, or_assoc] using h

/-! ## The core timer (R305) -/

/-- Cause 0x20 is pending, at level 2 and priority 15, while LTIME has reached TIMECMP. -/
theorem timer_mem_pendingOf {c : CoreId} {s : State} (h : (s.core c).timecmp ≤ s.ltime) : (⟨0x20, 2, 15⟩ : PendIrq) ∈ s.pendingOf c := by
  simp [State.pendingOf, h]

/-- The timer's event moves LTIME, while it counts, up to TIMECMP (log entry 9). -/
theorem exec_coreTimer_moves {c : CoreId} {s : State} (hp : s.present c = true) (hl : s.power.rootLock = true) (hr : s.power.rootOff = false)
    (ht : s.ltime.toNat < (s.core c).timecmp.toNat) : exec (.coreTimer c) s = .next { s with ltime := (s.core c).timecmp } := by
  have hu : s.ltime.ult (s.core c).timecmp = true := by simpa [BitVec.ult_eq_decide] using ht
  refine congrArg Host.Outcome.next (if_pos ?_)
  simp [hp, hl, hr, hu]

/-! ## The obligation -/

/-- A good write, by whether the entry holds a message, by the EN that it leaves, and by whether the message's polder must wait. -/
theorem exec_irteWrite_good {w : Writer} (n : Fin 1024) (v : Word) {s : State} (hw : writerShut w s = false)
    (hb : irteBad s (irteWritten (s.irte n) v) = false) :
    let e := s.irte n
    let new := irteWritten e v
    let held : Prop := irteLvl new = 1 ∧ (s.core (irteCore new)).polder ≠ irtePolder new
    (irtePend e = false → exec (.irteWrite w n v) s = .next (s.setIrte n new)) ∧
    (irtePend e = true → irteEn new = false →
      exec (.irteWrite w n v) s = .next (s.setIrte n (irteCounted (new &&& ~~~(2 : Word))))) ∧
    (irtePend e = true → irteEn new = true → s.offline (irteCore new) = false →
      (held → exec (.irteWrite w n v) s = .next (s.setIrte n (new ||| 2))) ∧
      (¬ held → exec (.irteWrite w n v) s =
        .next ((pendIrq (irteCore new) (irteCause new) (irteLvl new) (irtePrio new) s).setIrte n (new &&& ~~~(2 : Word))))) := by
  refine ⟨exec_irteWrite_idle hw hb, exec_irteWrite_off hw hb, fun hp he ho => ⟨fun hh => ?_, fun hh => ?_⟩⟩ <;>
    rw [exec_irteWrite_on hw hb hp he]
  · rw [irteDeliver_held n ho hh]
  · rw [irteDeliver_pends n ho hh]

/-- Settles O28: the routing clauses by the equations above for each branch of a message's delivery and of a write, the merging clauses by
induction on the pending interrupts. -/
theorem interruptRoutingAndMerging : Obligations.InterruptRoutingAndMerging := by
  unfold Obligations.InterruptRoutingAndMerging
  simp only [← irteCounted_eq]
  refine ⟨fun s c k w n v => ?_, fun irqs p => ?_⟩
  · obtain ⟨hoff, hon, hdrop⟩ := exec_interruptMessage_cases n s
    refine ⟨hoff, hon, hdrop, fun hw he hv => ?_, fun hw hg => ?_, fun hw hp ho hc hl => ?_, fun hw h => ?_, fun hp hl hr ht => ?_⟩
    · exact exec_irteWrite_bad hw ((irteBad_iff ..).mpr ⟨he, hv⟩)
    · refine exec_irteWrite_good n v hw (Bool.eq_false_iff.mpr fun hb => ?_)
      obtain ⟨he, hv⟩ := (irteBad_iff ..).mp hb
      exact hg.elim (fun h => Bool.eq_false_iff.mp h he) hv
    · rw [exec_iswi_open c v hw, iswiStore_pends hp ho hc hl]
    · rw [exec_iswi_open c v hw, iswiStore_ignored h]
    · have hx := exec_coreTimer_moves hp hl hr ht
      exact ⟨hx, _, hx, timer_mem_pendingOf (BitVec.le_refl _)⟩
  · refine ⟨fun hn => ?_, fun q hq => ⟨q.join p, ?_, q.join_lvl p, q.join_prio p⟩, fun c hc => mergeIrq_find_other hc irqs, mergeIrq_nodup p⟩
    · rw [mergeIrq_find_same, hn]
    · rw [mergeIrq_find_same, hq]

end Machine
end Sys2Proof
end

section
/-! PROOFS. Fences: what a fenced wing cache still sends is counted once more when the request counted lets its reduction begin (R22, R443,
R445, R446). -/

namespace Sys2Proof
namespace Machine

/-! ## A late speaker (R445) -/

/-- Requests that meet a closed floodgate are counted, and then the pumphouse takes the events that it can. -/
theorem exec_lateSpeaker_shut {port : BitVec 8} {n : BitVec 32} {s : State} (hg : (s.gate port.toNat).open_ = false)
    (hp : port.toNat < 0x43) (hn : n ≠ 0) :
    exec (.lateSpeaker port n) s = .next (takeEvents (lateSpeak port.toNat n.toNat s)) := by
  have hn' : n.toNat ≠ 0 := fun h => hn (BitVec.eq_of_toNat_eq h)
  change Host.Outcome.next (lateSpeaker port.toNat n.toNat s) = _
  simp [lateSpeaker, hg, Nat.not_le.mpr hp, hn']

/-! ## The state that refutes the count -/

/-- Wing cache 0 holds a dirty line in way 1. Way 3 of wing cache 1 has given corrected errors at 16 lines, and their event waits for its
WAY_DISABLE (R450). -/
def wornWing : State :=
  { State.reset with
    wings := (State.reset.wings.set 0 { Wing.reset with cache := [(1, { ways := [(1, ⟨1, .m, 0⟩)] })] }).set 1
      { Wing.reset with wayErrs := (List.range 16).map fun n => (3, n, 0) }
    th := { State.reset.th with node := some 0 }
    power := { State.reset.power with rootLock := true }
    coff := { State.reset.coff with events := [⟨0x01, 0x29, 1, 0, 0, 0, 0, 0, 0, 0, false⟩] } }

/-- A watchdog fences wing cache 0, whose reduction waits behind that event (R452). Then 24 hours pass: the errors count no longer, and it is the
reduction's turn. -/
def fencedWing : State := { unitFault 0x09 0x28 wornWing with ltime := dayTicks }

/-- `fencedWing` meets the hypotheses of the clause on late speakers, and no request has met its floodgate yet. -/
theorem fencedWing_shut :
    fencedWing.coff.dieStop = false ∧ fencedWing.porch.direct = none ∧ fencedWing.coff.events.length < 256 ∧ fencedWing.coff.sramErr = none ∧
      (fencedWing.gate 0x28).open_ = false ∧ (fencedWing.gate 0x28).drop = 0 := by decide +kernel

/-- The late request itself is counted once. -/
theorem lateSpeak_fencedWing_drop : ((lateSpeak 0x28 1 fencedWing).gate 0x28).drop = 1 := by decide +kernel

/-- The reduction that follows disables way 1, whose dirty line goes to a floodgate that is still closed: its write-back is counted as well. -/
theorem takeEvents_fencedWing_drop :
    ((takeEvents (lateSpeak 0x28 1 fencedWing)).gate 0x28).drop = ((lateSpeak 0x28 1 fencedWing).gate 0x28).drop + 1 := by decide +kernel

/-! ## The obligation -/

/-- Refutes O40: FGDROP goes up by more than the requests of LATE_SPEAKER. In `fencedWing` the command lets the wing's reduction begin, and what
the wing writes back in it, before its floodgate opens again, is dropped and counted too. -/
theorem not_faultyUnitsAreFenced : ¬ Obligations.FaultyUnitsAreFenced := by
  unfold Obligations.FaultyUnitsAreFenced
  intro h
  obtain ⟨hstop, hdirect, hlen, hsram, hshut, hzero⟩ := fencedWing_shut
  obtain ⟨-, -, hclauses⟩ := h fencedWing 0 0x28 1 false hstop hdirect
  obtain ⟨-, -, -, -, hlate, -⟩ := hclauses hlen hsram
  obtain ⟨t, hexec, hdrop⟩ := hlate hshut (by decide) (by decide)
  have hruns : exec (.lateSpeaker 0x28 1) fencedWing = .next (takeEvents (lateSpeak 0x28 1 fencedWing)) :=
    exec_lateSpeaker_shut hshut (by decide) (by decide)
  have ht : t = takeEvents (lateSpeak 0x28 1 fencedWing) := Host.Outcome.next.inj (hexec.symm.trans hruns)
  have hone : (t.gate 0x28).drop = satAdd 0 1 := hzero ▸ hdrop
  rw [ht, takeEvents_fencedWing_drop, lateSpeak_fencedWing_drop] at hone
  exact absurd hone (by decide)

end Machine
end Sys2Proof
end

section
/-! PROOFS. Ranges of the strongroom SRAM as tile instructions check, read and write them, how a tile instruction of a ready core runs, and the
tiles of a core (R114, R128, R129, R133 to R137, R143, R269). -/

namespace Sys2Proof
namespace Machine

/-! ## Loops over a list -/

/-- A loop whose every round leaves the state as it is. -/
theorem mapM_run_same {α β : Type} {f : α → M β} {g : α → β} {s : State} {xs : List α} (h : ∀ x ∈ xs, f x s = .ok (g x) s) :
    xs.mapM f s = .ok (xs.map g) s := by
  induction xs with
  | nil => rfl
  | cons x xs ih =>
    rw [List.mapM_cons, bind_ok (h x List.mem_cons_self), bind_ok (ih fun y hy => h y (List.mem_cons_of_mem _ hy))]
    rfl

theorem forM_run_same {α : Type} {f : α → M Unit} {s : State} {xs : List α} (h : ∀ x ∈ xs, f x s = .ok () s) : xs.forM f s = .ok () s := by
  induction xs with
  | nil => rfl
  | cons x xs ih =>
    exact (bind_ok (h x List.mem_cons_self)).trans (ih fun y hy => h y (List.mem_cons_of_mem _ hy))

/-- A loop whose rounds each change the state in their own way. -/
theorem forM_run_foldl {α : Type} {f : α → M Unit} {g : State → α → State} {xs : List α} (h : ∀ x ∈ xs, ∀ s, f x s = .ok () (g s x))
    (s : State) : xs.forM f s = .ok () (xs.foldl g s) := by
  induction xs generalizing s with
  | nil => rfl
  | cons x xs ih =>
    exact (bind_ok (h x List.mem_cons_self s)).trans (ih (fun y hy => h y (List.mem_cons_of_mem _ hy)) (g s x))

/-! ## Bytes (R14) -/

theorem rdBytes_add (m : List Host.Cell) (a i j : Nat) : rdBytes m a (i + j) = rdBytes m a i ++ rdBytes m (a + i) j := by
  induction i generalizing a with
  | zero => simp [rdBytes]
  | succ i ih => simp [Nat.succ_add, rdBytes, ih, Nat.add_assoc]

theorem wrBytes_append (m : List Host.Cell) (a : Nat) (xs ys : List Byte) :
    wrBytes m a (xs ++ ys) = wrBytes (wrBytes m a xs) (a + xs.length) ys := by
  induction xs generalizing m a with
  | nil => rfl
  | cons x xs ih => simp [wrBytes, ih, Nat.add_comm 1, Nat.add_assoc]

theorem add_256_mul_add (b x p y : Nat) : b + 256 * (x + p * y) = b + 256 * x + p * 256 * y := by
  rw [Nat.mul_add, Nat.mul_left_comm, Nat.mul_assoc p, Nat.add_assoc]

theorem fromLe_append (xs ys : List Byte) : fromLe (xs ++ ys) = fromLe xs + 256 ^ xs.length * fromLe ys := by
  induction xs with
  | nil => simp [fromLe]
  | cons x xs ih => rw [List.cons_append, fromLe, ih, List.length_cons, Nat.pow_succ, add_256_mul_add, fromLe]

theorem fromLe_lt (xs : List Byte) : fromLe xs < 256 ^ xs.length := by
  induction xs with
  | nil => simp [fromLe]
  | cons x xs ih =>
    have hx := x.isLt
    simp only [fromLe, List.length_cons, Nat.pow_succ]
    omega

/-- The low bytes of a number whose value begins with those of a list are the list. -/
theorem toLe_fromLe_add (xs : List Byte) (v : Nat) : toLe xs.length (fromLe xs + 256 ^ xs.length * v) = xs := by
  induction xs with
  | nil => rfl
  | cons x xs ih =>
    have hx := x.isLt
    have he : fromLe (x :: xs) + 256 ^ (x :: xs).length * v = x.toNat + 256 * (fromLe xs + 256 ^ xs.length * v) := by
      rw [add_256_mul_add, fromLe, List.length_cons, Nat.pow_succ]
    rw [he, List.length_cons, toLe, Nat.add_mul_div_left _ _ (by omega), Nat.div_eq_of_lt hx, Nat.zero_add, ih]
    congr 1
    exact BitVec.eq_of_toNat_eq (by rw [BitVec.toNat_ofNat]; omega)

/-- A row of equal rows that are kept as one number is read back. -/
theorem toLe_fromLe_flatten {n : Nat} {rows : List (List Byte)} (hl : ∀ x ∈ rows, x.length = n) {r : Nat} (hr : r < rows.length) :
    toLe n (fromLe rows.flatten / 2 ^ (8 * n * r)) = rows[r] := by
  induction rows generalizing r with
  | nil => simp at hr
  | cons x xs ih =>
    have hx : x.length = n := hl x List.mem_cons_self
    subst hx
    rw [List.flatten_cons, fromLe_append]
    cases r with
    | zero => simpa using toLe_fromLe_add x _
    | succ r =>
      have hp : 2 ^ (8 * x.length * (r + 1)) = 256 ^ x.length * 2 ^ (8 * x.length * r) := by
        rw [Nat.mul_add, Nat.pow_add, Nat.mul_one, Nat.pow_mul 2 8 x.length, Nat.mul_comm]
      rw [hp, ← Nat.div_div_eq_div_mul, Nat.add_mul_div_left _ _ (Nat.pow_pos (by omega)), Nat.div_eq_of_lt (fromLe_lt x), Nat.zero_add,
        List.getElem_cons_succ]
      exact ih (fun y hy => hl y (List.mem_cons_of_mem _ hy)) (by simpa using hr)

/-! ## The strongroom SRAM in parts -/

@[simp] theorem sramBytes_length (c : CoreId) (a n : Nat) (s : State) : (sramBytes c a n s).length = n := rdBytes_length ..

theorem sramBytes_add {c : CoreId} {a : Nat} (i j : Nat) (s : State) (h : 0xFFC0000000000 ≤ a) :
    sramBytes c a (i + j) s = sramBytes c a i s ++ sramBytes c (a + i) j s := by
  rw [sramBytes, rdBytes_add, sramBytes, sramBytes, Nat.sub_add_comm h]

theorem sramBytes_sub {c : CoreId} {a n i j : Nat} (s : State) (h : 0xFFC0000000000 ≤ a) (hn : i + j ≤ n) :
    ((sramBytes c a n s).drop i).take j = sramBytes c (a + i) j s := by
  obtain ⟨m, rfl⟩ := Nat.exists_eq_add_of_le hn
  rw [Nat.add_assoc, sramBytes_add i _ s h, List.drop_left' (sramBytes_length ..), sramBytes_add j m s (by omega),
    List.take_left' (sramBytes_length ..)]

theorem State.modCore_self {s : State} {c : CoreId} {f : Core → Core} (h : f (s.core c) = s.core c) : s.modCore c f = s := by
  rw [State.modCore, h, State.setCore_core]

theorem sramPut_nil (c : CoreId) (a : Nat) (s : State) : sramPut c a [] s = s := by
  have hf (o : Nat) : (s.core c).sramBad.filter (fun x => x < o || o + ([] : List Byte).length ≤ x) = (s.core c).sramBad := by
    refine List.filter_eq_self.mpr fun x _ => ?_
    rcases Nat.lt_or_ge x o with h | h <;> simp [h]
  refine State.modCore_self ?_
  rw [hf]
  rfl

/-- Bytes written one after the other are written as one. -/
theorem sramPut_append {c : CoreId} {a : Nat} (xs ys : List Byte) (s : State) (h : 0xFFC0000000000 ≤ a) :
    sramPut c (a + xs.length) ys (sramPut c a xs s) = sramPut c a (xs ++ ys) s := by
  unfold sramPut
  rw [State.modCore_modCore, Nat.sub_add_comm h]
  generalize a - 0xFFC0000000000 = o
  refine State.modCore_congr _ _ ?_
  simp only [wrBytes_append, List.filter_filter, List.length_append]
  congr 2
  funext x
  rw [Bool.eq_iff_iff]
  simp only [Bool.and_eq_true, Bool.or_eq_true, decide_eq_true_eq]
  omega

theorem InSram.part {c : CoreId} {a n b m : Nat} {s : State} (h : InSram c a n s) (hb : a ≤ b) (hm : b + m ≤ a + n) : InSram c b m s where
  base := Nat.le_trans h.base hb
  top := Nat.le_trans hm h.top
  good i hi := by
    have hg := h.good (b - a + i) (by omega)
    have := h.base
    rwa [show a - 0xFFC0000000000 + (b - a + i) = b - 0xFFC0000000000 + i by omega] at hg

/-- Consecutive parts that make up n bytes from an address on. -/
inductive Covers : Nat → Nat → List (Nat × Nat) → Prop
  | nil (a : Nat) : Covers a 0 []
  | cons {a n k : Nat} {ps : List (Nat × Nat)} (hk : 0 < k) (h : Covers (a + k) n ps) : Covers a (k + n) ((a, k) :: ps)

theorem Covers.inside {a n : Nat} {ps : List (Nat × Nat)} (h : Covers a n ps) {p : Nat × Nat} (hp : p ∈ ps) :
    0 < p.2 ∧ a ≤ p.1 ∧ p.1 + p.2 ≤ a + n := by
  induction h with
  | nil => simp at hp
  | @cons a n k ps hk _ ih =>
    rcases List.mem_cons.mp hp with rfl | hp
    · simp [hk]
    · have := ih hp
      omega

theorem pieces_covers {fuel a n : Nat} (h : n = 0 ∨ a % 64 + n ≤ 64 * fuel) : Covers a n (pieces fuel a n) := by
  induction fuel generalizing a n with
  | zero =>
    obtain rfl : n = 0 := by omega
    exact .nil a
  | succ fuel ih =>
    unfold pieces
    split
    · rename_i hn
      exact hn ▸ .nil a
    · have hk : Nat.min n (64 - a % 64) = min n (64 - a % 64) := rfl
      have hc := ih (a := a + Nat.min n (64 - a % 64)) (n := n - Nat.min n (64 - a % 64)) (by omega)
      have := Covers.cons (by omega) hc
      rwa [Nat.add_sub_cancel' (Nat.min_le_left _ _)] at this

theorem splitLines_covers (a n : Nat) : Covers a n (splitLines a n) := pieces_covers (.inr (by omega))

/-! ## Checks, reads and writes of ranges -/

/-- The piece of a part of the SRAM. -/
def sramPiece (k : Core) (p : Nat × Nat) : Piece := ⟨p.1, p.1, p.2, k.polder, .sram (p.1 - 0xFFC0000000000), false⟩

/-- The pieces of a range of the SRAM. -/
def sramPieces (k : Core) (r : Nat × Nat) : List Piece := (splitLines r.1 r.2).map (sramPiece k)

theorem tilePiece_sram {c : CoreId} {s : State} {need : Need} {a n : Nat} (hp : Physical c s) (h : InSram c a n s) (hn : 0 < n) :
    tilePiece c false need a n s = .ok (sramPiece (s.core c) (a, n)) s := by
  have htop := h.top
  have hl : (s.core c).pl.ult 2#2 = false := hp.level
  have hw := srwinOk_of_level hl (a - 0xFFC0000000000) n
  have hm : a % 18446744073709551616 = a := Nat.mod_eq_of_lt (by omega)
  unfold tilePiece checkPiece
  simp [hm, hp.outside, hl, kindOf, place_sram h.base (by omega), hw, sramPiece]

theorem tilePieces_sram {c : CoreId} {s : State} {need : Need} {r : Nat × Nat} (hp : Physical c s) (h : InSram c r.1 r.2 s) :
    tilePieces c false need r.1 r.2 s = .ok (sramPieces (s.core c) r) s :=
  mapM_run_same fun _ hx =>
    have ⟨hpos, hlo, hhi⟩ := (splitLines_covers r.1 r.2).inside hx
    tilePiece_sram hp (h.part hlo hhi) hpos

theorem mem_insertRange {x y : Nat × Nat} {xs : List (Nat × Nat)} : x ∈ insertRange y xs ↔ x = y ∨ x ∈ xs := by
  induction xs with
  | nil => simp [insertRange]
  | cons z zs ih =>
    unfold insertRange
    split
    · simp
    · simp [ih, or_left_comm]

theorem mem_sortRanges {x : Nat × Nat} {xs : List (Nat × Nat)} : x ∈ sortRanges xs ↔ x ∈ xs := by
  induction xs with
  | nil => rfl
  | cons y ys ih => rw [List.mem_cons, ← ih]; exact mem_insertRange

theorem tileCheck_sram {c : CoreId} {s : State} {need : Need} {rs : List (Nat × Nat)} (hp : Physical c s) (h : ∀ r ∈ rs, InSram c r.1 r.2 s) :
    tileCheck c need rs s = .ok () s :=
  forM_run_same fun r hr => bind_ok (tilePieces_sram hp (h r (mem_sortRanges.mp hr)))

theorem tilePlan_sram {c : CoreId} {s : State} {rs : List (Nat × Nat)} (hp : Physical c s) (h : ∀ r ∈ rs, InSram c r.1 r.2 s) :
    tilePlan c rs s = .ok (rs.map (sramPieces (s.core c))) s :=
  (bind_ok (tileCheck_sram hp h)).trans (mapM_run_same fun r hr => tilePieces_sram hp (h r hr))

/-- One round of `readPieces`. -/
def readOnto (c : CoreId) (acc : List Byte) (p : Piece) : M (List Byte) := do
  let r ← readPiece c p
  if r.1 ≠ 0 then raise 3 (busSub r.1) (some (BitVec.ofNat 64 p.va)) else pure (acc ++ r.2)

theorem readPieces_eq (c : CoreId) (ps : List Piece) : readPieces c ps = ps.foldlM (readOnto c) [] := rfl

/-- Consecutive sound parts are read as one. -/
theorem readPieces_covers {c : CoreId} {s : State} {a n : Nat} {ps : List (Nat × Nat)} (hc : Covers a n ps) (h : InSram c a n s) :
    readPieces c (ps.map (sramPiece (s.core c))) s = .ok (sramBytes c a n s) s := by
  rw [readPieces_eq]
  suffices hacc : ∀ acc, (ps.map (sramPiece (s.core c))).foldlM (readOnto c) acc s = .ok (acc ++ sramBytes c a n s) s from
    hacc []
  induction hc with
  | nil => intro acc; simp [sramBytes, rdBytes]
  | @cons a n k ps hk _ ih =>
    intro acc
    have hr : readPiece c (sramPiece (s.core c) (a, k)) s = .ok (0, sramBytes c a k s) s :=
      readPiece_sram (h.part (Nat.le_refl a) (by omega))
    have hone : readOnto c acc (sramPiece (s.core c) (a, k)) s = .ok (acc ++ sramBytes c a k s) s := by simp [readOnto, hr]
    rw [sramBytes_add k n s h.base, ← List.append_assoc, List.map_cons, List.foldlM_cons]
    exact (bind_ok hone).trans (ih (h.part (by omega) (by omega)) _)

theorem readPieces_sram {c : CoreId} {s : State} {r : Nat × Nat} (h : InSram c r.1 r.2 s) :
    readPieces c (sramPieces (s.core c) r) s = .ok (sramBytes c r.1 r.2 s) s := readPieces_covers (splitLines_covers r.1 r.2) h

theorem tileRead_sram {c : CoreId} {s : State} {rs : List (Nat × Nat)} (hp : Physical c s) (h : ∀ r ∈ rs, InSram c r.1 r.2 s) :
    tileRead c rs s = .ok ((sortRanges rs).map fun r => (r.1, sramBytes c r.1 r.2 s)) s := by
  refine mapM_run_same fun r hr => ?_
  have hin := h r (mem_sortRanges.mp hr)
  exact (bind_ok (tilePieces_sram hp hin)).trans (bind_ok (readPieces_sram hin))

/-- Bytes found by the address of their range, where no other range of the list has that address. -/
theorem find_read {c : CoreId} {s : State} {rs : List (Nat × Nat)} {r : Nat × Nat} (hr : r ∈ rs) (hu : ∀ q ∈ rs, q.1 = r.1 → q = r) :
    ((sortRanges rs).map fun r => (r.1, sramBytes c r.1 r.2 s)).find? (fun e => e.1 = r.1) = some (r.1, sramBytes c r.1 r.2 s) := by
  generalize hf : ((sortRanges rs).map fun r => (r.1, sramBytes c r.1 r.2 s)).find? (fun e => e.1 = r.1) = o
  cases o with
  | none =>
    have hn := List.find?_eq_none.mp hf _ (List.mem_map.mpr ⟨r, mem_sortRanges.mpr hr, rfl⟩)
    simp at hn
  | some e =>
    obtain ⟨q, hq, rfl⟩ := List.mem_map.mp (List.mem_of_find?_eq_some hf)
    have he : q.1 = r.1 := by simpa using List.find?_some hf
    rw [hu q (mem_sortRanges.mp hq) he]

/-- A part of a buffered store, in the SRAM. -/
theorem writePieces_sram (c : CoreId) (src : BitVec 2) (k : Core) (p : Nat × Nat) {bs : List Byte} (h : bs.length = p.2) (s : State) :
    writePieces c src p.1 [sramPiece k p] bs s = .ok () (sramPut c p.1 bs s) := by
  have ht : bs.take p.2 = bs := List.take_of_length_le (by omega)
  unfold writePieces preparePiece sramPiece
  simp [ht, writePiece_sram]

/-- One round of `storeParts`. -/
def storeNext (c : CoreId) (src : BitVec 2) (rest : List Byte) (p : Piece) : M (List Byte) := do
  writePieces c src p.va [p] (rest.take p.n)
  pure (rest.drop p.n)

/-- Consecutive parts are written as one. -/
theorem storeParts_covers {c : CoreId} {src : BitVec 2} (k : Core) {a n : Nat} {ps : List (Nat × Nat)} {bs : List Byte}
    (hc : Covers a n ps) (hn : bs.length = n) (h : 0xFFC0000000000 ≤ a) (s : State) :
    storeParts c src (ps.map (sramPiece k)) bs s = .ok () (sramPut c a bs s) := by
  suffices hrest : (ps.map (sramPiece k)).foldlM (storeNext c src) bs s = .ok [] (sramPut c a bs s) from bind_ok hrest
  induction hc generalizing s bs with
  | nil a =>
    obtain rfl : bs = [] := List.length_eq_zero_iff.mp hn
    rw [sramPut_nil]
    rfl
  | @cons a n m ps hm _ ih =>
    have htake : (bs.take m).length = m := by rw [List.length_take]; omega
    have hw : storeNext c src bs (sramPiece k (a, m)) s = .ok (bs.drop m) (sramPut c a (bs.take m) s) :=
      bind_ok (writePieces_sram c src k (a, m) htake s)
    have hput := sramPut_append (c := c) (bs.take m) (bs.drop m) s h
    rw [htake, List.take_append_drop] at hput
    rw [← hput, List.map_cons, List.foldlM_cons]
    exact (bind_ok hw).trans (ih (by rw [List.length_drop]; omega) (by omega) _)

/-- Checked ranges are written in order. -/
theorem tileWrite_sram (c : CoreId) (k : Core) {α : Type} {xs : List α} {r : α → Nat × Nat} {bs : α → List Byte}
    (h : ∀ x ∈ xs, 0xFFC0000000000 ≤ (r x).1 ∧ (bs x).length = (r x).2) (s : State) :
    tileWrite c (xs.map fun x => sramPieces k (r x)) (xs.map bs) s = .ok () (xs.foldl (fun u x => sramPut c (r x).1 (bs x) u) s) := by
  have hrun := forM_run_foldl (f := fun x => storeParts c 1 (sramPieces k (r x)) (bs x)) (g := fun u x => sramPut c (r x).1 (bs x) u)
    (fun x hx => storeParts_covers k (splitLines_covers _ _) (h x hx).2 (h x hx).1) s
  unfold tileWrite
  rw [List.zip_map', ← hrun]
  exact congrFun (List.forM_map ..) s

/-! ## One tile instruction -/

/-- A tile instruction of a ready core whose body ends normally retires. -/
theorem tileOp_runs {c : CoreId} {w : BitVec 32} {ok : Core → Bool} {body : M Next} {s t : State} (h : TileReady c s)
    (hok : ok (s.core c) = true) (hx : body s = .ok .seq t) : tileOp c w ok body s = .next (retire c .seq t) :=
  instr_ready h.toReady loopEnd_of_not (by simp) (by simp [h.outside, h.enabled, h.running, hok, hx])

/-- One whose body raises an exception takes it. -/
theorem tileOp_raises {c : CoreId} {w : BitVec 32} {ok : Core → Bool} {body : M Next} {s u : State} {e : Exc} (h : TileReady c s)
    (hok : ok (s.core c) = true) (hx : body s = .error (.exc e) s) (hu : takeExc c e s = .ok () u) : tileOp c w ok body s = .next u :=
  instr_raises h.toReady loopEnd_of_not (by simp [h.outside, h.enabled, h.running, hok, hx]) hu

/-! Nothing is in flight. -/

theorem Core.drain_idle {p : Flight → Bool} {n : Nat} {k : Core} (h : k.flight = []) : Core.drain p n k = k := by
  cases n <;> simp [Core.drain, h]

theorem waitAll_idle {c : CoreId} {s : State} (h : (s.core c).flight = []) : waitAll c s = .ok ⟨⟩ s := by
  simp [waitAll, State.modCore, Core.drainAll, Core.drain_idle h]

theorem waitTile_idle {c : CoreId} {t : Nat} {s : State} (h : (s.core c).flight = []) : waitTile c t s = .ok ⟨⟩ s := by
  simp [waitTile, State.modCore, Core.drainAcc, Core.drain_idle h]

/-! ## The tiles of a core (R114, R128) -/

theorem Core.tile_setTile_same (k : Core) {t x : Nat} (hx : x < 2 ^ (8 * (32 * rowBytes t))) : (k.setTile t x).tile t = x := by
  have hmod (w : Nat) (hw : 8 * (32 * rowBytes t) = w) : (BitVec.ofNat w x).toNat = x := by
    rw [BitVec.toNat_ofNat, Nat.mod_eq_of_lt (hw ▸ hx)]
  unfold Core.setTile Core.tile
  by_cases h8 : t < 8
  · simp [h8, hmod 32768 (by simp [rowBytes, h8])]
  · by_cases h16 : t < 16
    · simp [h8, h16, hmod 65536 (by simp [rowBytes, h8, h16])]
    · simp [h8, h16, hmod 8192 (by simp [rowBytes, h8, h16])]

theorem accOf_ne {t m : Nat} (h : t % 8 ≠ m % 8) : (accOf t).val ≠ (accOf m).val := h

theorem Core.tile_setTile_other (k : Core) {t m : Nat} (x : Nat) (ht : t < 24) (hm : m < 24) (h : m ≠ t) :
    (k.setTile t x).tile m = k.tile m := by
  unfold Core.setTile Core.tile
  by_cases t8 : t < 8 <;> by_cases m8 : m < 8
  · simp [t8, m8, accOf_ne (t := t) (m := m) (by omega)]
  · simp [t8, m8]
  · by_cases t16 : t < 16 <;> simp [t8, t16, m8]
  · by_cases t16 : t < 16 <;> by_cases m16 : m < 16
    · simp [t8, t16, m8, m16, accOf_ne (t := t) (m := m) (by omega)]
    · simp [t8, t16, m8, m16]
    · simp [t8, t16, m8, m16]
    · simp [t8, t16, m8, m16, accOf_ne (t := t) (m := m) (by omega)]

/-! The bank that a code names. -/

theorem Core.setTile_tl (k : Core) {t : Nat} (x : Nat) (h : t < 8) :
    k.setTile t x = { k with tl := k.tl.set (accOf t).val (BitVec.ofNat 32768 x) } := if_pos h
theorem Core.setTile_acc (k : Core) {t : Nat} (x : Nat) (h8 : 8 ≤ t) (h16 : t < 16) :
    k.setTile t x = { k with acc := k.acc.set (accOf t).val (BitVec.ofNat 65536 x) } := (if_neg (Nat.not_lt.mpr h8)).trans (if_pos h16)
theorem Core.setTile_sc (k : Core) {t : Nat} (x : Nat) (h : 16 ≤ t) :
    k.setTile t x = { k with sc := k.sc.set (accOf t).val (BitVec.ofNat 8192 x) } :=
  (if_neg (by omega)).trans (if_neg (Nat.not_lt.mpr h))

/-- A tile write changes the three banks of tiles only. -/
theorem Core.setTile_banks (k : Core) (t x : Nat) :
    k.setTile t x = { k with tl := (k.setTile t x).tl, acc := (k.setTile t x).acc, sc := (k.setTile t x).sc } := by
  rcases Nat.lt_or_ge t 8 with h8 | h8
  · rw [k.setTile_tl x h8]
  · rcases Nat.lt_or_ge t 16 with h16 | h16
    · rw [k.setTile_acc x h8 h16]
    · rw [k.setTile_sc x h16]

@[simp] theorem Core.tile_useTile (k : Core) (t m : Nat) : (k.useTile t).tile m = k.tile m := rfl

@[simp] theorem Core.tileRow_length (k : Core) (t r : Nat) : (k.tileRow t r).length = rowBytes t := toLe_length ..

theorem Core.tileRow_of_tile {k : Core} {t r : Nat} {rows : List (List Byte)} (hl : ∀ x ∈ rows, x.length = rowBytes t)
    (ht : k.tile t = fromLe rows.flatten) (hr : r < rows.length) : k.tileRow t r = rows[r] := by
  rw [Core.tileRow, ht]
  exact toLe_fromLe_flatten hl hr

end Machine
end Sys2Proof
end

section
/-! PROOFS. Tile loads and stores row by row; tzero, tcfg and tsync (R121, R125, R131 to R134, R137 to R139). -/

namespace Sys2Proof
namespace Machine

/-! ## Rows in the strongroom SRAM (R131, R133) -/

/-- The address of row r. -/
def rowAddr (base stride : Word) (r : Nat) : Nat := (base + BitVec.ofNat 64 r * stride).toNat

theorem rowAddrs_eq (base stride : Word) (n : Nat) : rowAddrs base stride n = (List.range (n + 1)).map (rowAddr base stride) := rfl

/-- Rows 0 to n of a tile at these addresses lie aligned in the strongroom SRAM. -/
def RowsInSram (c : CoreId) (t : Nat) (base stride : Word) (n : Nat) (s : State) : Prop :=
  ∀ r ≤ n, InSram c (rowAddr base stride r) (rowBytes t) s ∧ rowAddr base stride r % (if t < 16 then 64 else 32) = 0

/-- The ranges of rows 0 to n. -/
def rowRanges (t : Nat) (base stride : Word) (n : Nat) : List (Nat × Nat) :=
  (List.range (n + 1)).map fun r => (rowAddr base stride r, rowBytes t)

theorem rowRanges_eq (t : Nat) (base stride : Word) (n : Nat) :
    (rowAddrs base stride n).map (fun x => (x, rowBytes t)) = rowRanges t base stride n := by
  rw [rowAddrs_eq, List.map_map]
  rfl

theorem RowsInSram.ranges {c : CoreId} {t n : Nat} {base stride : Word} {s : State} (h : RowsInSram c t base stride n s) :
    ∀ r ∈ rowRanges t base stride n, InSram c r.1 r.2 s := by
  intro r hr
  obtain ⟨i, hi, rfl⟩ := List.mem_map.mp hr
  exact (h i (Nat.le_of_lt_succ (List.mem_range.mp hi))).1

theorem RowsInSram.rowAlign {c : CoreId} {t n : Nat} {base stride : Word} {s : State} (h : RowsInSram c t base stride n s) :
    Machine.rowAlign t (rowAddrs base stride n) s = .ok () s := by
  have hnone : (rowAddrs base stride n).find? (fun a => a % (if t < 16 then 64 else 32) ≠ 0) = none := by
    rw [List.find?_eq_none, rowAddrs_eq]
    intro a ha
    obtain ⟨i, hi, rfl⟩ := List.mem_map.mp ha
    simp [(h i (Nat.le_of_lt_succ (List.mem_range.mp hi))).2]
  unfold Machine.rowAlign
  rw [hnone]
  rfl

theorem rowAddrs_getElem? (base stride : Word) (n r : Nat) :
    (rowAddrs base stride n)[r]? = if r ≤ n then some (rowAddr base stride r) else none := by
  rw [rowAddrs_eq, List.getElem?_map]
  by_cases h : r ≤ n
  · rw [List.getElem?_range (Nat.lt_succ_of_le h), if_pos h]
    rfl
  · rw [List.getElem?_eq_none (by rw [List.length_range]; omega), if_neg h]
    rfl

/-- What is read for row r is found by its address: rows at the same address are the same bytes. -/
theorem find_row (c : CoreId) {t n r : Nat} (base stride : Word) (s : State) (hr : r ≤ n) :
    ((sortRanges (rowRanges t base stride n)).map fun r => (r.1, sramBytes c r.1 r.2 s)).find? (fun e => e.1 = rowAddr base stride r) =
      some (rowAddr base stride r, sramBytes c (rowAddr base stride r) (rowBytes t) s) := by
  refine find_read (r := (rowAddr base stride r, rowBytes t)) (List.mem_map.mpr ⟨r, List.mem_range.mpr (Nat.lt_succ_of_le hr), rfl⟩) ?_
  intro q hq he
  obtain ⟨i, -, rfl⟩ := List.mem_map.mp hq
  exact Prod.ext he rfl

/-! ## `tld` (R131 to R134) -/

/-- Row r of tile t once `tld` has run. -/
def loadedRow (c : CoreId) (t : Nat) (base stride : Word) (z : Bool) (n : Nat) (s : State) (r : Nat) : List Byte :=
  if r ≤ n then sramBytes c (rowAddr base stride r) (rowBytes t) s else if z then toLe (rowBytes t) 0 else (s.core c).tileRow t r

/-- The tile once `tld` has run. -/
def loadedTile (c : CoreId) (t : Nat) (base stride : Word) (z : Bool) (n : Nat) (s : State) : Nat :=
  fromLe ((List.range 32).map (loadedRow c t base stride z n s)).flatten

theorem loadedRow_length (c : CoreId) (t : Nat) (base stride : Word) (z : Bool) (n : Nat) (s : State) (r : Nat) :
    (loadedRow c t base stride z n s r).length = rowBytes t := by
  unfold loadedRow
  repeat' split
  all_goals simp

theorem loadedRows_length (c : CoreId) (t : Nat) (base stride : Word) (z : Bool) (n : Nat) (s : State) :
    ∀ x ∈ (List.range 32).map (loadedRow c t base stride z n s), x.length = rowBytes t := by
  intro x hx
  obtain ⟨r, -, rfl⟩ := List.mem_map.mp hx
  exact loadedRow_length ..

theorem length_flatten_rows {n : Nat} {rows : List (List Byte)} (hl : ∀ x ∈ rows, x.length = n) : rows.flatten.length = rows.length * n := by
  induction rows with
  | nil => simp only [List.flatten_nil, List.length_nil, Nat.zero_mul]
  | cons x xs ih =>
    rw [List.flatten_cons, List.length_append, hl x List.mem_cons_self, ih fun y hy => hl y (List.mem_cons_of_mem _ hy), List.length_cons,
      Nat.succ_mul, Nat.add_comm]

theorem loadedTile_lt (c : CoreId) (t : Nat) (base stride : Word) (z : Bool) (n : Nat) (s : State) :
    loadedTile c t base stride z n s < 2 ^ (8 * (32 * rowBytes t)) := by
  have h := fromLe_lt ((List.range 32).map (loadedRow c t base stride z n s)).flatten
  have hlen : ((List.range 32).map (loadedRow c t base stride z n s)).flatten.length = 32 * rowBytes t := by
    rw [length_flatten_rows (loadedRows_length c t base stride z n s), List.length_map, List.length_range]
  rwa [hlen, ← Nat.pow_mul 2 8] at h

theorem exec_tld (c : CoreId) (t : BitVec 5) (a b : Reg) (z : Bool) (nr : BitVec 5) (s : State) :
    exec (.tld c t a b z nr) s = execTld c t a b z nr s := rfl

/-- A tile load from the strongroom SRAM. -/
theorem exec_tld_sram {c : CoreId} {t : BitVec 5} {a b : Reg} {z : Bool} {nr : BitVec 5} {s : State} (h : TileReady c s) (hp : Physical c s)
    (ht : t.toNat < 24) (hf : (s.core c).flight = []) (hr : RowsInSram c t.toNat (s.g c a) (s.g c b) nr.toNat s) :
    exec (.tld c t a b z nr) s = .next (retire c .seq (s.setCore c
      (((s.core c).setTile t.toNat (loadedTile c t.toNat (s.g c a) (s.g c b) z nr.toNat s)).useTile t.toNat))) := by
  rw [exec_tld, execTld]
  refine tileOp_runs h (by simp only [ht, decide_true]) ?_
  simp only [bind_run, get_run, hr.rowAlign, rowRanges_eq, tileCheck_sram hp hr.ranges, tileRead_sram hp hr.ranges, waitTile_idle hf,
    modify_run, pure_run]
  congr 1
  refine congrArg (fun x => s.setCore c (((s.core c).setTile t.toNat (fromLe x)).useTile t.toNat)) (congrArg List.flatten ?_)
  refine List.map_congr_left fun r _ => ?_
  rw [rowAddrs_getElem?, loadedRow]
  by_cases hle : r ≤ nr.toNat
  · simp only [if_pos hle, find_row c _ _ s hle]
  · simp only [if_neg hle]

/-- What `tld` leaves: the rows of its tile, the other tiles, the rest of the core. -/
theorem loaded_core (c : CoreId) {t : Nat} (base stride : Word) (z : Bool) (n : Nat) (s : State) (ht : t < 24) :
    let k := s.core c
    let k' := (k.setTile t (loadedTile c t base stride z n s)).useTile t
    (∀ r < 32, k'.tileRow t r = loadedRow c t base stride z n s r) ∧ (∀ m < 24, m ≠ t → k'.tile m = k.tile m) ∧
      k' = { k with tl := k'.tl, acc := k'.acc, sc := k'.sc, tuse := k.tuse ||| BitVec.ofNat 24 (2 ^ t) } := by
  refine ⟨fun r hr => ?_, fun m hm hmt => ?_, ?_⟩
  · rw [Core.tileRow_of_tile (loadedRows_length c t base stride z n s) ?_ (by simpa using hr)]
    · simp
    · rw [Core.tile_useTile, Core.tile_setTile_same _ (loadedTile_lt ..)]
      rfl
  · rw [Core.tile_useTile, Core.tile_setTile_other _ _ ht hm hmt]
  · rw [Core.setTile_banks]
    rfl

/-! ## `tst` (R132, R137) -/

theorem exec_tst (c : CoreId) (t : BitVec 5) (a b : Reg) (z : Bool) (nr : BitVec 5) (s : State) :
    exec (.tst c t a b z nr) s = execTst c t a b z nr s := rfl

/-- Data beyond the ranges is not written. -/
theorem tileWrite_take (c : CoreId) (plan : List (List Piece)) (data : List (List Byte)) :
    tileWrite c plan data = tileWrite c plan (data.take plan.length) := by
  have hzip : plan.zip data = plan.zip (data.take plan.length) := by
    induction plan generalizing data with
    | nil => rfl
    | cons p ps ih =>
      cases data with
      | nil => rfl
      | cons x xs => simp [ih xs]
  rw [tileWrite, tileWrite, hzip]

/-- A tile store to the strongroom SRAM. -/
theorem exec_tst_sram {c : CoreId} {t : BitVec 5} {a b : Reg} {nr : BitVec 5} {s : State} (h : TileReady c s) (hp : Physical c s)
    (ht : t.toNat < 24) (hf : (s.core c).flight = []) (hr : RowsInSram c t.toNat (s.g c a) (s.g c b) nr.toNat s) :
    exec (.tst c t a b false nr) s = .next (retire c .seq ((List.range (nr.toNat + 1)).foldl
      (fun u r => sramPut c (rowAddr (s.g c a) (s.g c b) r) ((s.core c).tileRow t.toNat r) u) s)) := by
  have hn : nr.toNat + 1 ≤ 32 := nr.isLt
  have hwrite := tileWrite_sram c (s.core c) (xs := List.range (nr.toNat + 1))
    (r := fun r => (rowAddr (s.g c a) (s.g c b) r, rowBytes t.toNat)) (bs := (s.core c).tileRow t.toNat)
    (fun r hr' => ⟨(hr r (Nat.le_of_lt_succ (List.mem_range.mp hr'))).1.base, Core.tileRow_length ..⟩) s
  rw [exec_tst, execTst]
  refine tileOp_runs h (by simp only [ht, decide_true, Bool.not_false, Bool.and_true]) ?_
  simp only [bind_run, get_run, hr.rowAlign, rowRanges_eq, tilePlan_sram hp hr.ranges, waitTile_idle hf, pure_run]
  rw [tileWrite_take, ← List.map_take, rowRanges, List.length_map, List.length_map, List.length_range, List.take_range,
    Nat.min_eq_left hn, List.map_map, Function.comp_def, hwrite]

/-! ## `tzero` (R125, R138) -/

/-- The core once tile n is zeroed. -/
def Core.zeroTile (k : Core) (n : Nat) : Core :=
  let k := { k.setTile n 0 with tuse := k.tuse &&& ~~~(BitVec.ofNat 24 (2 ^ n)) }
  if 8 ≤ n && n < 16 then { k with tstat := k.tstat.set (accOf n).val 0 } else k

theorem exec_tzero (c : CoreId) (t : BitVec 5) (s : State) : exec (.tzero c t) s = execTzero c t s := rfl

theorem exec_tzero_idle {c : CoreId} {n : Nat} {s : State} (h : TileReady c s) (hn : n < 24) (hf : (s.core c).flight = []) :
    changesCore c (·.zeroTile n) s (.tzero c (BitVec.ofNat 5 n)) := by
  have hnat : (BitVec.ofNat 5 n).toNat = n := by rw [BitVec.toNat_ofNat]; omega
  rw [changesCore, exec_tzero, execTzero]
  simp only [hnat]
  refine tileOp_runs h (by simp only [hn, decide_true]) ?_
  simp only [bind_run, waitTile_idle hf, modify_run, pure_run]
  rfl

theorem changesCore_congr {c : CoreId} {f g : Core → Core} {s : State} {i : Instr} (h : changesCore c f s i) (he : f (s.core c) = g (s.core c)) :
    changesCore c g s i := by
  rwa [changesCore, ← State.modCore_congr s c he]

theorem accOf_add (b : Nat) (n : Fin 8) (hb : b % 8 = 0) : accOf (b + n.val) = n := by
  apply Fin.ext
  change (b + n.val) % 8 = n.val
  omega

theorem Core.zeroTile_tl (k : Core) (n : Fin 8) :
    k.zeroTile n.val = { k with tl := k.tl.set n.val 0, tuse := k.tuse &&& ~~~(BitVec.ofNat 24 (2 ^ n.val)) } := by
  have ha : accOf n.val = n := by simpa using accOf_add 0 n rfl
  have hn : (8 ≤ n.val && n.val < 16) = false := by rw [decide_eq_false (Nat.not_le.mpr n.isLt), Bool.false_and]
  simp only [Core.zeroTile, k.setTile_tl 0 n.isLt, ha, hn]
  rfl

theorem Core.zeroTile_acc (k : Core) (n : Fin 8) :
    k.zeroTile (8 + n.val) =
      { k with acc := k.acc.set n.val 0, tstat := k.tstat.set n.val 0, tuse := k.tuse &&& ~~~(BitVec.ofNat 24 (2 ^ (8 + n.val))) } := by
  have hn : (8 ≤ 8 + n.val && 8 + n.val < 16) = true := by
    rw [decide_eq_true (Nat.le_add_right 8 n.val), decide_eq_true (show 8 + n.val < 16 by omega), Bool.and_true]
  simp only [Core.zeroTile, k.setTile_acc 0 (Nat.le_add_right 8 n.val) (show 8 + n.val < 16 by omega), accOf_add 8 n rfl, hn]
  rfl

theorem Core.zeroTile_sc (k : Core) (n : Fin 8) :
    k.zeroTile (16 + n.val) = { k with sc := k.sc.set n.val 0, tuse := k.tuse &&& ~~~(BitVec.ofNat 24 (2 ^ (16 + n.val))) } := by
  have hn : (8 ≤ 16 + n.val && 16 + n.val < 16) = false := by
    rw [decide_eq_false (show ¬ 16 + n.val < 16 by omega), Bool.and_false]
  simp only [Core.zeroTile, k.setTile_sc 0 (Nat.le_add_right 16 n.val), accOf_add 16 n rfl, hn]
  rfl

/-! ## `tcfg` (R121) -/

theorem awaitStep_free {c : CoreId} {s : State} (h : s.stepWait c = false) : awaitStep c s = .ok () s := by simp [awaitStep, h]

theorem exec_tcfg (c : CoreId) (a : Reg) (s : State) : exec (.tcfg c a) s = execTcfg c a s := rfl

theorem exec_tcfg_valid {c : CoreId} {a : Reg} {s : State} (h : TileReady c s) (hf : (s.core c).flight = []) (hw : s.stepWait c = false)
    (hv : tcfgOk (s.g c a) = true) : changesCore c (fun k => { k with tcfg := s.g c a }) s (.tcfg c a) := by
  rw [changesCore, exec_tcfg, execTcfg]
  exact tileOp_runs h rfl (by simp [writeTcfg, awaitStep_free hw, waitAll_idle hf, hv])

theorem exec_tcfg_invalid {c : CoreId} {a : Reg} {s : State} (h : TileReady c s) (hf : (s.core c).flight = []) (hw : s.stepWait c = false)
    (hv : tcfgOk (s.g c a) = false) : traps c ⟨1, 0, some ((wordOf 0x14 0 a 0 0x0C0).setWidth 64)⟩ s (.tcfg c a) := by
  intro u hu
  rw [exec_tcfg, execTcfg]
  have hword : tileWord 0x03 0 a.val 0 0 = wordOf 0x14 0 a 0 0x0C0 := by simp [tileWord, wordOf]
  exact tileOp_raises h rfl (by simp [writeTcfg, awaitStep_free hw, waitAll_idle hf, hv, illegal, hword]) hu

/-! ## `tsync` (R139) -/

theorem exec_tsync {c : CoreId} {s : State} (h : TileReady c s) : changesCore c (·.drainAll) s (.tsync c) :=
  tileOp_runs (w := tileWord 0x06 0 0 0 0) (ok := fun _ => true) h rfl (by simp [waitAll])

/-- The oldest operation of an engine that runs commits, where no attempt deviates. -/
theorem Core.commitHead_clean {k : Core} {x : Flight} {xs : List Flight} (hs : k.mxStopped = false) (hf : k.flight = x :: xs) :
    (k.commitHead []).flight = xs ∧ (k.commitHead []).mxStopped = false := by
  have hfin (d : Fin 8) (st : Word) (cells : List Nat) (ck : Bool) :
      (k.finish d st (.commit cells ck)).flight = xs ∧ (k.finish d st (.commit cells ck)).mxStopped = false :=
    ⟨congrArg List.tail hf, hs⟩
  unfold Core.commitHead
  rw [hs, hf]
  simp only [Bool.false_eq_true, if_false]
  split
  · unfold Core.commitFold
    simp only [attempts]
    split
    all_goals exact hfin ..
  · unfold Core.commitMac
    simp only [attempts]
    split
    all_goals exact hfin ..

theorem Core.drain_all {n : Nat} {k : Core} (hs : k.mxStopped = false) (hn : k.flight.length ≤ n) :
    (Core.drain (fun _ => true) n k).flight = [] ∧ (Core.drain (fun _ => true) n k).mxStopped = false := by
  induction n generalizing k with
  | zero => exact ⟨List.length_eq_zero_iff.mp (Nat.le_zero.mp hn), hs⟩
  | succ n ih =>
    cases hf : k.flight with
    | nil => rw [Core.drain_idle hf]; exact ⟨hf, hs⟩
    | cons x xs =>
      obtain ⟨hflight, hstop⟩ := Core.commitHead_clean hs hf
      have hdrain : Core.drain (fun _ => true) (n + 1) k = Core.drain (fun _ => true) n (k.commitHead []) := by simp [Core.drain, hf]
      rw [hdrain]
      exact ih hstop (by rw [hflight]; rw [hf] at hn; simpa using hn)

/-! ## The obligation -/

/-- Settles O16: the loads and stores by running their ranges in the SRAM, the other forms with nothing in flight, `tsync` by the commits of
what is in flight. -/
theorem tileLoadsStoresAndForms : Obligations.TileLoadsStoresAndForms := by
  unfold Obligations.TileLoadsStoresAndForms
  refine ⟨fun s c t a b z nr h hp ht hf hr => ?_, fun s c t a b nr h hp ht hf hr => exec_tst_sram h hp ht hf hr,
    fun s c a h => ⟨fun hf n => ⟨?_, ?_, ?_⟩, fun hf hw => ⟨exec_tcfg_valid h hf hw, exec_tcfg_invalid h hf hw⟩, exec_tsync h,
      Core.drain_all h.running⟩⟩
  · exact ⟨_, exec_tld_sram h hp ht hf hr, loaded_core c _ _ z _ s ht⟩
  · exact changesCore_congr (exec_tzero_idle h (by omega) hf) (Core.zeroTile_tl _ n)
  · exact changesCore_congr (exec_tzero_idle h (by omega) hf) (Core.zeroTile_acc _ n)
  · exact changesCore_congr (exec_tzero_idle h (by omega) hf) (Core.zeroTile_sc _ n)

end Machine
end Sys2Proof
end

section
/-! PROOFS. The save image of tile state: `tsave` and `trest` (R140 to R145). -/

namespace Sys2Proof
namespace Machine

/-! ## The image's places (R140) -/

/-- The address of the tile of a code in the image at a base. -/
def imagePlace (base t : Nat) : Nat :=
  base + (if t < 8 then 0x100 + 0x1000 * t else if t < 16 then 0x8100 + 0x2000 * (t - 8) else 0x18100 + 0x400 * (t - 16))

/-- Address and size of a tile in the image. -/
def imageRange (base t : Nat) : Nat × Nat := (imagePlace base t, 32 * rowBytes t)

theorem imagePart_range (base t : Nat) : (base + (imagePart t).1, (imagePart t).2) = imageRange base t := by
  unfold imagePart imageRange imagePlace rowBytes
  repeat' split
  all_goals rfl

theorem imagePlace_inside (base : Nat) {t : Nat} (h : t < 24) :
    base ≤ imagePlace base t ∧ imagePlace base t + 32 * rowBytes t ≤ base + 0x1A100 := by
  unfold imagePlace rowBytes
  repeat' split
  all_goals omega

theorem imagePlace_inj {base t u : Nat} (ht : t < 24) (hu : u < 24) (h : imagePlace base t = imagePlace base u) : t = u := by
  unfold imagePlace at h
  repeat' split at h
  all_goals omega

/-- The codes that a TUSE value marks. -/
def marked (tuse : Word) : List Nat := (List.range 24).filter fun t => bit tuse t

theorem marked_lt {tuse : Word} {t : Nat} (h : t ∈ marked tuse) : t < 24 := List.mem_range.mp (List.mem_filter.mp h).1

theorem mem_marked {tuse : Word} {t : Nat} (ht : t < 24) : t ∈ marked tuse ↔ bit tuse t = true := by simp [marked, ht]

theorem marked_setWidth (x : BitVec 24) : marked (x.setWidth 64) = (List.range 24).filter fun t => x.getLsbD t := by
  refine List.filter_congr fun t ht => ?_
  have := List.mem_range.mp ht
  simp only [bit, BitVec.getLsbD_setWidth, show t < 64 by omega, decide_true, Bool.true_and]

/-- The whole image lies in the strongroom SRAM. -/
structure ImageInSram (c : CoreId) (base : Nat) (s : State) : Prop where
  aligned : base % 256 = 0
  inside : InSram c base 0x1A100 s

section
variable {c : CoreId} {base : Nat} {s : State} (h : ImageInSram c base s)
include h

theorem ImageInSram.align : imageAlign base s = .ok () s := by simp [imageAlign, h.aligned]

theorem ImageInSram.header : InSram c base 256 s := h.inside.part (Nat.le_refl _) (by omega)

theorem ImageInSram.headerPieces (hp : Physical c s) : tilePieces c false needR base 256 s = .ok (sramPieces (s.core c) (base, 256)) s :=
  tilePieces_sram (r := (base, 256)) hp h.header

theorem ImageInSram.readHeader : readPieces c (sramPieces (s.core c) (base, 256)) s = .ok (sramBytes c base 256 s) s :=
  readPieces_sram (r := (base, 256)) h.header

theorem ImageInSram.tile {t : Nat} (ht : t < 24) : InSram c (imageRange base t).1 (imageRange base t).2 s :=
  have ⟨hlo, hhi⟩ := imagePlace_inside base ht
  h.inside.part hlo hhi

theorem ImageInSram.tiles (tuse : Word) : ∀ r ∈ (marked tuse).map (imageRange base), InSram c r.1 r.2 s := by
  intro r hr
  obtain ⟨t, ht, rfl⟩ := List.mem_map.mp hr
  exact h.tile (marked_lt ht)

theorem ImageInSram.imageTiles (tuse : Word) : Machine.imageTiles base tuse = (marked tuse).map fun t => (t, imageRange base t) := by
  refine List.map_congr_left fun t ht => ?_
  have hr := imagePart_range base t
  have htop := (h.tile (marked_lt ht)).top
  rw [← hr] at htop ⊢
  rw [Nat.mod_eq_of_lt (by simp only at htop; omega)]

theorem ImageInSram.imageTiles_ranges (tuse : Word) : (Machine.imageTiles base tuse).map (·.2) = (marked tuse).map (imageRange base) := by
  rw [h.imageTiles, List.map_map]
  rfl

theorem ImageInSram.imageTiles_bytes (tuse : Word) (f : Nat → Nat) :
    ((Machine.imageTiles base tuse).map fun e => toLe e.2.2 (f e.1)) = (marked tuse).map fun t => toLe (32 * rowBytes t) (f t) := by
  rw [h.imageTiles, List.map_map]
  rfl

end

theorem find?_eq_self (ts : List Nat) (t : Nat) : ts.find? (fun u => u = t) = if t ∈ ts then some t else none := by
  induction ts with
  | nil => rfl
  | cons u us ih =>
    by_cases h : u = t
    · simp [h]
    · simp [h, Ne.symm h, ih]

/-- A tile of the image is found by its code where TUSE marks it. -/
theorem find_code {c : CoreId} {base : Nat} {s : State} (h : ImageInSram c base s) {tuse : Word} {t : Nat} (ht : t < 24) :
    (imageTiles base tuse).find? (fun e => e.1 = t) = if bit tuse t then some (t, imageRange base t) else none := by
  rw [h.imageTiles, List.find?_map]
  change ((marked tuse).find? fun u => u = t).map _ = _
  rw [find?_eq_self]
  by_cases hm : bit tuse t = true
  · rw [if_pos hm, if_pos ((mem_marked ht).mpr hm)]
    rfl
  · rw [if_neg hm, if_neg fun h => hm ((mem_marked ht).mp h)]
    rfl

/-- What is read for a marked tile is found by its place. -/
theorem find_imageTile (c : CoreId) (base : Nat) (s : State) {tuse : Word} {t : Nat} (ht : t < 24) (hm : bit tuse t = true) :
    ((sortRanges ((marked tuse).map (imageRange base))).map fun r => (r.1, sramBytes c r.1 r.2 s)).find? (fun e => e.1 = (imageRange base t).1) =
      some ((imageRange base t).1, sramBytes c (imageRange base t).1 (imageRange base t).2 s) := by
  refine find_read (List.mem_map.mpr ⟨t, (mem_marked ht).mpr hm, rfl⟩) ?_
  intro q hq he
  obtain ⟨u, hu, rfl⟩ := List.mem_map.mp hq
  rw [imagePlace_inj (marked_lt hu) ht he]

/-! ## `tsave` (R140, R141, R144) -/

theorem staying_ok {c : CoreId} {m : M Next} {s t : State} {n : Next} (h : m s = .ok n t) : staying c m s = .ok n t := by
  simp [staying, h]

/-- The bytes of the header. -/
def Core.headerBytes (k : Core) : List Byte := k.imageHeader.flatMap fun w => toLe 8 w.toNat

theorem Core.headerBytes_length (k : Core) : k.headerBytes.length = 256 := by
  have hl : k.imageHeader.length = 32 := by simp [Core.imageHeader]
  rw [Core.headerBytes, List.length_flatMap, List.map_congr_left fun w _ => toLe_length 8 w.toNat, List.map_const', hl]
  rfl

theorem exec_tsave (c : CoreId) (a : Reg) (s : State) : exec (.tsave c a) s = execTsave c a s := rfl

/-- The image as ranges with their bytes, in the order of the writes. -/
def Core.image (k : Core) (base : Nat) : List ((Nat × Nat) × List Byte) :=
  ((base, 256), k.headerBytes) :: (marked (k.tuse.setWidth 64)).map fun t => (imageRange base t, toLe (32 * rowBytes t) (k.tile t))

theorem Core.image_ranges (k : Core) (base : Nat) :
    (k.image base).map (·.1) = (base, 256) :: (marked (k.tuse.setWidth 64)).map (imageRange base) := by
  rw [Core.image, List.map_cons, List.map_map]
  rfl

theorem Core.image_bytes (k : Core) (base : Nat) :
    (k.image base).map (·.2) = k.headerBytes :: (marked (k.tuse.setWidth 64)).map fun t => toLe (32 * rowBytes t) (k.tile t) := by
  rw [Core.image, List.map_cons, List.map_map]
  rfl

theorem Core.image_length {k : Core} {base : Nat} {x : (Nat × Nat) × List Byte} (hx : x ∈ k.image base) : x.2.length = x.1.2 := by
  rcases List.mem_cons.mp hx with rfl | hx
  · exact Core.headerBytes_length _
  · obtain ⟨t, -, rfl⟩ := List.mem_map.mp hx
    exact toLe_length ..

/-- A save to the strongroom SRAM. -/
theorem exec_tsave_sram {c : CoreId} {a : Reg} {s : State} (h : TileReady c s) (hp : Physical c s) (hf : (s.core c).flight = [])
    (hi : ImageInSram c (s.g c a).toNat s) :
    exec (.tsave c a) s = .next (retire c .seq (((s.core c).image (s.g c a).toNat).foldl (fun u x => sramPut c x.1.1 x.2 u) s)) := by
  have hin : ∀ r ∈ ((s.core c).image (s.g c a).toNat).map (·.1), InSram c r.1 r.2 s := by
    rw [Core.image_ranges]
    exact List.forall_mem_cons.mpr ⟨hi.header, hi.tiles _⟩
  have hplan := tilePlan_sram hp hin
  have hwrite := tileWrite_sram c (s.core c) (fun x hx => ⟨(hin _ (List.mem_map_of_mem hx)).base, Core.image_length hx⟩) s
  rw [Core.image_bytes] at hwrite
  rw [List.map_map, Core.image_ranges] at hplan
  rw [exec_tsave, execTsave]
  refine tileOp_runs h rfl ?_
  simp only [bind_run, get_run, hi.align, waitAll_idle hf, hi.imageTiles_ranges, hi.imageTiles_bytes, hplan]
  exact staying_ok (bind_ok hwrite)

/-! ## `trest` (R141, R142, R145) -/

theorem markWait_ok {α : Type} {c : CoreId} {f : Core → Core} {m : M α} {s t : State} {x : α} (h : m s = .ok x t) :
    markWait c f m s = .ok x t := by simp [markWait, h]
theorem markWait_exc {α : Type} {c : CoreId} {f : Core → Core} {m : M α} {s t : State} {e : Exc} (h : m s = .error (.exc e) t) :
    markWait c f m s = .error (.exc e) t := by simp [markWait, h]

/-- Doubleword i of the image in memory. -/
def imageWord (c : CoreId) (base : Nat) (s : State) (i : Nat) : Word := BitVec.ofNat 64 (fromLe (sramBytes c (base + 8 * i) 8 s))

/-- The header in memory. -/
def imageWords (c : CoreId) (base : Nat) (s : State) : List Word := (List.range 32).map (imageWord c base s)

theorem imageWords_getD (c : CoreId) (base : Nat) (s : State) {i : Nat} (h : i < 32) : (imageWords c base s).getD i 0 = imageWord c base s i := by
  simp [imageWords, List.getD_eq_getElem?_getD, List.getElem?_range h]

theorem imageWords_eq {c : CoreId} {base : Nat} {s : State} (h : 0xFFC0000000000 ≤ base) :
    ((List.range 32).map fun i => BitVec.ofNat 64 (fromLe (((sramBytes c base 256 s).drop (8 * i)).take 8))) = imageWords c base s := by
  refine List.map_congr_left fun i hi => ?_
  have := List.mem_range.mp hi
  rw [sramBytes_sub s h (by omega)]
  rfl

/-- The value of a tile that the image in memory gives. -/
def imageTile (c : CoreId) (base : Nat) (s : State) (t : Nat) : Nat :=
  if bit (imageWord c base s 0) t then fromLe (sramBytes c (imagePlace base t) (32 * rowBytes t) s) else 0

theorem imageTile_lt (c : CoreId) (base : Nat) (s : State) (t : Nat) : imageTile c base s t < 2 ^ (8 * (32 * rowBytes t)) := by
  unfold imageTile
  split
  · have h := fromLe_lt (sramBytes c (imagePlace base t) (32 * rowBytes t) s)
    rwa [sramBytes_length, ← Nat.pow_mul 2 8] at h
  · exact Nat.pow_pos (by omega)

/-- Tiles of a list of codes take their values. -/
def Core.setTiles (k : Core) (ts : List Nat) (x : Nat → Nat) : Core := ts.foldl (fun k t => k.setTile t (x t)) k

theorem Core.setTiles_congr (k : Core) {ts : List Nat} {x y : Nat → Nat} (h : ∀ t ∈ ts, x t = y t) : k.setTiles ts x = k.setTiles ts y := by
  induction ts generalizing k with
  | nil => rfl
  | cons t ts ih =>
    have hrest := ih (k.setTile t (x t)) fun u hu => h u (List.mem_cons_of_mem _ hu)
    rw [h t List.mem_cons_self] at hrest
    rw [Core.setTiles, List.foldl_cons, h t List.mem_cons_self]
    exact hrest

theorem Core.tile_setTiles (k : Core) {ts : List Nat} {x : Nat → Nat} {t : Nat} (hts : ∀ u ∈ ts, u < 24) (ht : t < 24)
    (hx : x t < 2 ^ (8 * (32 * rowBytes t))) : (k.setTiles ts x).tile t = if t ∈ ts then x t else k.tile t := by
  induction ts generalizing k with
  | nil => simp [Core.setTiles]
  | cons u us ih =>
    have hrest := ih (k.setTile u (x u)) fun v hv => hts v (List.mem_cons_of_mem _ hv)
    by_cases hm : t ∈ us
    · simpa [Core.setTiles, hm] using hrest
    · by_cases htu : t = u
      · subst htu
        simpa [Core.setTiles, hm, Core.tile_setTile_same k hx] using hrest
      · simpa [Core.setTiles, hm, htu, Core.tile_setTile_other k (x u) (hts u List.mem_cons_self) ht htu] using hrest

theorem Core.setTiles_banks (k : Core) (ts : List Nat) (x : Nat → Nat) :
    k.setTiles ts x = { k with tl := (k.setTiles ts x).tl, acc := (k.setTiles ts x).acc, sc := (k.setTiles ts x).sc } := by
  induction ts generalizing k with
  | nil => rfl
  | cons t ts ih =>
    have hone (u : Core) :
        ({ k.setTile t (x t) with tl := u.tl, acc := u.acc, sc := u.sc } : Core) = { k with tl := u.tl, acc := u.acc, sc := u.sc } := by
      rw [Core.setTile_banks]
    exact (ih (k.setTile t (x t))).trans (hone _)

/-- The core with the registers that a header gives. -/
def Core.withHeader (k : Core) (w : Nat → Word) : Core :=
  { k with tuse := (w 0).setWidth 24, tcfg := w 1, ocfg := w 2, tstat := Vector.ofFn fun n => w (4 + n.val) }

@[simp] theorem Core.tile_withHeader (k : Core) (w : Nat → Word) (t : Nat) : (k.withHeader w).tile t = k.tile t := rfl

/-- The core once the image in memory is restored. -/
def Core.imaged (k : Core) (c : CoreId) (base : Nat) (s : State) : Core :=
  (k.setTiles (List.range 24) (imageTile c base s)).withHeader (imageWord c base s)

theorem Core.imaged_tile (k : Core) (c : CoreId) (base : Nat) (s : State) {t : Nat} (ht : t < 24) :
    (k.imaged c base s).tile t = imageTile c base s t := by
  rw [Core.imaged, Core.tile_withHeader, Core.tile_setTiles k (fun _ hu => List.mem_range.mp hu) ht (imageTile_lt c base s t),
    if_pos (List.mem_range.mpr ht)]

theorem Core.imaged_tstat (k : Core) (c : CoreId) (base : Nat) (s : State) (n : Fin 8) :
    (k.imaged c base s).tstat[n.val] = imageWord c base s (4 + n.val) := Vector.getElem_ofFn ..

theorem Core.imaged_frame (k : Core) (c : CoreId) (base : Nat) (s : State) :
    let k' := k.imaged c base s
    k' = { k with tl := k'.tl, acc := k'.acc, sc := k'.sc, tstat := k'.tstat, tuse := (imageWord c base s 0).setWidth 24,
                  tcfg := imageWord c base s 1, ocfg := imageWord c base s 2 } := by
  intro k'
  change Core.imaged k c base s = _
  rw [Core.imaged, Core.setTiles_banks]
  rfl

theorem exec_trest (c : CoreId) (a : Reg) (s : State) : exec (.trest c a) s = execTrest c a s := rfl

section
variable {c : CoreId} {a : Reg} {s : State} (h : TileReady c s) (hp : Physical c s) (hf : (s.core c).flight = [])
  (hi : ImageInSram c (s.g c a).toNat s)
include h hp hf hi

theorem exec_trest_valid (hh : headerOk (imageWords c (s.g c a).toNat s) = true) :
    exec (.trest c a) s = .next (retire c .seq (s.setCore c ((s.core c).imaged c (s.g c a).toNat s))) := by
  rw [exec_trest, execTrest]
  refine tileOp_runs h rfl ?_
  simp only [bind_run, get_run, hi.align, waitAll_idle hf]
  refine markWait_ok ?_
  have hword (i : Nat) (hlt : i < 32) := imageWords_getD c (s.g c a).toNat s hlt
  simp only [bind_run, hi.headerPieces hp, hi.readHeader, imageWords_eq hi.inside.base, hh, Bool.not_true, Bool.false_eq_true, if_false,
    hi.imageTiles_ranges, tileCheck_sram hp (hi.tiles _), tileRead_sram hp (hi.tiles _), modify_run, pure_run, hword 0 (by omega),
    hword 1 (by omega), hword 2 (by omega), fun n : Fin 8 => hword (4 + n.val) (by omega)]
  refine congrArg (fun k' : Core => EStateM.Result.ok Next.seq (s.setCore c (k'.withHeader (imageWord c (s.g c a).toNat s)))) ?_
  refine Core.setTiles_congr _ fun t ht => ?_
  rw [find_code hi (List.mem_range.mp ht), imageTile]
  by_cases hm : bit (imageWord c (s.g c a).toNat s 0) t = true
  · simp only [if_pos hm, find_imageTile c _ s (List.mem_range.mp ht) hm]
    rfl
  · simp only [if_neg hm]

theorem exec_trest_invalid (hh : headerOk (imageWords c (s.g c a).toNat s) = false) :
    traps c ⟨1, 0, some ((wordOf 0x14 0 a 0 0x140).setWidth 64)⟩ s (.trest c a) := by
  intro u hu
  have hword : tileWord 0x05 0 a.val 0 0 = wordOf 0x14 0 a 0 0x140 := by simp [tileWord, wordOf]
  rw [exec_trest, execTrest]
  refine tileOp_raises h rfl ?_ hu
  simp only [bind_run, get_run, hi.align, waitAll_idle hf]
  refine markWait_exc ?_
  simp only [bind_run, hi.headerPieces hp, hi.readHeader, imageWords_eq hi.inside.base, hh]
  exact hword ▸ rfl

end

/-! ## Values of TSTATn (R142) -/

theorem tstatSaved_mask {i : Nat} (h : i < 64) : (0xFFFC008000000000 : Word).getLsbD i = (decide (i = 39) || decide (50 ≤ i)) := by
  revert i
  decide

/-- A value that may be restored has RSCL at most 64 and no reserved bit set. -/
theorem tstatSaved_iff (x : Word) : tstatSaved x = true ↔ (fld x 32 7).toNat ≤ 64 ∧ x &&& 0xFFFC008000000000 = 0 := by
  have hmask : x &&& 0xFFFC008000000000 = 0 ↔ x.getLsbD 39 = false ∧ x.toNat < 2 ^ 50 := by
    constructor
    · intro hx
      have hbit {i : Nat} (hi : i < 64) (hr : i = 39 ∨ 50 ≤ i) : x.getLsbD i = false := by
        have hand : (x &&& 0xFFFC008000000000).getLsbD i = false := by rw [hx]; exact BitVec.getLsbD_zero
        have hreserved : (decide (i = 39) || decide (50 ≤ i)) = true := by simpa using hr
        rwa [BitVec.getLsbD_and, tstatSaved_mask hi, hreserved, Bool.and_true] at hand
      refine ⟨hbit (by omega) (.inl rfl), Nat.lt_pow_two_of_testBit _ fun i hi => ?_⟩
      rcases Nat.lt_or_ge i 64 with h64 | h64
      · exact hbit h64 (.inr hi)
      · exact BitVec.getLsbD_of_ge x i h64
    · rintro ⟨h39, hlt⟩
      refine BitVec.eq_of_getLsbD_eq fun i hi => ?_
      rw [BitVec.getLsbD_and, tstatSaved_mask hi]
      refine Eq.trans ?_ BitVec.getLsbD_zero.symm
      by_cases h50 : 50 ≤ i
      · have hx : x.getLsbD i = false := Nat.testBit_lt_two_pow (Nat.lt_of_lt_of_le hlt (Nat.pow_le_pow_right (by omega) h50))
        rw [hx, Bool.false_and]
      · by_cases hi39 : i = 39
        · rw [hi39, h39, Bool.false_and]
        · simp only [hi39, h50, decide_false, Bool.or_self, Bool.and_false]
  rw [hmask]
  simp [tstatSaved, and_assoc]

/-! ## The obligation -/

/-- Settles O22: the image's ranges lie apart in the SRAM, so that `tsave` writes them in order and `trest` finds each by its place. -/
theorem tileSaveAndRestore : Obligations.TileSaveAndRestore := by
  unfold Obligations.TileSaveAndRestore
  refine ⟨fun s c a h hp hf hb hin => ?_, fun s c a h hp hf hb hin => ⟨fun hok => ?_, fun hok => ?_, rfl, tstatSaved_iff⟩⟩
  · refine (exec_tsave_sram h hp hf ⟨hb, hin⟩).trans ?_
    rw [Core.image, List.foldl_cons, List.foldl_map, marked_setWidth]
    rfl
  · exact ⟨_, exec_trest_valid h hp hf ⟨hb, hin⟩ hok, fun t ht => Core.imaged_tile _ c _ s ht, Core.imaged_tstat _ c _ s,
      Core.imaged_frame _ c _ s⟩
  · exact exec_trest_invalid h hp hf ⟨hb, hin⟩ hok

end Machine
end Sys2Proof
end

section
/-! PROOFS. What the commits of the matrix engine share: fields of TSTAT, the cells of an accumulator, INT32 results, and the commit of the
oldest operation (R118, R151, R152, R165, R187, R192). -/

namespace Sys2Proof
namespace Machine

/-! ## Fields of a word -/

theorem getLsbD_setFld {w n : Nat} (x : BitVec w) (lo : Nat) (v : BitVec n) {i : Nat} (h : lo + n ≤ w) :
    (setFld x lo v).getLsbD i = if lo ≤ i ∧ i < lo + n then v.getLsbD (i - lo) else x.getLsbD i := by
  simp only [setFld, BitVec.getLsbD_or, BitVec.getLsbD_and, BitVec.getLsbD_not, BitVec.getLsbD_shiftLeft, BitVec.getLsbD_setWidth,
    BitVec.getLsbD_allOnes]
  split
  case isTrue hi => simp [show ¬ i < lo by omega, show i - lo < n by omega, show i < w by omega, show i - lo < w by omega]
  case isFalse hi =>
    rcases Nat.lt_or_ge i w with hw | hw
    · rcases Nat.lt_or_ge i lo with hlo | hlo
      · simp [hlo, hw]
      · simp [hw, show ¬ i - lo < n by omega, BitVec.getLsbD_of_ge v (i - lo) (by omega)]
    · simp [Nat.not_lt.mpr hw, BitVec.getLsbD_of_ge x i hw]

theorem fld_setFld_same {w n : Nat} (x : BitVec w) {lo : Nat} (v : BitVec n) (h : lo + n ≤ w) : fld (setFld x lo v) lo n = v := by
  apply BitVec.eq_of_getLsbD_eq
  intro i hi
  rw [BitVec.getLsbD_extractLsb', getLsbD_setFld x lo v h]
  simp [hi]

theorem fld_setFld_apart {w n m : Nat} (x : BitVec w) {lo k : Nat} (v : BitVec n) (hw : lo + n ≤ w) (h : k + m ≤ lo ∨ lo + n ≤ k) :
    fld (setFld x lo v) k m = fld x k m := by
  apply BitVec.eq_of_getLsbD_eq
  intro i hi
  rw [BitVec.getLsbD_extractLsb', getLsbD_setFld x lo v hw, BitVec.getLsbD_extractLsb', if_neg (by omega)]

theorem fld_or {w : Nat} (x y : BitVec w) (lo n : Nat) : fld (x ||| y) lo n = fld x lo n ||| fld y lo n := BitVec.extractLsb'_or
theorem bit_or {w : Nat} (x y : BitVec w) (i : Nat) : bit (x ||| y) i = (bit x i || bit y i) := BitVec.getLsbD_or
theorem bit_and {w : Nat} (x y : BitVec w) (i : Nat) : bit (x &&& y) i = (bit x i && bit y i) := BitVec.getLsbD_and

theorem getLsbD_flag (b : Bool) {i j : Nat} (h : j ≠ i) : (flag b i).getLsbD j = false := by
  cases b with
  | false => exact BitVec.getLsbD_zero
  | true =>
    simp [flag]
    omega

theorem fld_or_flag (x : Word) (b : Bool) {i lo n : Nat} (h : i < lo ∨ lo + n ≤ i) : fld (x ||| flag b i) lo n = fld x lo n := by
  apply BitVec.eq_of_getLsbD_eq
  intro j hj
  simp only [BitVec.getLsbD_extractLsb', BitVec.getLsbD_or, getLsbD_flag b (show lo + j ≠ i by omega), Bool.or_false]

/-! ## Rows of a grid -/

theorem length_grid {α : Type} (f : Nat → Nat → α) (m n : Nat) : ((List.range m).flatMap fun r => (List.range n).map (f r)).length = n * m := by
  induction m with
  | zero => rfl
  | succ m ih =>
    rw [List.range_succ, List.flatMap_append, List.flatMap_singleton, List.length_append, ih, List.length_map, List.length_range, Nat.mul_succ]

theorem getElem?_grid {α : Type} (f : Nat → Nat → α) {m n r q : Nat} (hr : r < m) (hq : q < n) :
    ((List.range m).flatMap fun r => (List.range n).map (f r))[n * r + q]? = some (f r q) := by
  induction m with
  | zero => omega
  | succ m ih =>
    rw [List.range_succ, List.flatMap_append, List.flatMap_singleton]
    rcases Nat.lt_or_ge r m with hlt | hge
    · have hn : n * (r + 1) ≤ n * m := Nat.mul_le_mul_left n hlt
      rw [List.getElem?_append_left (by rw [length_grid]; rw [Nat.mul_add] at hn; omega), ih hlt]
    · obtain rfl : r = m := by omega
      rw [List.getElem?_append_right (by rw [length_grid]; omega), length_grid, Nat.add_sub_cancel_left]
      simp [hq]

/-! ## The cells of an accumulator (R118) -/

theorem slice_ofNat {w lo n : Nat} (x : Nat) (h : lo + n ≤ w) : slice (BitVec.ofNat w x) lo n = x / 2 ^ lo % 2 ^ n := by
  obtain ⟨d, rfl⟩ := Nat.exists_eq_add_of_le h
  rw [slice, BitVec.extractLsb'_toNat, BitVec.toNat_ofNat, Nat.shiftRight_eq_div_pow, Nat.add_assoc, Nat.pow_add, Nat.mod_mul_right_div_self,
    Nat.pow_add, Nat.mod_mul_right_mod]

theorem foldr_cells_div (cells : List Nat) (n : Nat) :
    cells.foldr (fun c x => c % 2 ^ 64 + x * 2 ^ 64) 0 / 2 ^ (64 * n) % 2 ^ 64 = cells.getD n 0 % 2 ^ 64 := by
  induction cells generalizing n with
  | nil => simp
  | cons c cells ih =>
    rw [List.foldr_cons]
    cases n with
    | zero => simp
    | succ n =>
      rw [show 64 * (n + 1) = 64 + 64 * n by omega, Nat.pow_add, ← Nat.div_div_eq_div_mul, Nat.add_mul_div_right _ _ (by decide),
        Nat.div_eq_of_lt (Nat.mod_lt c (by decide)), Nat.zero_add, ih, List.getD_cons_succ]

theorem accBits_packAcc (cells : List Nat) {n : Nat} (h : n < 1024) : accBits (packAcc cells) n = cells.getD n 0 % 2 ^ 64 :=
  (slice_ofNat _ (by omega)).trans (foldr_cells_div cells n)

/-! ## INT32 (R187) -/

theorem int32_lt (sat : Bool) (x : Int) : (int32 sat x).1 < 2 ^ 32 := by
  unfold int32
  dsimp only
  omega

/-- A residue modulo 2^32 is read as the number of 32 bits that it stands for. -/
theorem accInt_residue (x : Int) : accInt (x % 2 ^ 32).toNat = (BitVec.ofInt 32 x).toInt := by
  unfold accInt
  congr 1
  apply BitVec.eq_of_toNat_eq
  rw [BitVec.toNat_ofNat, BitVec.toNat_ofInt]
  omega

/-- A number of 32 bits is read as itself. -/
theorem toInt_ofInt_small {x : Int} (hlo : -(2 ^ 31) ≤ x) (hhi : x < 2 ^ 31) : (BitVec.ofInt 32 x).toInt = x :=
  BitVec.toInt_ofInt_eq_self (by decide) hlo hhi

theorem accInt_int32 (sat : Bool) (x : Int) :
    accInt (int32 sat x).1 = if sat then max (-(2 ^ 31)) (min x (2 ^ 31 - 1)) else (BitVec.ofInt 32 x).toInt := by
  unfold int32
  dsimp only
  rw [accInt_residue]
  cases sat with
  | false => simp only [Bool.false_eq_true, if_false, ite_self]
  | true =>
    have hclamp : (if !(decide (x < -(2 ^ 31)) || decide (2 ^ 31 ≤ x)) then x else if x < 0 then -(2 ^ 31) else 2 ^ 31 - 1) =
        max (-(2 ^ 31)) (min x (2 ^ 31 - 1)) := by
      simp only [Bool.not_eq_true', Bool.or_eq_false_iff, decide_eq_false_iff_not]
      split
      · omega
      · split <;> omega
    rw [if_pos rfl, if_pos rfl, hclamp, toInt_ofInt_small (by omega) (by omega)]

/-- The cells of an integer result, as the accumulator holds them. -/
theorem accBits_ofInts (sat : Bool) {xs : List Int} {n : Nat} (hn : n < 1024) (hx : n < xs.length) :
    accBits (packAcc (MacOut.ofInts sat xs).cells) n = (int32 sat (xs.getD n 0)).1 := by
  have hcell : (MacOut.ofInts sat xs).cells.getD n 0 = (int32 sat (xs.getD n 0)).1 := by
    simp [MacOut.ofInts, hx]
  rw [accBits_packAcc _ hn, hcell, Nat.mod_eq_of_lt (Nat.lt_trans (int32_lt sat _) (by decide))]

/-! ## What a commit leaves (R152, R192) -/

/-- TSTAT with KCOUNT, RSCL and PATH written. -/
def statWritten (st : Word) (kc : BitVec 32) (rscl : Nat) (r : Route) : Word := setFld (setFld (setFld st 0 kc) 32 (BitVec.ofNat 7 rscl)) 48 r.code

theorem statWritten_kcount (st : Word) (kc : BitVec 32) (rscl : Nat) (r : Route) : fld (statWritten st kc rscl r) 0 32 = kc := by
  rw [statWritten, fld_setFld_apart _ _ (by decide) (by decide), fld_setFld_apart _ _ (by decide) (by decide), fld_setFld_same _ _ (by decide)]
theorem statWritten_rscl (st : Word) (kc : BitVec 32) (rscl : Nat) (r : Route) : fld (statWritten st kc rscl r) 32 7 = BitVec.ofNat 7 rscl := by
  rw [statWritten, fld_setFld_apart _ _ (by decide) (by decide), fld_setFld_same _ _ (by decide)]
theorem statWritten_path (st : Word) (kc : BitVec 32) (rscl : Nat) (r : Route) : fld (statWritten st kc rscl r) 48 2 = r.code :=
  fld_setFld_same _ _ (by decide)

/-- KCOUNT after a `tmac`. -/
def Core.macKcount (k : Core) (x : Flight) : BitVec 32 :=
  if x.z then BitVec.ofNat 32 (pairK x.cfg) else satAdd (fld (k.tstatAt x.d) 0 32) (pairK x.cfg)
def Core.macKlong (k : Core) (x : Flight) : Bool := decide (65536 < (k.macKcount x).toNat)

/-- TSTAT after a `tmac`. -/
def Core.macStat (k : Core) (x : Flight) (rscl : Nat) (o : MacOut) : Word :=
  statWritten (k.tstatAt x.d) (k.macKcount x) rscl (route x.cfg) ||| flag o.ovf 40 ||| flag (k.macKlong x) 41 ||| flag o.nv 43

section Stat
variable (k : Core) (x : Flight) (rscl : Nat) (o : MacOut)

theorem Core.macStat_kcount : fld (k.macStat x rscl o) 0 32 = k.macKcount x := by
  rw [macStat, fld_or_flag _ _ (by decide), fld_or_flag _ _ (by decide), fld_or_flag _ _ (by decide), statWritten_kcount]
theorem Core.macStat_rscl : fld (k.macStat x rscl o) 32 7 = BitVec.ofNat 7 rscl := by
  rw [macStat, fld_or_flag _ _ (by decide), fld_or_flag _ _ (by decide), fld_or_flag _ _ (by decide), statWritten_rscl]
theorem Core.macStat_path : fld (k.macStat x rscl o) 48 2 = (route x.cfg).code := by
  rw [macStat, fld_or_flag _ _ (by decide), fld_or_flag _ _ (by decide), fld_or_flag _ _ (by decide), statWritten_path]
end Stat

theorem satAdd_eq_ofNat (x : BitVec 32) (n : Nat) : satAdd x n = BitVec.ofNat 32 (Nat.min (x.toNat + n) (2 ^ 32 - 1)) := by
  apply BitVec.eq_of_toNat_eq
  rw [satAdd_toNat, BitVec.toNat_ofNat, Nat.mod_eq_of_lt (Nat.lt_of_le_of_lt (Nat.min_le_right ..) (by decide))]

theorem Core.macKcount_eq (k : Core) (x : Flight) :
    k.macKcount x = if x.z then BitVec.ofNat 32 (pairK x.cfg)
      else BitVec.ofNat 32 (Nat.min ((fld k.tstat[x.d.val] 0 32).toNat + pairK x.cfg) (2 ^ 32 - 1)) := by
  rw [macKcount, satAdd_eq_ofNat]
  rfl

section Finish
variable (k : Core) (d : Fin 8) (st : Word) (cells : List Nat)

theorem Core.finish_acc (ck : Bool) : (k.finish d st (.commit cells ck)).acc[d.val] = packAcc cells := by simp [Core.finish]
theorem Core.finish_tstat : (k.finish d st (.commit cells false)).tstat[d.val] = st := by simp [Core.finish, flag]

/-- Only the operation's own accumulator and its TSTAT are written, and the operation leaves the engine. -/
theorem Core.finish_frame {k : Core} {x : Flight} {xs : List Flight} (hf : k.flight = x :: xs) :
    k.finish d st (.commit cells false) =
      { k with
        acc := k.acc.set d.val (k.finish d st (.commit cells false)).acc[d.val]
        tstat := k.tstat.set d.val (k.finish d st (.commit cells false)).tstat[d.val]
        flight := xs, mxThird := false, tuse := k.tuse ||| BitVec.ofNat 24 (2 ^ (8 + d.val)) } := by
  rw [finish_acc, finish_tstat]
  simp [Core.finish, hf, flag]
end Finish

/-! ## The commit of the oldest operation (R157, R173, R203) -/

theorem exec_tmacCommit (c : CoreId) (tries : List (List LaneDev)) (s : State) :
    exec (.tmacCommit c tries) s = .next (commitRow false c tries s) := rfl
theorem exec_tfoldCommit (c : CoreId) (tries : List (List LaneDev)) (s : State) :
    exec (.tfoldCommit c tries) s = .next (commitRow true c tries s) := rfl

/-- What a running engine makes of its oldest operation. -/
def Core.commitOf (k : Core) (x : Flight) (tries : List (List LaneDev)) : Core := if x.fold then k.commitFold x tries else k.commitMac x tries

theorem Core.commitHead_running {k : Core} {x : Flight} {xs : List Flight} (hf : k.flight = x :: xs) (hs : k.mxStopped = false)
    (tries : List (List LaneDev)) : k.commitHead tries = k.commitOf x tries := by
  unfold Core.commitHead
  rw [hs, hf]
  rfl

theorem Core.commitOf_mac {x : Flight} (hfold : x.fold = false) (k : Core) (tries : List (List LaneDev)) :
    k.commitOf x tries = k.commitMac x tries := by simp [commitOf, hfold]

section CommitRow
variable {s : State} {c : CoreId} {x : Flight} {xs : List Flight} {tries : List (List LaneDev)}
variable (hf : (s.core c).flight = x :: xs) (hs : (s.core c).mxStopped = false) (hforced : (s.core c).forced = false)
include hf hs hforced

/-- An operation that commits changes its own core only. -/
theorem commitRow_commits {d : Fin 8} {st : Word} {cells : List Nat} {ck : Bool}
    (hc : (s.core c).commitOf x tries = (s.core c).finish d st (.commit cells ck)) :
    commitRow x.fold c tries s = s.setCore c ((s.core c).finish d st (.commit cells ck)) := by
  have hr : ((s.core c).finish d st (.commit cells ck)).mxStopped = false := hs
  simp [commitRow, hf, hforced, Core.commitHead_running hf hs, hc, hr]

/-- A mismatch in a row of the replay stops the engine: a lane fault. -/
theorem commitRow_stops {d : Fin 8} {st : Word} (hc : (s.core c).commitOf x tries = (s.core c).finish d st .stop) :
    commitRow x.fold c tries s = laneFaulted c (s.core c).mxThird (s.setCore c ((s.core c).finish d st .stop)) := by
  have hr : ((s.core c).finish d st .stop).mxStopped = true := rfl
  simp [commitRow, hf, hs, hforced, Core.commitHead_running hf hs, hc, hr]
end CommitRow

end Machine
end Sys2Proof
end

section
/-! PROOFS. The integer path of `tmac`: the exact sum of products in every element (R151, R152, R157, R187). -/

namespace Sys2Proof
namespace Machine

/-! ## An integer `tmac` (R151, R157, R187) -/

/-- The prior values of an integer `tmac`. -/
def Core.macOld (k : Core) (x : Flight) : List Int := if x.z then List.replicate 1024 0 else accInts (k.accAt x.d)
/-- Its result before any deviation. -/
def Core.macInts (k : Core) (x : Flight) : List Int := macInt x.input (k.macOld x)
def Core.macIntOut (k : Core) (x : Flight) : MacOut := MacOut.ofInts (tcIsat x.cfg) (k.macInts x)

/-- The comparison of an integer `tmac` fails (R168, R170). -/
def Core.macIntBad (k : Core) (x : Flight) (wrong : Nat → Bool) (cells : List Nat) : Bool :=
  !k.macKlong x && (List.range 32).any fun r =>
    !(k.macIntOut x).rows.contains r && (wrong r || intRowBad x.cfg (rowInts r (cells.map accInt) - rowInts r (k.macOld x))
      (rowInts r (macInt x.input (List.replicate 1024 0))))

theorem Core.commitMac_int {x : Flight} (hr : route x.cfg = .int) (k : Core) (tries : List (List LaneDev)) :
    k.commitMac x tries =
      k.finish x.d (k.macStat x 0 (k.macIntOut x)) (attempts 32 (k.macIntBad x) (k.macIntOut x).cells k.mxThird 0 tries) := by
  unfold Core.commitMac
  simp only [hr]
  rw [macStat, hr]
  rfl

/-- The exact sum of products of row r and column q. -/
def Flight.dotInt (x : Flight) (r q : Nat) : Int :=
  ((List.range (pairK x.cfg)).map fun e =>
    ((x.input.as.getD r []).getD e (.zero false)).toInt * ((x.input.bs.getD q []).getD e (.zero false)).toInt).sum

theorem Flight.input_as_length (x : Flight) {r : Nat} (hr : r < 32) : (x.input.as.getD r []).length = pairK x.cfg := by
  simp [Flight.input, tileRows, hr]
theorem Flight.input_bs_length (x : Flight) {r : Nat} (hr : r < 32) : (x.input.bs.getD r []).length = pairK x.cfg := by
  simp [Flight.input, tileRows, hr]

theorem foldl_products (ps : List (Int × Int)) (t : Int) : ps.foldl (fun s p => s + p.1 * p.2) t = t + (ps.map fun p => p.1 * p.2).sum := by
  induction ps generalizing t with
  | nil => simp
  | cons p ps ih => rw [List.foldl_cons, ih, List.map_cons, List.sum_cons, Int.add_assoc]

/-- The products of two rows of K elements, in order. -/
theorem products_eq {n : Nat} {xs ys : List Val} (hx : xs.length = n) (hy : ys.length = n) (d : Val) :
    ((xs.map Val.toInt).zip (ys.map Val.toInt)).map (fun p => p.1 * p.2) =
      (List.range n).map fun e => (xs.getD e d).toInt * (ys.getD e d).toInt := by
  apply List.ext_getElem
  · simp [hx, hy]
  · intro e he _
    have hlt : e < n := by simpa [hx, hy] using he
    simp [hx, hy, hlt]

theorem getD_map_nil {α β : Type} (f : α → β) (xs : List (List α)) (r : Nat) : (xs.map (·.map f)).getD r [] = (xs.getD r []).map f := by
  rcases Nat.lt_or_ge r xs.length with h | h
  · simp [h]
  · simp [h]

theorem macInt_getD (x : Flight) (old : List Int) {r q : Nat} (hr : r < 32) (hq : q < 32) :
    (macInt x.input old).getD (32 * r + q) 0 = old.getD (32 * r + q) 0 + (if x.neg then -x.dotInt r q else x.dotInt r q) := by
  have hdot : (((x.input.as.map (·.map Val.toInt)).getD r []).zip ((x.input.bs.map (·.map Val.toInt)).getD q [])).foldl
      (fun (s : Int) p => s + p.1 * p.2) 0 = x.dotInt r q := by
    rw [getD_map_nil, getD_map_nil, foldl_products, Int.zero_add, products_eq (x.input_as_length hr) (x.input_bs_length hq), Flight.dotInt]
  rw [List.getD_eq_getElem?_getD, macInt, getElem?_grid _ hr hq, Option.getD_some, hdot, List.getElem?_toArray, List.getD_eq_getElem?_getD]
  rfl

theorem length_macInt (i : MacIn) (old : List Int) : (macInt i old).length = 1024 := length_grid _ 32 32

theorem length_accInts (t : BitVec 65536) : (accInts t).length = 1024 := by rw [accInts, List.length_map, List.length_range]

theorem accInts_getD (t : BitVec 65536) {n : Nat} (hn : n < 1024) : (accInts t).getD n 0 = accInt (accBits t n) := by
  rw [accInts, List.getD_eq_getElem?_getD, List.getElem?_map, List.getElem?_range hn]
  rfl

theorem Core.macOld_length (k : Core) (x : Flight) : (k.macOld x).length = 1024 := by
  unfold macOld
  split
  · exact List.length_replicate
  · exact length_accInts _

theorem getD_zeros (m n : Nat) : (List.replicate m (0 : Int)).getD n 0 = 0 := by
  rw [List.getD_eq_getElem?_getD, List.getElem?_replicate]
  split <;> rfl

theorem Core.macOld_getD (k : Core) (x : Flight) {n : Nat} (hn : n < 1024) :
    (k.macOld x).getD n 0 = if x.z then 0 else accInt (accBits k.acc[x.d.val] n) := by
  unfold macOld
  split
  · exact getD_zeros 1024 n
  · exact accInts_getD _ hn

theorem Core.macInts_getD (k : Core) (x : Flight) {r q : Nat} (hr : r < 32) (hq : q < 32) :
    (k.macInts x).getD (32 * r + q) 0 = (if x.z then 0 else accInt (accBits k.acc[x.d.val] (32 * r + q))) +
      (if x.neg then -x.dotInt r q else x.dotInt r q) := by
  rw [macInts, macInt_getD x _ hr hq, k.macOld_getD x (by omega)]

theorem Core.macIntOut_bits (k : Core) (x : Flight) {r q : Nat} (hr : r < 32) (hq : q < 32) :
    accBits (packAcc (k.macIntOut x).cells) (32 * r + q) = (int32 (tcIsat x.cfg)
      ((if x.z then 0 else accInt (accBits k.acc[x.d.val] (32 * r + q))) + (if x.neg then -x.dotInt r q else x.dotInt r q))).1 := by
  rw [macIntOut, accBits_ofInts _ (by omega) (by rw [macInts, length_macInt]; omega), k.macInts_getD x hr hq]

theorem Core.commitOf_mac_int {x : Flight} (hfold : x.fold = false) (hr : route x.cfg = .int) (k : Core) :
    k.commitOf x [] = k.finish x.d (k.macStat x 0 (k.macIntOut x)) (.commit (k.macIntOut x).cells false) :=
  (k.commitOf_mac hfold []).trans (k.commitMac_int hr [])

/-! ## The obligation -/

/-- Settles O18: each cell by the row and column of its element, TSTAT by its fields. -/
theorem integerMacIsExact : Obligations.IntegerMacIsExact := by
  unfold Obligations.IntegerMacIsExact
  intro s c x xs k hf hfold hs hforced hr a b sum
  have hrun := commitRow_commits hf hs hforced (k.commitOf_mac_int hfold hr)
  rw [hfold] at hrun
  refine ⟨_, congrArg Host.Outcome.next hrun, fun r hr' q hq => ?_, ?_, ?_, Core.finish_frame _ _ _ hf⟩
  · rw [Core.finish_acc, k.macIntOut_bits x hr' hq]
    exact ⟨int32_lt _ _, accInt_int32 _ _⟩
  · rw [Core.finish_tstat, k.macStat_kcount, k.macKcount_eq]
  · rw [Core.finish_tstat, k.macStat_path, hr]
    rfl

end Machine
end Sys2Proof
end

section
/-! PROOFS. One wrong lane or checksum in an integer `tmac`: the comparison of its row fails, modulo 2^32, whatever the other rows hold (R168,
R170, R173, R174). -/

namespace Sys2Proof
namespace Machine

/-! ## Attempts (R173) -/

section Attempts
variable {n : Nat} {bad : (Nat → Bool) → List Nat → Bool} {cells : List Nat} {t : List LaneDev}

/-- The attempt deviates, and the comparison finds that it does. -/
def Caught (n : Nat) (bad : (Nat → Bool) → List Nat → Bool) (cells : List Nat) (t : List LaneDev) : Prop :=
  (deviate n t cells ≠ cells ∨ ∃ r < 32, laneWrong t r = true) ∧ bad (laneWrong t) (deviate n t cells) = true

theorem Caught.fails (h : Caught n bad cells t) :
    ((decide (deviate n t cells = cells) && !(List.range 32).any (laneWrong t)) || !bad (laneWrong t) (deviate n t cells)) = false := by
  obtain ⟨hne | ⟨r, hr, hw⟩, hbad⟩ := h
  · simp [hne, hbad]
  · have hany : (List.range 32).any (laneWrong t) = true := List.any_eq_true.mpr ⟨r, List.mem_range.mpr hr, hw⟩
    rw [hany, hbad, Bool.not_true, Bool.and_false, Bool.or_false]

/-- The first one that is caught is replayed. -/
theorem attempts_replay (h : Caught n bad cells t) (ts : List (List LaneDev)) :
    attempts n bad cells false 0 (t :: ts) = attempts n bad cells false 1 ts := by
  have hf := h.fails
  simp only [attempts]
  rw [hf]
  rfl

/-- The second one in a row stops the engine. -/
theorem attempts_stop (h : Caught n bad cells t) (last : Bool) (ts : List (List LaneDev)) :
    attempts n bad cells last 1 (t :: ts) = .stop := by
  have hf := h.fails
  simp only [attempts]
  rw [hf]
  rfl
end Attempts

/-! ## Sums of a row modulo 2^32 (R170) -/

/-- The sum of the first n values. -/
def sumTo (f : Nat → Int) : Nat → Int
  | 0 => 0
  | n + 1 => sumTo f n + f n

theorem sumTo_congr {f g : Nat → Int} {n : Nat} (h : ∀ q < n, f q = g q) : sumTo f n = sumTo g n := by
  induction n with
  | zero => rfl
  | succ n ih => rw [sumTo, sumTo, ih fun q hq => h q (by omega), h n (Nat.lt_succ_self n)]

theorem sumTo_add (f g : Nat → Int) (n : Nat) : sumTo (fun q => f q + g q) n = sumTo f n + sumTo g n := by
  induction n with
  | zero => rfl
  | succ n ih =>
    rw [sumTo, sumTo, sumTo, ih]
    omega

theorem sumTo_sub (f g : Nat → Int) (n : Nat) : sumTo (fun q => f q - g q) n = sumTo f n - sumTo g n := by
  induction n with
  | zero => rfl
  | succ n ih =>
    rw [sumTo, sumTo, sumTo, ih]
    omega

theorem dvd_sumTo {m : Int} {f : Nat → Int} {n : Nat} (h : ∀ q < n, m ∣ f q) : m ∣ sumTo f n := by
  induction n with
  | zero => exact Int.dvd_zero m
  | succ n ih => exact Int.dvd_add (ih fun q hq => h q (by omega)) (h n (Nat.lt_succ_self n))

/-- One term that the modulus does not divide, among terms that it divides. -/
theorem not_dvd_sumTo {m : Int} {f : Nat → Int} {n q : Nat} (hq : q < n) (hf : ¬ m ∣ f q) (ho : ∀ j < n, j ≠ q → m ∣ f j) :
    ¬ m ∣ sumTo f n := by
  induction n with
  | zero => omega
  | succ n ih =>
    rw [sumTo]
    rcases Nat.lt_or_ge q n with hlt | hge
    · rw [Int.dvd_add_left (ho n (Nat.lt_succ_self n) (by omega))]
      exact ih hlt fun j hj => ho j (by omega)
    · obtain rfl : q = n := by omega
      rw [Int.dvd_add_right (dvd_sumTo fun j hj => ho j (by omega) (by omega))]
      exact hf

theorem sumInts_map_range (f : Nat → Int) (n : Nat) : sumInts ((List.range n).map f) = sumTo f n := by
  induction n with
  | zero => rfl
  | succ n ih =>
    rw [sumInts] at ih
    rw [List.range_succ, List.map_append, sumInts, List.foldl_append, ih]
    rfl

theorem rowInts_eq_sumTo {xs : List Int} {r : Nat} (h : 32 * r + 32 ≤ xs.length) :
    rowInts r xs = sumTo (fun q => xs.getD (32 * r + q) 0) 32 := by
  have hrow : (xs.drop (32 * r)).take 32 = (List.range 32).map fun q => xs.getD (32 * r + q) 0 := by
    apply List.ext_getElem
    · rw [List.length_take, List.length_drop, List.length_map, List.length_range]
      omega
    · intro q hq _
      rw [List.length_take] at hq
      have hlt : 32 * r + q < xs.length := by omega
      rw [List.getElem_take, List.getElem_drop, List.getElem_map, List.getElem_range, List.getD_eq_getElem?_getD, List.getElem?_eq_getElem hlt,
        Option.getD_some]
  rw [rowInts, hrow, sumInts_map_range]

/-- A cell is read as its number modulo 2^32. -/
theorem accInt_emod (n : Nat) : accInt n % 2 ^ 32 = (n : Int) % 2 ^ 32 := by
  rw [accInt, BitVec.toInt_ofNat']
  exact Int.bmod_emod

theorem eq_zero_of_xor_eq {n y : Nat} (h : n ^^^ y = n) : y = 0 := by
  calc y = n ^^^ (n ^^^ y) := by rw [← Nat.xor_assoc, Nat.xor_self, Nat.zero_xor]
    _ = 0 := by rw [h, Nat.xor_self]

theorem accInt_xor_not_dvd (n : Nat) {y : Nat} (hy : y % 2 ^ 32 ≠ 0) : ¬ (2 ^ 32 : Int) ∣ accInt (n ^^^ y) - accInt n := by
  intro h
  have hxor := accInt_emod (n ^^^ y)
  have hn := accInt_emod n
  have hnat : (n ^^^ y) % 2 ^ 32 = n % 2 ^ 32 := by omega
  rw [Nat.xor_mod_two_pow] at hnat
  exact hy (eq_zero_of_xor_eq hnat)

theorem accInt_int32_dvd (x : Int) : (2 ^ 32 : Int) ∣ accInt (int32 false x).1 - x := by
  have hmod : (x.bmod (2 ^ 32)) % 2 ^ 32 = x % 2 ^ 32 := Int.bmod_emod
  rw [accInt_int32, if_neg Bool.false_ne_true, BitVec.toInt_ofInt]
  omega

/-! ## The comparison of an integer `tmac` (R168, R170) -/

theorem ofInts_rows (xs : List Int) : (MacOut.ofInts false xs).rows = [] := by
  have hnone (n : Nat) : rowsOf (fun _ => false) n = [] := by
    rw [rowsOf, List.filter_eq_nil_iff.mpr fun _ _ => Bool.false_ne_true]
    rfl
  simp only [MacOut.ofInts, Bool.false_and]
  exact hnone _

theorem Core.length_macInts (k : Core) (x : Flight) : (k.macInts x).length = 1024 := length_macInt ..

theorem Core.length_macIntCells (k : Core) (x : Flight) : (k.macIntOut x).cells.length = 1024 := by
  simp [macIntOut, MacOut.ofInts, k.length_macInts x]

/-- A row of the result is the row of the prior values plus that of the products. -/
theorem Core.rowInts_macInts (k : Core) (x : Flight) {r : Nat} (hr : r < 32) :
    rowInts r (k.macInts x) = rowInts r (k.macOld x) + rowInts r (macInt x.input (List.replicate 1024 0)) := by
  rw [rowInts_eq_sumTo (by rw [k.length_macInts]; omega), rowInts_eq_sumTo (by rw [k.macOld_length]; omega),
    rowInts_eq_sumTo (by rw [length_macInt]; omega), ← sumTo_add]
  refine sumTo_congr fun q hq => ?_
  rw [macInts, macInt_getD x _ hr hq, macInt_getD x _ hr hq, getD_zeros, Int.zero_add]

/-- The attempt has a wrong element or a wrong checksum: what differs is within the 32 bits of an element. -/
def WrongLane (v : LaneDev) : Prop := match v with | .result _ _ n => n.toNat % 2 ^ 32 ≠ 0 | .check _ => True

section Bad
variable {k : Core} {x : Flight} (hisat : tcIsat x.cfg = false) (hklong : k.macKlong x = false)
include hisat hklong

/-- A wrong checksum, or a sum of differences other than 0 modulo 2^32, fails the comparison of a row. -/
theorem Core.macIntBad_of_row {wrong : Nat → Bool} {cells : List Nat} {r : Nat} (hr : r < 32) (hlen : cells.length = 1024)
    (h : wrong r = true ∨
      ¬ (2 ^ 32 : Int) ∣ sumTo (fun q => accInt (cells.getD (32 * r + q) 0) - (k.macInts x).getD (32 * r + q) 0) 32) :
    k.macIntBad x wrong cells = true := by
  have hrows : (k.macIntOut x).rows = [] := by rw [macIntOut, hisat, ofInts_rows]
  have hrow : (wrong r || intRowBad x.cfg (rowInts r (cells.map accInt) - rowInts r (k.macOld x))
      (rowInts r (macInt x.input (List.replicate 1024 0)))) = true := by
    rcases h with hw | hsum
    · rw [hw, Bool.true_or]
    · have hget (q : Nat) : (cells.map accInt).getD (32 * r + q) 0 = accInt (cells.getD (32 * r + q) 0) := by
        rw [List.getD_eq_getElem?_getD, List.getD_eq_getElem?_getD, List.getElem?_map]
        cases cells[32 * r + q]? <;> rfl
      have hdiff : rowInts r (cells.map accInt) - rowInts r (k.macOld x) - rowInts r (macInt x.input (List.replicate 1024 0)) =
          sumTo (fun q => accInt (cells.getD (32 * r + q) 0) - (k.macInts x).getD (32 * r + q) 0) 32 := by
        rw [Int.sub_sub, ← k.rowInts_macInts x hr, rowInts_eq_sumTo (by rw [List.length_map]; omega),
          rowInts_eq_sumTo (by rw [k.length_macInts]; omega), ← sumTo_sub]
        exact sumTo_congr fun q _ => by rw [hget]
      rw [intRowBad, hisat, if_neg Bool.false_ne_true, hdiff, decide_eq_true (mt Int.dvd_of_emod_eq_zero hsum), Bool.or_true]
  rw [macIntBad, hklong, hrows]
  exact List.any_eq_true.mpr ⟨r, List.mem_range.mpr hr, hrow⟩

/-- The result element of another value than the right one, modulo 2^32, fails the comparison of its row. -/
theorem Core.macIntBad_of_set (wrong : Nat → Bool) {r q y : Nat} (hr : r < 32) (hq : q < 32) (hy : y % 2 ^ 32 ≠ 0) :
    k.macIntBad x wrong ((k.macIntOut x).cells.set (32 * r + q) ((k.macIntOut x).cells.getD (32 * r + q) 0 ^^^ y)) = true := by
  have hlen := k.length_macIntCells x
  have hcell {n : Nat} (hn : n < 1024) : (2 ^ 32 : Int) ∣ accInt ((k.macIntOut x).cells.getD n 0) - (k.macInts x).getD n 0 := by
    have hc : (k.macIntOut x).cells.getD n 0 = (int32 false ((k.macInts x).getD n 0)).1 := by
      simp [macIntOut, hisat, MacOut.ofInts, k.length_macInts x, hn]
    rw [hc]
    exact accInt_int32_dvd _
  have hset (j : Nat) (v : Nat) : ((k.macIntOut x).cells.set (32 * r + q) v).getD (32 * r + j) 0 =
      if j = q then v else (k.macIntOut x).cells.getD (32 * r + j) 0 := by
    rw [List.getD_eq_getElem?_getD, List.getElem?_set]
    by_cases h : j = q
    · simp [h, hlen, show 32 * r + q < 1024 by omega]
    · simp [h, Ne.symm h]
  refine k.macIntBad_of_row hisat hklong hr (by rw [List.length_set, hlen]) (.inr (not_dvd_sumTo hq ?_ fun j hj hne => ?_))
  · rw [hset, if_pos rfl]
    intro h
    have hright := hcell (n := 32 * r + q) (by omega)
    exact accInt_xor_not_dvd ((k.macIntOut x).cells.getD (32 * r + q) 0) hy (by omega)
  · rw [hset, if_neg hne]
    exact hcell (by omega)

/-- An attempt with one wrong element, or a wrong checksum, is caught. -/
theorem Core.caught_of_wrong {v : LaneDev} (h : WrongLane v) : Caught 32 (k.macIntBad x) (k.macIntOut x).cells [v] := by
  have hlen := k.length_macIntCells x
  cases v with
  | result r q flip =>
    have hy : flip.toNat % 2 ^ 32 % 2 ^ 32 ≠ 0 := by rwa [Nat.mod_mod]
    refine ⟨.inl fun he => ?_, k.macIntBad_of_set hisat hklong _ r.isLt q.isLt hy⟩
    have hi : 32 * r.val + q.val < (k.macIntOut x).cells.length := by rw [hlen]; omega
    have hat : (k.macIntOut x).cells.getD (32 * r.val + q.val) 0 ^^^ flip.toNat % 2 ^ 32 =
        (k.macIntOut x).cells.getD (32 * r.val + q.val) 0 := by
      have hg := congrArg (·.getD (32 * r.val + q.val) 0) he
      simpa [deviate, hi] using hg
    exact h (eq_zero_of_xor_eq hat)
  | check r =>
    have hw : laneWrong [.check r] r.val = true := by simp [laneWrong]
    exact ⟨.inr ⟨r.val, r.isLt, hw⟩, k.macIntBad_of_row hisat hklong r.isLt hlen (.inl hw)⟩

end Bad

/-! ## The obligation -/

theorem pairK_le (w : Word) : pairK w ≤ 1024 := Nat.le_trans (Nat.min_le_left _ _) (Nat.div_le_self _ _)

/-- The accumulator holds no more products than the checksum lane takes. -/
theorem Core.macKlong_of_le {k : Core} {x : Flight} (h : x.z = true ∨ (fld k.tstat[x.d.val] 0 32).toNat + pairK x.cfg ≤ 65536) :
    k.macKlong x = false := by
  have hk := pairK_le x.cfg
  refine decide_eq_false (Nat.not_lt.mpr ?_)
  rw [k.macKcount_eq]
  split
  · rw [BitVec.toNat_ofNat]
    omega
  · have hle : (fld k.tstat[x.d.val] 0 32).toNat + pairK x.cfg ≤ 65536 := h.resolve_left ‹_›
    have hmin := Nat.min_le_left ((fld k.tstat[x.d.val] 0 32).toNat + pairK x.cfg) (2 ^ 32 - 1)
    rw [BitVec.toNat_ofNat]
    exact Nat.le_trans (Nat.mod_le _ _) (Nat.le_trans hmin hle)

/-- A commit after a replay differs in CKMIS only. -/
theorem Core.finish_ckmis (k : Core) (d : Fin 8) (st : Word) (cells : List Nat) :
    k.finish d st (.commit cells true) =
      { k.finish d st (.commit cells false) with
        tstat := (k.finish d st (.commit cells false)).tstat.set d.val
          ((k.finish d st (.commit cells false)).tstat[d.val] ||| 0x40000000000) } := by
  rw [finish_tstat]
  simp [Core.finish, flag]

/-- A first stop of the engine is recorded, and nothing is fenced. -/
theorem laneFaulted_first (c : CoreId) (s : State) : laneFaulted c false s = record 0x07 (s.corePort c) (s.core c).polder 1 0 0 s := by
  rw [laneFaulted, if_neg Bool.false_ne_true]

/-- Settles O20: the attempts that deviate are caught, so the first is replayed and the second stops the engine. -/
theorem laneFaultIsCaught : Obligations.LaneFaultIsCaught := by
  unfold Obligations.LaneFaultIsCaught
  intro s c x xs dev dev' k wrong hf hfold hs hforced hthird hr hisat hcount hdev hdev'
  have hklong : k.macKlong x = false := Core.macKlong_of_le hcount
  have hcaught {v : LaneDev} (hv : wrong v) : Caught 32 (k.macIntBad x) (k.macIntOut x).cells [v] :=
    Core.caught_of_wrong hisat hklong (by cases v <;> exact hv)
  have hcommit (tries : List (List LaneDev)) : k.commitOf x tries =
      k.finish x.d (k.macStat x 0 (k.macIntOut x)) (attempts 32 (k.macIntBad x) (k.macIntOut x).cells false 0 tries) := by
    rw [k.commitOf_mac hfold, k.commitMac_int hr, hthird]
  refine ⟨fun k' hk' => ?_, ?_⟩
  · have hclean := commitRow_commits hf hs hforced (k.commitOf_mac_int hfold hr)
    have hreplay := commitRow_commits hf hs hforced
      ((hcommit [[dev]]).trans (congrArg (k.finish x.d _) (attempts_replay (hcaught hdev) [])))
    rw [hfold] at hclean hreplay
    have hk : k.finish x.d (k.macStat x 0 (k.macIntOut x)) (.commit (k.macIntOut x).cells false) = k' := by
      have hset := Host.Outcome.next.inj ((congrArg Host.Outcome.next hclean).symm.trans hk')
      simpa using congrArg (·.core c) hset
    rw [exec_tmacCommit, hreplay, ← hk, ← Core.finish_ckmis]
    rfl
  · have hstop := commitRow_stops hf hs hforced
      ((hcommit [[dev], [dev']]).trans
        (congrArg (k.finish x.d _) ((attempts_replay (hcaught hdev) _).trans (attempts_stop (hcaught hdev') false []))))
    have hfirst : (s.core c).mxThird = false := hthird
    rw [hfold, hfirst, laneFaulted_first, State.core_setCore_same] at hstop
    rw [exec_tmacCommit, hstop]
    rfl

end Machine
end Sys2Proof
end

section
/-! PROOFS. `tmac` and `tfold` as they issue, and the integer path of `tfold` (R154, R165, R166, R196 to R198). -/

namespace Sys2Proof
namespace Machine

/-! ## Issue (R154, R165) -/

theorem exec_tmac (c : CoreId) (d a b : BitVec 5) (seg : BitVec 4) (neg z : Bool) (s : State) :
    exec (.tmac c d a b seg neg z) s = execTmac c d a b seg neg z s := rfl
theorem exec_tfold (c : CoreId) (d a b : BitVec 5) (opt : BitVec 6) (s : State) : exec (.tfold c d a b opt) s = execTfold c d a b opt s := rfl

theorem toNat_code (n : Fin 8) : (BitVec.ofNat 5 (0 + n.val)).toNat = n.val := by rw [BitVec.toNat_ofNat]; omega
theorem toNat_accCode (n : Fin 8) : (BitVec.ofNat 5 (8 + n.val)).toNat = 8 + n.val := by rw [BitVec.toNat_ofNat]; omega
theorem accOf_val (n : Fin 8) : accOf n.val = n := by simpa using accOf_add 0 n rfl

/-- A tile instruction whose decode check fails is illegal, whatever the engine does (R129). -/
theorem tileOp_illegal {c : CoreId} {w : BitVec 32} {ok : Core → Bool} {body : M Next} {s u : State} (h : TileReady c s)
    (hok : ok (s.core c) = false) (hu : takeExc c ⟨1, 0, some (w.setWidth 64)⟩ s = .ok () u) : tileOp c w ok body s = .next u :=
  instr_raises h.toReady loopEnd_of_not (by simp [h.outside, h.enabled, hok, illegal]) hu

/-- An engine with fewer than four operations takes one more. -/
theorem Core.issue_room {k : Core} (h : k.flight.length < 4) (x : Flight) : k.issue x = { k with flight := k.flight ++ [x], mxGated := false } := by
  simp [Core.issue, h]

section Issue
variable {s : State} {c : CoreId} (h : TileReady c s) (hroom : (s.core c).flight.length < 4)
include h hroom

theorem exec_tmac_issues (d a b : Fin 8) {seg : BitVec 4} (neg z : Bool) (hpath : pathPresent s c = true)
    (hseg : seg.toNat < pairSegs (s.core c).tcfg) :
    changesCore c
      (fun k => { k with
        flight := k.flight ++ [⟨false, d, 0, 0, (s.core c).tcfg, seg, neg, z, (s.core c).tl[a.val], (s.core c).tl[b.val],
          (s.core c).sc[a.val], (s.core c).sc[b.val]⟩]
        mxGated := false }) s
      (.tmac c (BitVec.ofNat 5 (8 + d.val)) (BitVec.ofNat 5 (0 + a.val)) (BitVec.ofNat 5 (0 + b.val)) seg neg z) := by
  rw [changesCore, exec_tmac, execTmac]
  simp only [toNat_code, toNat_accCode, accOf_val, accOf_add 8 d rfl]
  refine tileOp_runs h ?_ ?_
  · simp [hpath, hseg]
    omega
  · rw [bind_ok (modify_run _ s), pure_run]
    exact congrArg (EStateM.Result.ok Next.seq) (s.modCore_congr c (Core.issue_room hroom _))

theorem exec_tfold_issues (d a b : Fin 8) (hpath : pathPresent s c = true) :
    changesCore c
      (fun k => { k with flight := k.flight ++ [⟨true, d, a, b, (s.core c).tcfg, 0, false, false, 0, 0, 0, 0⟩], mxGated := false }) s
      (.tfold c (BitVec.ofNat 5 (8 + d.val)) (BitVec.ofNat 5 (8 + a.val)) (BitVec.ofNat 5 (8 + b.val)) 0) := by
  rw [changesCore, exec_tfold, execTfold]
  simp only [toNat_accCode, accOf_add 8 _ rfl]
  refine tileOp_runs h ?_ ?_
  · simp [hpath]
    omega
  · rw [bind_ok (modify_run _ s), pure_run]
    exact congrArg (EStateM.Result.ok Next.seq) (s.modCore_congr c (Core.issue_room hroom _))

end Issue

/-- A segment that the longer operand does not have. -/
theorem exec_tmac_segment {s : State} {c : CoreId} (h : TileReady c s) (d a b : Fin 8) {seg : BitVec 4} (neg z : Bool)
    (hseg : pairSegs (s.core c).tcfg ≤ seg.toNat) :
    traps c ⟨1, 0, some ((tileWord 0x10 (8 + d.val) a.val b.val
        (seg.toNat * 4 + (if neg then 2 else 0) + (if z then 1 else 0))).setWidth 64)⟩ s
      (.tmac c (BitVec.ofNat 5 (8 + d.val)) (BitVec.ofNat 5 (0 + a.val)) (BitVec.ofNat 5 (0 + b.val)) seg neg z) := by
  intro u hu
  rw [exec_tmac, execTmac]
  simp only [toNat_code, toNat_accCode]
  exact tileOp_illegal h (by simp [Nat.not_lt.mpr hseg]) hu

theorem pathPresent_of {s : State} {c : CoreId} (h : route (s.core c).tcfg = .fp64 → hasF64m s.variant = true) : pathPresent s c = true := by
  unfold pathPresent
  split
  · exact h ‹_›
  · rfl

/-! ## An integer `tfold` (R196 to R198) -/

/-- The exact sums of an integer `tfold`. -/
def Core.foldInts (k : Core) (x : Flight) : List Int := ((accInts (k.accAt x.fa)).zip (accInts (k.accAt x.fb))).map fun p => p.1 + p.2
def Core.foldIntOut (k : Core) (x : Flight) : MacOut := MacOut.ofInts (tcIsat x.cfg) (k.foldInts x)

/-- KCOUNT and the sticky bits of both sources. -/
def Core.foldKcount (k : Core) (x : Flight) : BitVec 32 := satAdd (fld (k.tstatAt x.fa) 0 32) (fld (k.tstatAt x.fb) 0 32).toNat
def Core.foldSticky (k : Core) (x : Flight) : Word := (k.tstatAt x.fa ||| k.tstatAt x.fb) &&& 0x0F0000000000

/-- TSTAT after a `tfold`. -/
def Core.foldStat (k : Core) (x : Flight) (rscl : Nat) (o : MacOut) : Word :=
  statWritten (k.tstatAt x.d) (k.foldKcount x) rscl (route x.cfg) ||| k.foldSticky x ||| flag o.ovf 40 ||| flag o.nv 43

theorem Core.commitOf_fold {x : Flight} (hfold : x.fold = true) (k : Core) (tries : List (List LaneDev)) :
    k.commitOf x tries = k.commitFold x tries := by simp [commitOf, hfold]

theorem Core.commitOf_fold_int {x : Flight} (hfold : x.fold = true) (hr : route x.cfg = .int) (k : Core) :
    k.commitOf x [] = k.finish x.d (k.foldStat x 0 (k.foldIntOut x)) (.commit (k.foldIntOut x).cells false) := by
  rw [k.commitOf_fold hfold]
  unfold Core.commitFold
  simp only [hr]
  rw [foldStat, hr]
  rfl

theorem Core.foldInts_getD (k : Core) (x : Flight) {n : Nat} (hn : n < 1024) :
    (k.foldInts x).getD n 0 = accInt (accBits k.acc[x.fa.val] n) + accInt (accBits k.acc[x.fb.val] n) := by
  have hzip : k.foldInts x =
      (List.range 1024).map fun n => accInt (accBits k.acc[x.fa.val] n) + accInt (accBits k.acc[x.fb.val] n) := by
    rw [foldInts, accInts, accInts, List.zip_map', List.map_map]
    rfl
  rw [hzip, List.getD_eq_getElem?_getD, List.getElem?_map, List.getElem?_range hn]
  rfl

theorem Core.length_foldInts (k : Core) (x : Flight) : (k.foldInts x).length = 1024 := by
  rw [foldInts, List.length_map, List.length_zip, length_accInts, length_accInts, Nat.min_self]

theorem Core.foldStat_kcount (k : Core) (x : Flight) (rscl : Nat) (o : MacOut) : fld (k.foldStat x rscl o) 0 32 = k.foldKcount x := by
  have hsticky : fld (k.foldSticky x) 0 32 = 0 := by
    simp [foldSticky, BitVec.extractLsb'_and]
  rw [foldStat, fld_or_flag _ _ (by decide), fld_or_flag _ _ (by decide), fld_or, statWritten_kcount, hsticky]
  exact BitVec.or_zero

/-- Each sticky bit of a source is kept (R198). -/
theorem Core.foldStat_sticky (k : Core) (x : Flight) (rscl : Nat) (o : MacOut) {b : Nat} (hb : b ∈ [40, 41, 42, 43])
    (h : bit (k.tstatAt x.fa ||| k.tstatAt x.fb) b = true) : bit (k.foldStat x rscl o) b = true := by
  have hmask : ∀ b ∈ [40, 41, 42, 43], bit (0x0F0000000000 : Word) b = true := by decide
  have hsticky : bit (k.foldSticky x) b = true := by rw [foldSticky, bit_and, hmask b hb, Bool.and_true, h]
  rw [foldStat, bit_or, bit_or, bit_or, hsticky, Bool.or_true, Bool.true_or, Bool.true_or]

/-! ## The obligation -/

/-- Settles O17: what issues by the decode checks of each instruction, an integer `tfold` by its cells and the fields of TSTAT. -/
theorem matrixOperationsIssueAndFold : Obligations.MatrixOperationsIssueAndFold := by
  unfold Obligations.MatrixOperationsIssueAndFold
  refine ⟨fun s c d a b seg neg z h => ?_, ?_⟩
  · intro k code issues hroom hpath
    exact ⟨exec_tmac_issues h hroom d a b neg z (pathPresent_of hpath), exec_tmac_segment h d a b neg z,
      exec_tfold_issues h hroom d a b (pathPresent_of hpath)⟩
  · intro s c x xs k hf hfold hs hforced hr
    have hrun := commitRow_commits hf hs hforced (k.commitOf_fold_int hfold hr)
    rw [hfold] at hrun
    refine ⟨_, congrArg Host.Outcome.next hrun, fun n hn => ?_, ?_, fun b hb hbit => ?_, Core.finish_frame _ _ _ hf⟩
    · rw [Core.finish_acc, Core.foldIntOut, accBits_ofInts _ hn (by rw [k.length_foldInts]; exact hn), accInt_int32, k.foldInts_getD x hn]
    · rw [Core.finish_tstat, k.foldStat_kcount]
      exact satAdd_eq_ofNat _ _
    · rw [Core.finish_tstat]
      exact k.foldStat_sticky x 0 _ hb hbit

end Machine
end Sys2Proof
end

section
/-! PROOFS. Float `tmac`: each element without RESCALE, and the rows of special values in their order (R151, R159, R180, R202). -/

namespace Sys2Proof
namespace Machine

/-! ## A float `tmac` without RESCALE (R151, R180, R202) -/

/-- The prior values and the scaling of a float `tmac`. -/
def Core.macVals (k : Core) (x : Flight) : List Val :=
  if x.z then List.replicate 1024 (.zero false) else accVals (accFmt (route x.cfg)) (tcFtz x.cfg) (k.accAt x.d)
def Core.macRscl (k : Core) (x : Flight) : Nat := if x.z then 0 else tsRscl (k.tstatAt x.d)
/-- Its result without RESCALE. -/
def Core.macElems (k : Core) (x : Flight) : List Elem := macFloat x.input (k.macRscl x) (k.macVals x)
def Core.macFloatOut (k : Core) (x : Flight) : MacOut := MacOut.ofElems (accFmt (route x.cfg)) (k.macElems x)

theorem rescaling_off {cfg : Word} (h : tcRescale cfg = false) (f : Nat → List Elem) (rscl fuel n : Nat) :
    rescaling cfg f rscl (fuel + 1) n = (n, f n) := by simp [rescaling, h]

theorem scaledBy_zero (cfg : Word) (f : Fmt) (fuel : Nat) (vs : List Val) : scaledBy cfg f (fuel + 1) 0 vs = vs := by simp [scaledBy]

theorem Core.commitOf_mac_float {x : Flight} (hfold : x.fold = false) (hr : route x.cfg ≠ .int) (hres : tcRescale x.cfg = false) (k : Core) :
    k.commitOf x [] = k.finish x.d (k.macStat x (k.macRscl x) (k.macFloatOut x)) (.commit (k.macFloatOut x).cells false) := by
  rw [k.commitOf_mac hfold]
  unfold Core.commitMac
  cases hroute : route x.cfg with
  | int => exact absurd hroute hr
  | narrow | wide | fp64 =>
    simp only [rescaling_off hres _ _ 64 0, scaledBy_zero, macStat, macFloatOut, macElems, macVals, hroute]
    rfl

theorem Core.macVals_getD (k : Core) (x : Flight) {n : Nat} (hn : n < 1024) :
    (k.macVals x).toArray[n]?.getD (.zero false) =
      if x.z then .zero false else accVal (accFmt (route x.cfg)) (tcFtz x.cfg) (accBits k.acc[x.d.val] n) := by
  rw [List.getElem?_toArray, macVals]
  split
  · rw [List.getElem?_replicate, if_pos hn]
    rfl
  · rw [accVals, List.getElem?_map, List.getElem?_range hn]
    rfl

theorem Core.macFloatOut_bits (k : Core) (x : Flight) {r q : Nat} (hr : r < 32) (hq : q < 32) :
    accBits (packAcc (k.macFloatOut x).cells) (32 * r + q) =
      (macElem x.input (k.macRscl x) (x.input.as.getD r []) (x.input.bs.getD q [])
        (if x.z then .zero false else accVal (accFmt (route x.cfg)) (tcFtz x.cfg) (accBits k.acc[x.d.val] (32 * r + q)))).bits
          (accFmt (route x.cfg)) % 2 ^ 64 := by
  rw [accBits_packAcc _ (by omega), List.getD_eq_getElem?_getD, macFloatOut, MacOut.ofElems, List.getElem?_map, macElems, macFloat,
    getElem?_grid _ hr hq, Option.map_some, Option.getD_some, k.macVals_getD x (by omega)]

theorem Core.macRscl_lt (k : Core) (x : Flight) : k.macRscl x < 2 ^ 7 := by
  unfold macRscl
  split
  · decide
  · exact (fld (k.tstatAt x.d) 32 7).isLt

/-! ## Special values (R159) -/

/-- The signs of the infinite terms, the prior value among them. -/
def infSigns (neg : Bool) (as bs : List Val) (prior : Val) : List Bool :=
  let infs := ((as.zip bs).filter fun p => p.1.isInf || p.2.isInf).map fun p => (p.1.neg != p.2.neg) != neg
  if prior.isInf then prior.neg :: infs else infs

theorem isNan_of_isSnan {v : Val} (h : v.isSnan = true) : v.isNan = true := by
  cases v with
  | nan => rfl
  | inf | fin => exact absurd h Bool.false_ne_true

/-- The rows in order, with no test for ordinary values before them. -/
theorem special_eq (neg : Bool) (as bs : List Val) (prior : Val) :
    special neg as bs prior =
      if as.any (·.isSnan) || bs.any (·.isSnan) then some (.nan false, true)
      else if (as.zip bs).any fun p => (p.1.isInf && p.2.isZero) || (p.1.isZero && p.2.isInf) then some (.nan false, true)
      else if as.any (·.isNan) || bs.any (·.isNan) || prior.isNan then some (.nan false, false)
      else specialInf (infSigns neg as bs prior) := by
  unfold special
  split
  case isFalse => rfl
  case isTrue h =>
    simp only [Bool.not_eq_true', Bool.or_eq_false_iff, List.any_eq_false, Bool.not_eq_true] at h
    obtain ⟨⟨⟨has, hbs⟩, hpnan⟩, hpinf⟩ := h
    have hsnan {vs : List Val} (hv : ∀ v ∈ vs, v.isNan = false ∧ v.isInf = false) : vs.any (·.isSnan) = false :=
      List.any_eq_false.mpr fun v hm hs => absurd (isNan_of_isSnan hs) (by rw [(hv v hm).1]; exact Bool.false_ne_true)
    have hnan {vs : List Val} (hv : ∀ v ∈ vs, v.isNan = false ∧ v.isInf = false) : vs.any (·.isNan) = false :=
      List.any_eq_false.mpr fun v hm => by rw [(hv v hm).1]; exact Bool.false_ne_true
    have hzip : ∀ p ∈ as.zip bs, p.1.isInf = false ∧ p.2.isInf = false := fun p hp =>
      ⟨(has _ (List.of_mem_zip hp).1).2, (hbs _ (List.of_mem_zip hp).2).2⟩
    have hclash : ((as.zip bs).any fun p => (p.1.isInf && p.2.isZero) || (p.1.isZero && p.2.isInf)) = false :=
      List.any_eq_false.mpr fun p hp => by simp [hzip p hp]
    have hinfs : infSigns neg as bs prior = [] := by
      have hnone : (as.zip bs).filter (fun p => p.1.isInf || p.2.isInf) = [] :=
        List.filter_eq_nil_iff.mpr fun p hp => by simp [hzip p hp]
      rw [infSigns, hnone, hpinf]
      rfl
    rw [hsnan has, hsnan hbs, hclash, hnan has, hnan hbs, hpnan, hinfs]
    rfl

/-- Which signs the infinite terms have. -/
theorem contains_infSigns (neg : Bool) (as bs : List Val) (prior : Val) (b : Bool) :
    (infSigns neg as bs prior).contains b =
      ((as.zip bs).any (fun p => (p.1.isInf || p.2.isInf) && (b == ((p.1.neg != p.2.neg) != neg))) || (prior.isInf && (b == prior.neg))) := by
  have hinfs : ((((as.zip bs).filter fun p => p.1.isInf || p.2.isInf).map fun p => (p.1.neg != p.2.neg) != neg).contains b) =
      (as.zip bs).any fun p => (p.1.isInf || p.2.isInf) && (b == ((p.1.neg != p.2.neg) != neg)) := by
    rw [List.contains_eq_any_beq, List.any_map, List.any_filter]
    rfl
  cases hp : prior.isInf with
  | false => rw [infSigns, hp, if_neg Bool.false_ne_true, hinfs, Bool.false_and, Bool.or_false]
  | true => rw [infSigns, hp, if_pos rfl, List.contains_cons, hinfs, Bool.true_and, Bool.or_comm]

theorem specialInf_eq (signs : List Bool) :
    specialInf signs =
      if signs.contains false && signs.contains true then some (.nan false, true) else if signs.contains false then some (.inf false, false)
      else if signs.contains true then some (.inf true, false) else none := by
  unfold specialInf
  cases signs.contains true <;> cases signs.contains false <;> rfl

/-! ## The obligation -/

theorem not_bne_eq_decide : ∀ x y : Bool, (!(x != y)) = decide (x = y) := by decide

/-- Settles O19: an element by its row and column, with no repetition of the sums; the rows of special values as they follow one another. -/
theorem floatMacElementsAndSpecials : Obligations.FloatMacElementsAndSpecials := by
  unfold Obligations.FloatMacElementsAndSpecials
  refine ⟨?_, fun neg as bs prior => ?_⟩
  · intro s c x xs k hf hfold hs hforced hr hres f i rscl
    have hrun := commitRow_commits hf hs hforced (k.commitOf_mac_float hfold hr hres)
    rw [hfold] at hrun
    refine ⟨_, congrArg Host.Outcome.next hrun, fun r hr' q hq => ?_, ?_, ?_, Core.finish_frame _ _ _ hf⟩
    · rw [Core.finish_acc]
      exact k.macFloatOut_bits x hr' hq
    · rw [Core.finish_tstat, tsRscl, k.macStat_rscl, BitVec.toNat_ofNat, Nat.mod_eq_of_lt (k.macRscl_lt x)]
      rfl
    · rw [Core.finish_tstat, k.macStat_path]
  · intro snan clash nan ups downs
    rw [special_eq]
    refine ⟨fun h => if_pos h, fun hs hc => ?_, fun hs hc hn => ?_, fun hs hc hn _ => ?_⟩
    · exact (if_neg (Bool.eq_false_iff.mp hs)).trans (if_pos hc)
    · exact (if_neg (Bool.eq_false_iff.mp hs)).trans ((if_neg (Bool.eq_false_iff.mp hc)).trans (if_pos hn))
    · refine (if_neg (Bool.eq_false_iff.mp hs)).trans ((if_neg (Bool.eq_false_iff.mp hc)).trans ((if_neg (Bool.eq_false_iff.mp hn)).trans ?_))
      have hups : (infSigns neg as bs prior).contains false = ups := by
        simp only [contains_infSigns, Bool.false_beq, not_bne_eq_decide, ups]
      have hdowns : (infSigns neg as bs prior).contains true = downs := by
        simp only [contains_infSigns, Bool.true_beq, downs]
      rw [specialInf_eq, hups, hdowns]

end Machine
end Sys2Proof
end

section
/-! PROOFS. Rows with no spare row left: the write that mirrors their report can itself read an uncorrectable line, whose page is then reported
as well (R326, R437 to R439, R451, R485). -/

namespace Sys2Proof
namespace Machine

/-! ## The state that refutes the count -/

/-- Line 5 of stack 0 gave corrected errors in two scrub passes, and its bank has no spare row left. The replies are mirrored at 64 MiB, a line of
stack 0 with two symbols in error, and entries 1 to 1007 of the lost-page table hold other pages. -/
def spoiltMirror : State :=
  { State.reset with
    th := { State.reset.th with node := some 0 }
    power := { State.reset.power with rootLock := true }
    porch := { State.reset.porch with mirror := 0x4000001 }
    coff := { State.reset.coff with lpt := (List.range 1007).map fun i => (i + 1, some ⟨BitVec.ofNat 40 (0x8000 + i), 0, false⟩) }
    mem := { State.reset.mem with scrubbed := [(5, 1), (5, 2)], noSpare := [(0, 7)], errs := [(0x100000, 3)] } }

/-- `spoiltMirror` meets the hypotheses of the clause on a row whose bank has no spare row left, and no reply has been written yet. -/
theorem spoiltMirror_due :
    spoiltMirror.coff.dieStop = false ∧ (0 : Fin 4).val < nStacks spoiltMirror.variant ∧ rowDue 0 [5] spoiltMirror = true ∧
      turnOf (rowOf spoiltMirror 0 [5]) spoiltMirror = true ∧ spoiltMirror.mem.noSpare.contains ((0 : Fin 4).val, 7) = true ∧
      spoiltMirror.coff.events = [] ∧ spoiltMirror.coff.sramErr = none ∧ spoiltMirror.rfull = false ∧ spoiltMirror.porch.waiting = [] ∧
      spoiltMirror.porch.rplPi = 0 := by decide +kernel

/-- The report of the row is one reply. -/
theorem reportRow_spoiltMirror_rplPi : (reportRow 0 [5] spoiltMirror).porch.rplPi = 1 := by decide +kernel

/-- The write of that reply to the mirror loses the mirror's page, the 1008th: the host hears of the table too. -/
theorem rowRepair_spoiltMirror_rplPi :
    (rowRepair 0 7 [5] spoiltMirror).porch.rplPi = (reportRow 0 [5] spoiltMirror).porch.rplPi + 1 := by decide +kernel

/-! ## The obligation -/

/-- Refutes O41: the report of a row whose bank has no spare row left is not always the one reply of ROW_REPAIR. In `spoiltMirror` the same
command serves the write of the report to the mirror, which meets uncorrectable data and fills the lost-page table to the mark at which the
host gets a second notification. -/
theorem not_failedPartsAreSpared : ¬ Obligations.FailedPartsAreSpared := by
  unfold Obligations.FailedPartsAreSpared
  intro h
  obtain ⟨hstop, hstack, hdue, hturn, hspare, hevents, hsram, hfull, hwaiting, hzero⟩ := spoiltMirror_due
  obtain ⟨-, -, -, hrow, -⟩ := h spoiltMirror 0 0 0 0 7 [5] 0 0 hstop
  obtain ⟨t, hexec, hreport, -⟩ := hrow hstack hdue hturn
  have ht : t = rowRepair 0 7 [5] spoiltMirror := (Host.Outcome.next.inj hexec).symm
  have hone : t.porch.rplPi = 0 + 1 := hzero ▸ (hreport hspare).2 hevents hsram hfull hwaiting
  rw [ht, rowRepair_spoiltMirror_rplPi, reportRow_spoiltMirror_rplPi] at hone
  exact absurd hone (by decide)

end Machine
end Sys2Proof
end

section
/-! PROOFS. `tout` without block scales: the elements of the output stage, the tile register or the rows in memory that they are written to,
FLAGS and CLR (R208 to R211, R215, R220). -/

namespace Sys2Proof
namespace Machine

/-! ## Numbers written slot by slot (R208) -/

theorem testBit_replaceBits (x lo n v i : Nat) :
    (replaceBits x lo n v).testBit i = if lo ≤ i ∧ i < lo + n then v.testBit (i - lo) else x.testBit i := by
  have hlow : 2 ^ lo * (v % 2 ^ n) + x % 2 ^ lo < 2 ^ (lo + n) := by
    have hv := Nat.mul_le_mul_left (2 ^ lo) (Nat.succ_le_of_lt (Nat.mod_lt v (Nat.two_pow_pos n)))
    have hx := Nat.mod_lt x (Nat.two_pow_pos lo)
    rw [Nat.mul_succ] at hv
    rw [Nat.pow_add]
    omega
  have hparts : replaceBits x lo n v = 2 ^ (lo + n) * (x / 2 ^ (lo + n)) + (2 ^ lo * (v % 2 ^ n) + x % 2 ^ lo) := by
    rw [replaceBits, Nat.mul_comm (2 ^ (lo + n)), Nat.mul_comm (2 ^ lo)]
    omega
  rw [hparts, Nat.testBit_two_pow_mul_add _ hlow, Nat.testBit_two_pow_mul_add _ (Nat.mod_lt _ (Nat.two_pow_pos lo)),
    Nat.testBit_mod_two_pow, Nat.testBit_mod_two_pow, Nat.testBit_div_two_pow]
  rcases Nat.lt_or_ge i lo with hi | hi
  · rw [if_pos (show i < lo + n by omega), if_pos hi, if_neg (by omega), decide_eq_true hi, Bool.true_and]
  · rcases Nat.lt_or_ge i (lo + n) with hn | hn
    · rw [if_pos hn, if_neg (Nat.not_lt.mpr hi), if_pos ⟨hi, hn⟩, decide_eq_true (show i - lo < n by omega), Bool.true_and]
    · rw [if_neg (Nat.not_lt.mpr hn), if_neg (by omega), Nat.sub_add_cancel hn]

/-- The number with slots of w bits written in order, each given by its position and its value. -/
def replaceSlots (w : Nat) (ps : List (Nat × Nat)) (x : Nat) : Nat := ps.foldl (fun x p => replaceBits x p.1 w p.2) x

/-- Two slots of w bits that share no bit. -/
def SlotsApart (w lo lo' : Nat) : Prop := lo + w ≤ lo' ∨ lo' + w ≤ lo

theorem testBit_replaceSlots_outside {w i : Nat} {ps : List (Nat × Nat)} (h : ∀ p ∈ ps, ¬ (p.1 ≤ i ∧ i < p.1 + w)) (x : Nat) :
    (replaceSlots w ps x).testBit i = x.testBit i := by
  induction ps generalizing x with
  | nil => rfl
  | cons p ps ih =>
    obtain ⟨hp, hps⟩ := List.forall_mem_cons.mp h
    exact (ih hps _).trans (by rw [testBit_replaceBits, if_neg hp])

/-- A slot that no other slot overlaps holds its value. -/
theorem testBit_replaceSlots_slot {w i : Nat} {p : Nat × Nat} {ps : List (Nat × Nat)} (hp : p ∈ ps)
    (h : ∀ q ∈ ps, q = p ∨ SlotsApart w q.1 p.1) (hlo : p.1 ≤ i) (hhi : i < p.1 + w) (x : Nat) :
    (replaceSlots w ps x).testBit i = p.2.testBit (i - p.1) := by
  induction ps generalizing x with
  | nil => simp at hp
  | cons q ps ih =>
    obtain ⟨-, hps⟩ := List.forall_mem_cons.mp h
    by_cases hm : p ∈ ps
    · exact ih hm hps _
    · obtain rfl : p = q := (List.mem_cons.mp hp).resolve_right hm
      have hrest : ∀ q ∈ ps, ¬ (q.1 ≤ i ∧ i < q.1 + w) := by
        intro q hq
        have hapart : SlotsApart w q.1 p.1 := (hps q hq).resolve_left fun he => hm (he ▸ hq)
        unfold SlotsApart at hapart
        omega
      exact (testBit_replaceSlots_outside hrest _).trans (by rw [testBit_replaceBits, if_pos ⟨hlo, hhi⟩])

theorem replaceSlots_slot {w : Nat} {p : Nat × Nat} {ps : List (Nat × Nat)} (hp : p ∈ ps)
    (h : ∀ q ∈ ps, q = p ∨ SlotsApart w q.1 p.1) (x : Nat) : replaceSlots w ps x / 2 ^ p.1 % 2 ^ w = p.2 % 2 ^ w := by
  refine Nat.eq_of_testBit_eq fun i => ?_
  rw [Nat.testBit_mod_two_pow, Nat.testBit_div_two_pow, Nat.testBit_mod_two_pow]
  by_cases hi : i < w
  · rw [testBit_replaceSlots_slot hp h (by omega) (by omega), Nat.add_sub_cancel]
  · simp [hi]

/-! ## The places of the elements in a tile register (R117, R208) -/

theorem mem_outCols {fmt col q : Nat} :
    q ∈ outCols fmt col ↔ if fmt = 0 then 16 * col ≤ q ∧ q < 16 * col + 16 else q < 32 := by
  unfold outCols
  split
  · simp only [List.mem_map, List.mem_range]
    exact ⟨fun ⟨m, hm, he⟩ => by omega, fun h => ⟨q - 16 * col, by omega, by omega⟩⟩
  · exact List.mem_range

/-- The element of a row of the tile register that column q goes to. -/
def outCell (fmt col q : Nat) : Nat := if fmt = 0 then q - 16 * col else 32 * col + q

/-- The rows of a tile register hold 1024 bits in every format. -/
theorem storageBits_mul_rowLen (fmt : Nat) : storageBits fmt * rowLen fmt = 1024 := by
  unfold rowLen storageBits
  split <;> rfl

theorem rowLen_fp64 : rowLen 0 = 16 := rfl

section Columns
variable {fmt col q : Nat} (hcol : colOk fmt col = true) (hq : q ∈ outCols fmt col)
include hcol hq

theorem col_lt_of_mem_outCols : q < 32 := by
  rw [mem_outCols] at hq
  unfold colOk at hcol
  split at hq
  case isTrue h =>
    rw [if_pos h, decide_eq_true_eq] at hcol
    omega
  case isFalse => exact hq

theorem outCell_lt : outCell fmt col q < rowLen fmt := by
  rw [mem_outCols] at hq
  unfold colOk at hcol
  unfold outCell
  split
  case isTrue h =>
    subst h
    rw [if_pos rfl] at hq
    rw [rowLen_fp64]
    omega
  case isFalse h =>
    simp only [h, if_false, decide_eq_true_eq] at hq hcol
    omega

end Columns

theorem outCell_inj {fmt col q q' : Nat} (hq : q ∈ outCols fmt col) (hq' : q' ∈ outCols fmt col)
    (h : outCell fmt col q = outCell fmt col q') : q = q' := by
  rw [mem_outCols] at hq hq'
  unfold outCell at h
  split at h
  case isTrue h0 =>
    rw [if_pos h0] at hq hq'
    omega
  case isFalse => omega

/-- The bit of the tile register at which element [r][q] begins. -/
def outPlace (fmt col r q : Nat) : Nat := 1024 * r + storageBits fmt * outCell fmt col q

/-- The elements of a tile register, in their order, are its slots. -/
theorem outPlace_eq (fmt col r q : Nat) : outPlace fmt col r q = storageBits fmt * (rowLen fmt * r + outCell fmt col q) := by
  rw [outPlace, Nat.mul_add, ← Nat.mul_assoc, storageBits_mul_rowLen]

theorem slotsApart_of_ne (w : Nat) {m m' : Nat} (h : m ≠ m') : SlotsApart w (w * m) (w * m') := by
  rcases Nat.lt_or_gt_of_ne h with hlt | hlt
  · exact .inl (Nat.mul_succ w m ▸ Nat.mul_le_mul_left w hlt)
  · exact .inr (Nat.mul_succ w m' ▸ Nat.mul_le_mul_left w hlt)

section Places
variable {fmt col r q : Nat} (hcol : colOk fmt col = true) (hq : q ∈ outCols fmt col)
include hcol hq

theorem outPlace_inside (hr : r < 32) : outPlace fmt col r q + storageBits fmt ≤ 32768 := by
  have hrow := Nat.mul_le_mul_left (storageBits fmt) (outCell_lt hcol hq)
  rw [storageBits_mul_rowLen, Nat.mul_succ] at hrow
  unfold outPlace
  omega

theorem outPlace_apart {r' q' : Nat} (hq' : q' ∈ outCols fmt col) (hne : (r, q) ≠ (r', q')) :
    SlotsApart (storageBits fmt) (outPlace fmt col r q) (outPlace fmt col r' q') := by
  rw [outPlace_eq, outPlace_eq]
  refine slotsApart_of_ne _ fun he => hne ?_
  have hlt := outCell_lt hcol hq
  have hlt' := outCell_lt hcol hq'
  have hr : r = r' := by
    have hdiv := congrArg (· / rowLen fmt) he
    simpa [Nat.mul_add_div (Nat.zero_lt_of_lt hlt), Nat.div_eq_of_lt hlt, Nat.div_eq_of_lt hlt'] using hdiv
  subst hr
  rw [outCell_inj hq hq' (Nat.add_left_cancel he)]

end Places

/-- The slots that the tile form writes. -/
def outSlots (oc : Word) (col : Nat) (o : OutResult) : List (Nat × Nat) :=
  (List.range 32).flatMap fun r => (outCols (ocFmt oc) col).map fun q => (outPlace (ocFmt oc) col r q, (o.at_ r q).1)

theorem outTile_eq (oc : Word) (col : Nat) (o : OutResult) (old : Nat) :
    outTile oc col o old = replaceSlots (storageBits (ocFmt oc)) (outSlots oc col o) old := by
  rw [replaceSlots, outSlots, List.foldl_flatMap]
  simp only [List.foldl_map]
  rfl

theorem mem_outSlots {oc : Word} {col : Nat} {o : OutResult} {p : Nat × Nat} :
    p ∈ outSlots oc col o ↔ ∃ r < 32, ∃ q ∈ outCols (ocFmt oc) col, (outPlace (ocFmt oc) col r q, (o.at_ r q).1) = p := by
  simp only [outSlots, List.mem_flatMap, List.mem_range, List.mem_map]

/-- An element of the chosen columns stands at its place. -/
theorem slice_outTile {oc : Word} {col r q : Nat} (hcol : colOk (ocFmt oc) col = true) (hr : r < 32) (hq : q ∈ outCols (ocFmt oc) col)
    (o : OutResult) (old : Nat) :
    slice (BitVec.ofNat 32768 (outTile oc col o old)) (outPlace (ocFmt oc) col r q) (storageBits (ocFmt oc)) =
      (o.at_ r q).1 % 2 ^ storageBits (ocFmt oc) := by
  rw [slice_ofNat _ (outPlace_inside hcol hq hr), outTile_eq]
  refine replaceSlots_slot (p := (outPlace (ocFmt oc) col r q, (o.at_ r q).1)) (mem_outSlots.mpr ⟨r, hr, q, hq, rfl⟩) ?_ old
  intro p hp
  obtain ⟨r', -, q', hq', rfl⟩ := mem_outSlots.mp hp
  by_cases he : (r', q') = (r, q)
  · cases he
    exact .inl rfl
  · exact .inr (outPlace_apart hcol hq' hq he)

/-- A bit outside every element written keeps its value. -/
theorem getLsbD_outTile_outside {oc : Word} {col b : Nat} (old : BitVec 32768)
    (h : ∀ r < 32, ∀ q ∈ outCols (ocFmt oc) col,
      ¬ (outPlace (ocFmt oc) col r q ≤ b ∧ b < outPlace (ocFmt oc) col r q + storageBits (ocFmt oc))) (hb : b < 32768) (o : OutResult) :
    (BitVec.ofNat 32768 (outTile oc col o old.toNat)).getLsbD b = old.getLsbD b := by
  have hslots : ∀ p ∈ outSlots oc col o, ¬ (p.1 ≤ b ∧ b < p.1 + storageBits (ocFmt oc)) := by
    intro p hp
    obtain ⟨r, hr, q, hq, rfl⟩ := mem_outSlots.mp hp
    exact h r hr q hq
  rw [BitVec.getLsbD_ofNat, outTile_eq, testBit_replaceSlots_outside hslots, decide_eq_true hb, Bool.true_and]
  rfl

/-! ## The result of the output stage (R213 to R219) -/

/-- Element [r][q] without block scales: its code, and the flags of all the stages. -/
def OutIn.elem (i : OutIn) (acc : BitVec 65536) (r q : Nat) : Nat × Flags :=
  let z := i.stages (accBits acc (32 * r + q)) r q
  ((convertOut i.oc none z.1).1, (convertOut i.oc none z.1).2 ||| z.2)

/-- A list by number is a grid by rows. -/
theorem map_range_eq_grid {α : Type} (f : Nat → Nat → α) :
    (List.range 1024).map (fun n => f (n / 32) (n % 32)) = (List.range 32).flatMap fun r => (List.range 32).map (f r) := by
  refine List.ext_getElem? fun i => ?_
  rcases Nat.lt_or_ge i 1024 with hi | hi
  · have hgrid := getElem?_grid f (m := 32) (n := 32) (r := i / 32) (q := i % 32) (by omega) (by omega)
    rw [Nat.div_add_mod] at hgrid
    rw [hgrid, List.getElem?_map, List.getElem?_range hi]
    rfl
  · rw [List.getElem?_eq_none (by simpa using hi), List.getElem?_eq_none (by rw [length_grid]; exact hi)]

theorem OutIn.run_codes {i : OutIn} (h : ocObsz i.oc = 0) (acc : BitVec 65536) :
    (i.run acc).codes = ((List.range 32).flatMap fun r => (List.range 32).map (i.elem acc r)).toArray := by
  rw [← map_range_eq_grid]
  unfold OutIn.run
  refine congrArg List.toArray (List.map_congr_left fun n hn => ?_)
  have hlt := List.mem_range.mp hn
  simp [h, hlt, OutIn.elem, Nat.div_add_mod]

theorem OutIn.run_at {i : OutIn} (h : ocObsz i.oc = 0) (acc : BitVec 65536) {r q : Nat} (hr : r < 32) (hq : q < 32) :
    (i.run acc).at_ r q = i.elem acc r q := by
  rw [OutResult.at_, run_codes h, List.getElem?_toArray, getElem?_grid _ hr hq]

/-! ## FLAGS and CLR (R125, R211, R220) -/

theorem getLsbD_foldl_or (fs : List Flags) (x : Flags) (i : Nat) :
    (fs.foldl (· ||| ·) x).getLsbD i = (x.getLsbD i || fs.any (·.getLsbD i)) := by
  induction fs generalizing x with
  | nil => simp
  | cons f fs ih => rw [List.foldl_cons, ih, BitVec.getLsbD_or, List.any_cons, Bool.or_assoc]

theorem getLsbD_joinCodes (xs : List (Nat × Flags)) (i : Nat) : (joinCodes xs).getLsbD i = xs.any (·.2.getLsbD i) := by
  rw [joinCodes, joinFlags, getLsbD_foldl_or, List.any_map]
  exact (congrArg (· || _) BitVec.getLsbD_zero).trans (Bool.false_or _)

theorem getLsbD_joinCodes_grid (f : Nat → Nat → Nat × Flags) (rows cols : List Nat) (i : Nat) :
    (joinCodes (rows.flatMap fun r => cols.map (f r))).getLsbD i = rows.any fun r => cols.any fun q => (f r q).2.getLsbD i := by
  rw [getLsbD_joinCodes, List.any_flatMap]
  simp only [List.any_map]
  rfl

/-- TSTATn once FLAGS take the flags of the elements and CLR has acted. -/
def Core.outStat (k : Core) (n : Fin 8) (fl : Flags) (clr : Bool) : Word :=
  let st := k.tstatAt n ||| put fl 43
  if clr then setFld (setFld st 0 (0 : BitVec 39)) 48 (0 : BitVec 2) else st

/-- CLR leaves FLAGS as they are. -/
theorem Core.outStat_flags (k : Core) (n : Fin 8) (fl : Flags) (clr : Bool) {f : Nat} (hf : f < 5) :
    bit (k.outStat n fl clr) (43 + f) = (bit k.tstat[n.val] (43 + f) || fl.getLsbD f) := by
  have hput : (put fl 43).getLsbD (43 + f) = fl.getLsbD f := by
    simp [put, show 43 + f < 64 by omega]
  have hst : (k.tstatAt n ||| put fl 43).getLsbD (43 + f) = (bit k.tstat[n.val] (43 + f) || fl.getLsbD f) := by
    rw [BitVec.getLsbD_or, hput]
    rfl
  cases clr with
  | false => exact hst
  | true =>
    change (setFld (setFld _ 0 (0 : BitVec 39)) 48 (0 : BitVec 2)).getLsbD (43 + f) = _
    rw [getLsbD_setFld _ _ _ (by decide), if_neg (by omega), getLsbD_setFld _ _ _ (by decide), if_neg (by omega), hst]

theorem Core.outDone_eq (k : Core) (n : Fin 8) (fl : Flags) (clr : Bool) :
    k.outDone n fl clr =
      { k with
        acc := k.acc.set n.val (if clr then 0 else k.acc[n.val]), tstat := k.tstat.set n.val (k.outStat n fl clr)
        tuse := k.tuse ||| (if clr then BitVec.ofNat 24 (2 ^ (8 + n.val)) else 0) } := by
  cases clr with
  | true => rfl
  | false => simp [Core.outDone, Core.outStat]

/-! ## What both forms check (R207, R213) -/

theorem exec_tout (c : CoreId) (d a b : BitVec 5) (m clr bit3 : Bool) (col : BitVec 3) (s : State) :
    exec (.tout c d a b m clr bit3 col) s = execTout c d a b m clr bit3 col s := rfl

/-- A ready core with nothing in flight whose OCFG asks for no block scales, and for no vector operand that it may not read. -/
structure ToutReady (c : CoreId) (s : State) : Prop extends TileReady c s where
  idle : (s.core c).flight = []
  vectors : (ocSmode (s.core c).ocfg ≠ 0 ∨ ocBmode (s.core c).ocfg ≠ 0) → (s.core c).ven = true
  fit : (s.core c).operandsFit = true
  noScales : ocObsz (s.core c).ocfg = 0

theorem ToutReady.vectors_pass {c : CoreId} {s : State} (h : ToutReady c s) :
    ((decide (ocSmode (s.core c).ocfg ≠ 0) || decide (ocBmode (s.core c).ocfg ≠ 0)) && !(s.core c).ven) = false := by
  cases hven : (s.core c).ven with
  | true => exact Bool.and_false _
  | false =>
    have hnone : ¬ (ocSmode (s.core c).ocfg ≠ 0 ∨ ocBmode (s.core c).ocfg ≠ 0) := fun hv => by
      rw [h.vectors hv] at hven
      exact Bool.noConfusion hven
    rw [← Bool.decide_or, decide_eq_false hnone, Bool.false_and]

theorem drainAcc_idle {c : CoreId} {s : State} (h : (s.core c).flight = []) (n : Fin 8) : s.modCore c (·.drainAcc n) = s :=
  State.modCore_self (Core.drain_idle h)

/-! ## `tout` to a tile register (R208, R211) -/

theorem Core.tile_tl (k : Core) (d : Fin 8) : k.tile d.val = (k.tl[d.val]).toNat := by
  simp [Core.tile, accOf_val]

theorem Core.setTile_code (k : Core) (d : Fin 8) (x : Nat) : k.setTile d.val x = { k with tl := k.tl.set d.val (BitVec.ofNat 32768 x) } := by
  simp only [k.setTile_tl x d.isLt, accOf_val]

/-- The result of accumulator n. -/
def Core.outAll (k : Core) (n : Fin 8) : OutResult := (k.outIn n).run (k.accAt n)

/-- What the tile form writes: the tile register, and the flags of the elements written. -/
def Core.outTl (k : Core) (d n : Fin 8) (col : Nat) : BitVec 32768 :=
  BitVec.ofNat 32768 (outTile k.ocfg col (k.outAll n) (k.tl[d.val]).toNat)
def Core.outTlFlags (k : Core) (n : Fin 8) (col : Nat) : Flags :=
  joinCodes ((List.range 32).flatMap fun r => (outCols (ocFmt k.ocfg) col).map ((k.outAll n).at_ r))

/-- The core after the tile form. -/
def Core.outTiled (k : Core) (d n : Fin 8) (clr : Bool) (col : Nat) : Core :=
  { k with
    tl := k.tl.set d.val (k.outTl d n col)
    tuse := (k.tuse ||| BitVec.ofNat 24 (2 ^ d.val)) ||| (if clr then BitVec.ofNat 24 (2 ^ (8 + n.val)) else 0)
    acc := k.acc.set n.val (if clr then 0 else k.acc[n.val]), tstat := k.tstat.set n.val (k.outStat n (k.outTlFlags n col) clr) }

theorem outToTile_run {c : CoreId} {s : State} (d n : Fin 8) (clr : Bool) (col : Nat) (ho : ocObsz (s.core c).ocfg = 0) :
    outToTile c d.val n clr col s = .ok ⟨⟩ (s.setCore c ((s.core c).outTiled d n clr col)) := by
  rw [outToTile, modify_run, State.modCore]
  simp only [ho, if_true]
  rw [Core.setTile_code, Core.outDone_eq, Core.tile_tl]
  rfl

theorem exec_tout_tile {c : CoreId} {s : State} (h : ToutReady c s) (d n : Fin 8) (clr : Bool) {col : BitVec 3}
    (hcol : colOk (ocFmt (s.core c).ocfg) col.toNat = true) :
    exec (.tout c (BitVec.ofNat 5 d.val) (BitVec.ofNat 5 (8 + n.val)) 0 false clr false col) s =
      .next (retire c .seq (s.setCore c ((s.core c).outTiled d n clr col.toNat))) := by
  have hd : (BitVec.ofNat 5 d.val).toNat = d.val := by simpa using toNat_code d
  rw [exec_tout, execTout]
  simp only [hd, toNat_accCode, accOf_add 8 n rfl]
  refine tileOp_runs h.toTileReady ?_ ?_
  · simp only [Core.toutOk, hd, toNat_accCode, h.fit, hcol, Nat.le_add_right, show 8 + n.val < 16 by omega, d.isLt, decide_true,
      Bool.not_false, Bool.and_true, Bool.false_eq_true, if_false]
  · simp only [bind_run, get_run, h.vectors_pass, Bool.false_eq_true, if_false, modify_run, drainAcc_idle h.idle,
      outToTile_run d n clr _ h.noScales, pure_run]

/-! ## Rows of elements in memory (R209) -/

theorem fromLe_toLe (n v : Nat) : fromLe (toLe n v) = v % 256 ^ n := by
  induction n generalizing v with
  | zero => exact (Nat.mod_one v).symm
  | succ n ih =>
    rw [toLe, fromLe, ih, BitVec.toNat_ofNat, show 256 ^ (n + 1) = 256 * 256 ^ n from Nat.pow_succ']
    exact Nat.mod_mul.symm

/-- The first n elements of a row, w bits each, as one number. -/
def packCodes (w : Nat) (code : Nat → Nat) (n : Nat) : Nat := (List.range n).foldl (fun x q => x + code q % 2 ^ w * 2 ^ (w * q)) 0

theorem packCodes_succ (w : Nat) (code : Nat → Nat) (n : Nat) :
    packCodes w code (n + 1) = packCodes w code n + code n % 2 ^ w * 2 ^ (w * n) := by
  rw [packCodes, List.range_succ, List.foldl_append]
  rfl

theorem packCodes_lt (w : Nat) (code : Nat → Nat) (n : Nat) : packCodes w code n < 2 ^ (w * n) := by
  induction n with
  | zero => exact Nat.one_pos
  | succ n ih =>
    have hcode := Nat.mul_le_mul_right (2 ^ (w * n)) (Nat.succ_le_of_lt (Nat.mod_lt (code n) (Nat.two_pow_pos w)))
    rw [Nat.succ_mul] at hcode
    rw [packCodes_succ, Nat.mul_succ, Nat.pow_add, Nat.mul_comm (2 ^ (w * n))]
    omega

/-- Each element is read back at its place. -/
theorem packCodes_elem (w : Nat) (code : Nat → Nat) {n q : Nat} (hq : q < n) :
    packCodes w code n / 2 ^ (w * q) % 2 ^ w = code q % 2 ^ w := by
  induction n with
  | zero => omega
  | succ n ih =>
    rw [packCodes_succ]
    rcases Nat.lt_or_ge q n with hlt | hge
    · obtain ⟨j, rfl⟩ := Nat.exists_eq_add_of_lt hlt
      have hpow : code (q + j + 1) % 2 ^ w * 2 ^ (w * (q + j + 1)) = 2 ^ (w * q) * (2 ^ w * (code (q + j + 1) % 2 ^ w * 2 ^ (w * j))) := by
        rw [Nat.add_assoc, Nat.mul_add w q, Nat.mul_succ w j, Nat.add_comm (w * j), Nat.pow_add, Nat.pow_add, Nat.mul_left_comm,
          Nat.mul_left_comm (_ % _)]
      rw [hpow, Nat.add_mul_div_left _ _ (Nat.two_pow_pos _), Nat.add_mul_mod_self_left, ih hlt]
    · obtain rfl : q = n := by omega
      rw [Nat.add_mul_div_right _ _ (Nat.two_pow_pos _), Nat.div_eq_of_lt (packCodes_lt w code q), Nat.zero_add, Nat.mod_mod]

theorem outRow_length (oc : Word) (o : OutResult) (r : Nat) : (outRow oc o r).length = 4 * storageBits (ocFmt oc) := toLe_length ..

theorem outRow_elem (oc : Word) (o : OutResult) (r : Nat) {q : Nat} (hq : q < 32) :
    let w := storageBits (ocFmt oc)
    fromLe (outRow oc o r) / 2 ^ (w * q) % 2 ^ w = (o.at_ r q).1 % 2 ^ w := by
  intro w
  have hrow : fromLe (outRow oc o r) = packCodes w (fun q => (o.at_ r q).1) 32 := by
    have hlt := packCodes_lt w (fun q => (o.at_ r q).1) 32
    refine (fromLe_toLe _ _).trans (Nat.mod_eq_of_lt ?_)
    rwa [show w * 32 = 8 * (4 * w) by omega, Nat.pow_mul] at hlt
  rw [hrow, packCodes_elem w _ hq]

/-! ## `tout` to memory (R209, R210) -/

/-- The rows lie aligned in the strongroom SRAM. -/
def OutRowsInSram (c : CoreId) (base stride : Word) (len : Nat) (s : State) : Prop :=
  ∀ r < 32, InSram c (rowAddr base stride r) len s ∧ rowAddr base stride r % Nat.min len 64 = 0

theorem OutRowsInSram.align {c : CoreId} {base stride : Word} {len : Nat} {s : State} (h : OutRowsInSram c base stride len s) :
    outAlign (rowAddrs base stride 31) (Nat.min len 64) none s = .ok () s := by
  have hnone : (rowAddrs base stride 31).filter (fun a => a % Nat.min len 64 ≠ 0) = [] := by
    refine List.filter_eq_nil_iff.mpr fun a ha => ?_
    obtain ⟨r, hr, rfl⟩ := List.mem_map.mp ha
    rw [decide_eq_true_eq, Decidable.not_not]
    exact (h r (List.mem_range.mp hr)).2
  simp only [outAlign, hnone]
  rfl

theorem OutRowsInSram.plan {c : CoreId} {base stride : Word} {len : Nat} {s : State} (h : OutRowsInSram c base stride len s)
    (hp : Physical c s) :
    tilePlan c ((rowAddrs base stride 31).map fun a => (a, len)) s =
      .ok ((List.range 32).map fun r => sramPieces (s.core c) (rowAddr base stride r, len)) s := by
  have hin : ∀ x ∈ (List.range 32).map fun r => (rowAddr base stride r, len), InSram c x.1 x.2 s := by
    intro x hx
    obtain ⟨r, hr, rfl⟩ := List.mem_map.mp hx
    exact (h r (List.mem_range.mp hr)).1
  have hplan := tilePlan_sram hp hin
  rw [List.map_map] at hplan
  rw [rowAddrs_eq, List.map_map]
  exact hplan

/-- The rows are written in order; what follows them in the data is not. -/
theorem OutRowsInSram.write {c : CoreId} {base stride : Word} {len : Nat} {s : State} (h : OutRowsInSram c base stride len s) (k : Core)
    {row : Nat → List Byte} (hlen : ∀ r, (row r).length = len) (rest : List (List Byte)) :
    tileWrite c ((List.range 32).map fun r => sramPieces k (rowAddr base stride r, len)) ((List.range 32).map row ++ rest) s =
      .ok () ((List.range 32).foldl (fun u r => sramPut c (rowAddr base stride r) (row r) u) s) := by
  rw [tileWrite_take, List.length_map, List.length_range, List.take_left' (by rw [List.length_map, List.length_range])]
  exact tileWrite_sram c k (fun r hr => ⟨(h r (List.mem_range.mp hr)).1.base, hlen r⟩) s

theorem core_sramPut_tstat (c : CoreId) (a : Nat) (bs : List Byte) (s : State) : ((sramPut c a bs s).core c).tstat = (s.core c).tstat := by
  rw [sramPut, State.core_modCore_same]

theorem core_foldl_sramPut_tstat (c : CoreId) (a : Nat → Nat) (bs : Nat → List Byte) (rs : List Nat) (s : State) :
    ((rs.foldl (fun u r => sramPut c (a r) (bs r) u) s).core c).tstat = (s.core c).tstat := by
  induction rs generalizing s with
  | nil => rfl
  | cons r rs ih => rw [List.foldl_cons, ih, core_sramPut_tstat]

/-- The core after the memory form, but for its SRAM. -/
def Core.outDrained (k : Core) (n : Fin 8) (st : Word) (clr : Bool) : Core :=
  { k with
    acc := k.acc.set n.val (if clr then 0 else k.acc[n.val]), tstat := k.tstat.set n.val st
    tuse := k.tuse ||| (if clr then BitVec.ofNat 24 (2 ^ (8 + n.val)) else 0) }

theorem Core.outDone_of_tstat {k k0 : Core} (h : k.tstat = k0.tstat) (n : Fin 8) (fl : Flags) (clr : Bool) :
    k.outDone n fl clr = k.outDrained n (k0.outStat n fl clr) clr := by
  have hst : k.outStat n fl clr = k0.outStat n fl clr := by simp only [outStat, tstatAt, h]
  rw [outDone_eq, hst]
  rfl

theorem modCore_outDone {c : CoreId} {s t : State} (h : (t.core c).tstat = (s.core c).tstat) (n : Fin 8) (fl : Flags) (clr : Bool) :
    (t.modCore c fun k => k.outDone n fl clr) = t.modCore c fun k => k.outDrained n ((s.core c).outStat n fl clr) clr :=
  State.modCore_congr t c (Core.outDone_of_tstat h n fl clr)

/-- Rows 0 to 31 of the result are written in order. -/
def outRowsPut (c : CoreId) (base stride : Word) (oc : Word) (o : OutResult) (s : State) : State :=
  (List.range 32).foldl (fun u r => sramPut c (rowAddr base stride r) (outRow oc o r) u) s

/-- The state after the memory form, but for the PC. -/
def outStored (c : CoreId) (base stride : Word) (n : Fin 8) (clr : Bool) (s : State) : State :=
  (outRowsPut c base stride (s.core c).ocfg ((s.core c).outAll n) s).modCore c fun k =>
    k.outDrained n ((s.core c).outStat n (joinCodes ((s.core c).outAll n).codes.toList) clr) clr

theorem outToMem_run {c : CoreId} {s : State} (h : ToutReady c s) (hp : Physical c s) {base stride : Word} (sb : Word) (n : Fin 8) (clr : Bool)
    (hr : OutRowsInSram c base stride (4 * storageBits (ocFmt (s.core c).ocfg)) s) :
    outToMem c base stride sb n clr s = .ok ⟨⟩ (outStored c base stride n clr s) := by
  have hall : ((s.core c).outIn n).run ((s.core c).accAt n) = (s.core c).outAll n := rfl
  have hput := hr.write (s.core c) (outRow_length (s.core c).ocfg ((s.core c).outAll n)) [outScaleBytes (s.core c).ocfg ((s.core c).outAll n)]
  have hstat := core_foldl_sramPut_tstat c (rowAddr base stride) (outRow (s.core c).ocfg ((s.core c).outAll n)) (List.range 32) s
  unfold outToMem
  simp only [bind_run, get_run, h.noScales, if_true, hr.align, List.append_nil, hr.plan hp, modify_run, drainAcc_idle h.idle, hall, hput]
  rw [modCore_outDone hstat]
  rfl

theorem exec_tout_mem {c : CoreId} {s : State} (h : ToutReady c s) (hp : Physical c s) {d b : BitVec 5} (n : Fin 8) (clr : Bool)
    (hr : OutRowsInSram c (s.g c d.toFin) (s.g c b.toFin) (4 * storageBits (ocFmt (s.core c).ocfg)) s) :
    exec (.tout c d (BitVec.ofNat 5 (8 + n.val)) b true clr false 0) s =
      .next (retire c .seq (outStored c (s.g c d.toFin) (s.g c b.toFin) n clr s)) := by
  rw [exec_tout, execTout]
  simp only [toNat_accCode, accOf_add 8 n rfl]
  refine tileOp_runs h.toTileReady ?_ ?_
  · simp only [Core.toutOk, toNat_accCode, h.fit, h.noScales, Nat.le_add_right, show 8 + n.val < 16 by omega, decide_true, ne_eq,
      not_true_eq_false, decide_false, Bool.false_and, Bool.not_false, Bool.and_true, if_true]
  · simp only [bind_run, get_run, h.vectors_pass, Bool.false_eq_true, if_false, if_true, outToMem_run h hp _ n clr hr, pure_run]

/-! ## The obligation -/

section Elements
variable {k : Core} (ho : ocObsz k.ocfg = 0) (n : Fin 8)
include ho

theorem Core.outAll_at {r q : Nat} (hr : r < 32) (hq : q < 32) : (k.outAll n).at_ r q = (k.outIn n).elem k.acc[n.val] r q :=
  OutIn.run_at (i := k.outIn n) ho _ hr hq

theorem Core.outAll_flags (f : Nat) :
    (joinCodes (k.outAll n).codes.toList).getLsbD f =
      (List.range 32).any fun r => (List.range 32).any fun q => ((k.outIn n).elem k.acc[n.val] r q).2.getLsbD f := by
  rw [outAll, OutIn.run_codes (i := k.outIn n) ho]
  exact getLsbD_joinCodes_grid _ _ _ f

theorem Core.outTlFlags_getLsbD {col : Nat} (hcol : colOk (ocFmt k.ocfg) col = true) (f : Nat) :
    (k.outTlFlags n col).getLsbD f =
      (List.range 32).any fun r => (outCols (ocFmt k.ocfg) col).any fun q => ((k.outIn n).elem k.acc[n.val] r q).2.getLsbD f := by
  have helems : (List.range 32).flatMap (fun r => (outCols (ocFmt k.ocfg) col).map ((k.outAll n).at_ r)) =
      (List.range 32).flatMap fun r => (outCols (ocFmt k.ocfg) col).map ((k.outIn n).elem k.acc[n.val] r) :=
    congrArg List.flatten (List.map_congr_left fun r hr => List.map_congr_left fun q hq =>
      Core.outAll_at ho n (List.mem_range.mp hr) (col_lt_of_mem_outCols hcol hq))
  rw [outTlFlags, helems]
  exact getLsbD_joinCodes_grid _ _ _ f

end Elements

section Tiled
variable (k : Core) (d n : Fin 8) (clr : Bool) (col : Nat)

theorem Core.outTiled_tl : (k.outTiled d n clr col).tl[d.val] = k.outTl d n col := Vector.getElem_set_self ..
theorem Core.outTiled_acc : (k.outTiled d n clr col).acc[n.val] = if clr then 0 else k.acc[n.val] := Vector.getElem_set_self ..
theorem Core.outTiled_tstat : (k.outTiled d n clr col).tstat[n.val] = k.outStat n (k.outTlFlags n col) clr := Vector.getElem_set_self ..

/-- The tile form writes tlD, accn under CLR, TSTATn and TUSE only. -/
theorem Core.outTiled_frame :
    let k' := k.outTiled d n clr col
    k' = { k with
      tl := k.tl.set d.val k'.tl[d.val]
      tuse := (k.tuse ||| BitVec.ofNat 24 (2 ^ d.val)) ||| (if clr then BitVec.ofNat 24 (2 ^ (8 + n.val)) else 0)
      acc := k.acc.set n.val k'.acc[n.val], tstat := k.tstat.set n.val k'.tstat[n.val] } := by
  intro k'
  simp only [k', outTiled_tl, outTiled_acc, outTiled_tstat]
  rfl

end Tiled

/-- Settles O21: every element written stands in a slot of its own, in the tile register or in its row of memory, and is the result of the
stages; FLAGS join the flags of the elements written. -/
theorem outputStage : Obligations.OutputStage := by
  unfold Obligations.OutputStage
  constructor
  · intro s c d n clr col h hf k oc hven hfit hcol ho w at_ elem
    have hready : ToutReady c s := { h with idle := hf, vectors := hven, fit := hfit, noScales := ho }
    refine ⟨_, exec_tout_tile hready d n clr hcol, fun r hr q hq => ?_, fun b hb hout => ?_, fun f hf => ?_, Core.outTiled_acc ..,
      Core.outTiled_frame ..⟩
    · rw [Core.outTiled_tl]
      refine (slice_outTile hcol hr hq _ _).trans ?_
      rw [Core.outAll_at ho n hr (col_lt_of_mem_outCols hcol hq)]
      rfl
    · rw [Core.outTiled_tl]
      exact getLsbD_outTile_outside _ hout hb _
    · rw [Core.outTiled_tstat, Core.outStat_flags _ n _ clr hf, Core.outTlFlags_getLsbD ho n hcol]
      rfl
  · intro s c d b n clr h hp hf k oc hven hfit ho w row elem hr
    have hready : ToutReady c s := { h with idle := hf, vectors := hven, fit := hfit, noScales := ho }
    refine ⟨_, _, exec_tout_mem hready hp n clr hr, fun r hr => ⟨outRow_length .., fun q hq => ?_⟩, fun f hf => ?_⟩
    · refine (outRow_elem oc (k.outAll n) r hq).trans ?_
      rw [Core.outAll_at ho n hr hq]
      rfl
    · rw [Core.outStat_flags _ n _ clr hf, Core.outAll_flags ho n]
      rfl

end Machine
end Sys2Proof
end
